-- ==== Sys2Proof/Word.lean ====
section
/-!
DEFINITION. The words of the machine: bytes, 32-bit lanes, 64-bit registers, 1,024-bit vectors, and the
two readings (unsigned, signed) of a word. Rules R1, R2 and R128 of the spec fix the numbering of bits and
the two's-complement reading.
-/

namespace Sys2Proof

/-- One byte of a memory. -/
abbrev Byte := BitVec 8
/-- A 32-bit lane, element or instruction word. -/
abbrev W32 := BitVec 32
/-- A 64-bit register or scalar token. -/
abbrev W64 := BitVec 64
/-- A 1,024-bit vector register or vector token (R79, R129). -/
abbrev V1024 := BitVec 1024

/-- Bits `[lo + n - 1 : lo]` of a natural number, as an unsigned value (R1). -/
def bitsOf (x lo n : Nat) : Nat := x / 2 ^ lo % 2 ^ n

/-- Bit `i` of a natural number. -/
def bitOf (x i : Nat) : Bool := x / 2 ^ i % 2 == 1

/-- `v` wrapped to `n` bits and read unsigned (R125, `wrap` read unsigned). -/
def wrapU (v : Int) (n : Nat) : Nat := (v % (2 ^ n : Nat)).toNat

/-- The signed two's-complement reading of the low `n` bits of `x` (R128). -/
def signedOf (x n : Nat) : Int :=
  let y := x % 2 ^ n
  if 2 ^ n ≤ 2 * y then (y : Int) - (2 ^ n : Nat) else (y : Int)

end Sys2Proof
end

