-- ==== Sys2Proof/Machine/Tbl.lean ====
section
/-!
DEFINITION. The two containers of the state, both plain lists in order of their keys: `Tbl`, a sparse table
from a natural number to an entry, and memory cells, a sparse list of (address, byte) pairs in one canonical
form. An unlisted entry reads as the default its reader gives.
-/

namespace Sys2Proof.Machine

/-- A sparse table: entries in order of their keys, no key twice. -/
abbrev Tbl (β : Type) := List (Nat × β)

/-- The entry at `k`, if one is listed. -/
def Tbl.get? {β : Type} (t : Tbl β) (k : Nat) : Option β := t.lookup k

/-- The entry at `k`, or `d`. -/
def Tbl.get {β : Type} (t : Tbl β) (d : β) (k : Nat) : β := (t.get? k).getD d

/-- The table with `v` at `k`. -/
def Tbl.put {β : Type} (t : Tbl β) (k : Nat) (v : β) : Tbl β :=
  t.filter (fun p => p.1 < k) ++ (k, v) :: t.filter (fun p => k < p.1)

/-- The table without an entry at `k`. -/
def Tbl.drop {β : Type} (t : Tbl β) (k : Nat) : Tbl β := t.filter (fun p => p.1 != k)

/-- The keys of a table rise strictly. -/
def Tbl.wf {β : Type} (t : Tbl β) : Bool := decide (t.Pairwise (fun a b => a.1 < b.1))

/-- Memory cells in order of their addresses; an unlisted address reads as the background gives. -/
abbrev Cells := List Host.Cell

/-- The byte at `a` over the background `bg`. -/
def Cells.readByte (bg : Nat → Byte) (cs : Cells) (a : Nat) : Byte := (cs.lookup a).getD (bg a)

/-- The cells of the bytes `bs` from address `a` on that differ from the background. -/
def Cells.fresh (bg : Nat → Byte) : Nat → List Byte → Cells
  | _, [] => []
  | a, b :: bs => if b = bg a then fresh bg (a + 1) bs else (a, b) :: fresh bg (a + 1) bs

/-- The cells after the bytes `bs` are written from address `a` on. -/
def Cells.writeBytes (bg : Nat → Byte) (cs : Cells) (a : Nat) (bs : List Byte) : Cells :=
  cs.filter (fun p => p.1 < a) ++ Cells.fresh bg a bs ++ cs.filter (fun p => a + bs.length ≤ p.1)

/-- The cells with every address of `[a, a + n)` back at the background. -/
def Cells.clear (cs : Cells) (a n : Nat) : Cells :=
  cs.filter (fun p => p.1 < a) ++ cs.filter (fun p => a + n ≤ p.1)

/-- The `n` bytes from address `a` on, lowest address first. -/
def Cells.readBytes (bg : Nat → Byte) (cs : Cells) (a : Nat) : Nat → List Byte
  | 0 => []
  | n + 1 => Cells.readByte bg cs a :: Cells.readBytes bg cs (a + 1) n

/-- The canonical form: addresses strictly rising, no entry equal to the background. -/
def Cells.wf (bg : Nat → Byte) (cs : Cells) : Bool :=
  decide (cs.Pairwise (fun a b => a.1 < b.1)) && cs.all (fun p => p.2 != bg p.1)

/-- The unsigned value of a little-endian byte list (R2). -/
def leValue : List Byte → Nat
  | [] => 0
  | b :: bs => b.toNat + 256 * leValue bs

/-- The `n` little-endian bytes of a value (R2). -/
def leBytes (v : Nat) : Nat → List Byte
  | 0 => []
  | n + 1 => BitVec.ofNat 8 v :: leBytes (v / 256) n

end Sys2Proof.Machine
end

