-- ==== Sys2Proof/Machine/Types.lean ====
section
/-!
DEFINITION. The data that instructions and events of the device carry: formats and register files, tokens,
fault codes and trap records, crystalliser requests, messages between cores, stream flits, launch records,
barrier objects, codewords. Only data stands here; what is done with it stands in the families.

Keys: a core, service core or router is `pkg * 32768 + index` (R11, R12); a crystalliser is
`pkg * 2048 + index` (R13); a die is `pkg * 32 + index`.
-/

namespace Sys2Proof.Machine

/-- Predicate mode (R43). -/
inductive Pm where
  | always | onTrue | onFalse | ternary
deriving DecidableEq, Repr, Inhabited

/-- Operand width of scalar integer instructions (R103): `.w` 32 bits, `.d` 64 bits. -/
inductive Wid where
  | w32 | w64
deriving DecidableEq, Repr, Inhabited

/-- Element formats, in the order of their codes 0 to 7 (R69, R168). -/
inductive Fmt where
  | f32 | bf16 | f16 | bfx8 | i32 | i16 | i8 | bfx4
deriving DecidableEq, Repr, Inhabited

/-- Register files, in the order of the cls codes (R40). -/
inductive RegFile where
  | gr | pr | vr | ox
deriving DecidableEq, Repr, Inhabited

/-- Directions of links, in the order of R41 and R73: N, E, S, W. -/
inductive Dir where
  | north | east | south | west
deriving DecidableEq, Repr, Inhabited

/-- State of a register or tile (R80). -/
inductive RegState where
  | full | empty | invalid
deriving DecidableEq, Repr, Inhabited

/-- A register: its state and its content. An INVALID register's content reads zero (R80). -/
structure Reg (w : Nat) where
  st : RegState := .invalid
  val : BitVec w := 0
deriving DecidableEq, Repr, Inhabited

/-- A token (R44): null, a scalar of 64 bits, or a vector of 1,024 bits with its lane validities. -/
inductive Tok where
  | null
  | scalar (v : W64)
  | vector (x : V1024) (m : W32)
deriving DecidableEq, Repr, Inhabited

/-- Fault codes (R361). -/
inductive FaultCode where
  | illeg | blkfmt | priv | align | lbound | xlat | prot | stalegen | mref | ltype | wafrz | xnf
  | fillc | vundef | tshape | bovr | qfull | hbmiss | sdc | order | uecc | fenced | deadlk | escape
  | bkpt | wdog | trapi
deriving DecidableEq, Repr, Inhabited

/-- Why a fault was raised: its code and the fields of the trap record that depend on it (R359). -/
structure Cause where
  code : FaultCode
  sub : Nat := 0
  file : Nat := 0
  emp : Bool := false
  va : Nat := 0
  cmb : Bool := false                        -- of a combined request (R217), and the further faults counted (R242)
  more : Nat := 0
deriving DecidableEq, Repr, Inhabited

/-- A trap record (R359). -/
structure TrapRec where
  core : Nat := 0
  ctx : Nat := 0
  more : Nat := 0
  pair : Bool := false
  dlg : Bool := false
  emp : Bool := false
  cmb : Bool := false
  dfr : Bool := false
  file : Nat := 0
  sub : Nat := 0
  cause : FaultCode := .illeg
  gtid : W64 := 0
  blk : Nat := 0
  va : Nat := 0
  rslot : Nat := 0
  rblk : Nat := 0
  aux : W64 := 0
  tb : Nat := 0
deriving DecidableEq, Repr, Inhabited

/-- Page classes (R27). -/
inductive PageClass where
  | priv | lat | sched | hostm | code
deriving DecidableEq, Repr, Inhabited

/-- Lattice types, in the order of their codes (R210). -/
inductive LType where
  | max | min | or | cnt | sum | once | fill
deriving DecidableEq, Repr, Inhabited

/-- Type, width code, signedness and tile-size code of a LAT page or frame (R209). -/
structure LatAttr where
  ty : LType := .max
  width : Nat := 0
  sgn : Bool := false
  fsz : Nat := 0
deriving DecidableEq, Repr, Inhabited

/-- A leaf translation entry as a walk accepts it (R291, R292). -/
structure Leaf where
  cls : PageClass := .priv
  lat : LatAttr := {}
  wr : Bool := false
  isAlias : Bool := false
  shadow : Bool := false
  opkg : Nat := 0
  ocore : Nat := 0
  frame : Nat := 0
  big : Bool := false
deriving DecidableEq, Repr, Inhabited

/-- An entry of a translation buffer (R204). -/
structure TlbEntry where
  asid : Nat
  gen : Nat
  vpage : Nat
  leaf : Leaf
deriving DecidableEq, Repr, Inhabited

/-- A constituent of a request: the issuing core and context and the request's number (R227). -/
structure Who where
  core : Nat := 0
  ctx : Nat := 0
  id : Nat := 0
  va : Nat := 0                              -- its virtual address and releasing block and slot (R242)
  rblk : Nat := 0
  rslot : Nat := 0
  copy : Option Nat := none                  -- the copy command it belongs to
deriving DecidableEq, Repr, Inhabited

/-- Where the response to a request goes. -/
inductive Ret where
  | ctx                                    -- the issuing contexts (R241, R242)
  | load (serial slot part : Nat)          -- a load or exact read of a block
  | copyRead (cmd run : Nat)               -- a run read by the copy engine
  | copyWrite (cmd : Nat)                  -- a run or completion join written by the copy engine
  | psb (entry : Nat)                      -- a drained private store
  | line (va : Nat)                        -- a block-cache line
  | service (pkg : Nat)                    -- a service core (FRZQ)
  | host (tag : Nat)                       -- the host
deriving DecidableEq, Repr, Inhabited

/-- What a crystalliser request asks for (R240 to R251, R199, R198). -/
inductive ReqKind where
  | join | fill | wait | freeze | exact | faddb | incw | read | store
deriving DecidableEq, Repr, Inhabited

/-- A request to a crystalliser. -/
structure Req where
  kind : ReqKind
  pa : Nat                                   -- physical address of the location or group
  va : Nat := 0                              -- virtual address (R224)
  lat : LatAttr := {}
  code : Bool := false                       -- a read of a CODE page
  val : Nat := 0                             -- join value or increment
  bound : Nat := 0                           -- FADDB and INCW bound
  bytes : List (Option Byte) := []           -- FILL units or private store bytes from `pa` on
  n : Nat := 0                               -- bytes read
  trig : Option (List Nat) := none           -- trigger members; none is ANY
  asid : Nat := 0
  gen : Nat := 0
  lid : Nat := 0                             -- launch identifier (R224, R225)
  who : List Who := []
  dst : Nat := 0                             -- destination g register
  rblk : Nat := 0
  rslot : Nat := 0
  ret : Ret := .ctx
  part : Nat := 0                            -- which part of a read this is
  held : Bool := false                       -- to be held in the combining buffer it enters (R226)
  serving : Bool := false                    -- false: reaching the port; true: its service ends
  queued : Bool := false                     -- first of the requests that wait for their frame
deriving DecidableEq, Repr, Inhabited

/-- A waiter entry of a crystalliser (R220). -/
structure Waiter where
  idx : Nat                                  -- table index, or place in the overflow order
  req : Req
deriving DecidableEq, Repr, Inhabited

/-- A spawn entry (R345). -/
structure Spawn where
  gtid : W64
  entry : Nat
  arg : W64
  ordw : W64
  asid : Nat
  gen : Nat
  pair : Bool := false
  fromCore : Nat := 0                        -- the sender, for a refusal
  fromCtx : Nat := 0
  rblk : Nat := 0                            -- the FORK's block and slot, for a deferred fault
  rslot : Nat := 0
deriving DecidableEq, Repr, Inhabited

/-- A barrier enrolment entry that travels (R280). -/
structure EnrolWord where
  bar : Nat
  dropped : Bool
  next : Nat
deriving DecidableEq, Repr, Inhabited

/-- A continuation with its enrolment message (R275, R280). -/
structure Cont where
  gtid : W64
  blk : Nat
  asid : Nat
  gen : Nat
  dst : Nat                                  -- destination core
  src : Nat                                  -- source core
  sctx : Nat
  expl : Bool := false
  ret : Bool := false
  pair : Bool := false
  rnd : Nat := 0
  gs : Tbl W64 := []
  ps : Tbl W32 := []                         -- the FULL p registers
  oxs : Tbl W64 := []                        -- the FULL ox registers
  cwb0 : Nat := 0
  cwl0 : Nat := 0
  cwb1 : Nat := 0
  cwl1 : Nat := 0
  enr : List EnrolWord := []
  flits : Nat := 5
deriving DecidableEq, Repr, Inhabited

/-- A SEND message (R271). -/
structure SendMsg where
  src : Nat
  sctx : Nat
  dst : Nat
  dctx : Nat
  lid : Nat
  gtid : W64 := 0                            -- of the sending thread (R242)
  word : W64
  tries : Nat := 0
  rblk : Nat := 0
  rslot : Nat := 0
  ord : Nat := 0                             -- its place among the messages of the model, by release (R263)
deriving DecidableEq, Repr, Inhabited

/-- A delegation request (R283). -/
structure DelegMsg where
  call : Bool                                -- DCALL
  src : Nat
  sctx : Nat
  dst : Nat
  reg : Nat
  routine : Nat
  asid : Nat
  gen : Nat
  gtid : W64
  addr : W64
  args : List W64
  tries : Nat := 0
  rblk : Nat := 0
  rslot : Nat := 0
  wait : List Nat := []                      -- requests whose acceptance it awaits (R231)
  ord : Nat := 0                             -- its place among the messages of the model, by release (R263)
deriving DecidableEq, Repr, Inhabited

/-- An exit message (R350). -/
structure ExitMsg where
  value : W64
  slotPa : Nat
  countPa : Nat
  dst : Nat
  asid : Nat := 0
  gen : Nat := 0
  lid : Nat := 0
  taken : Bool := false                      -- ejected in the cycle before this
  src : Nat := 0                             -- the thread that exited, for a fault
  sctx : Nat := 0
  gtid : W64 := 0
deriving DecidableEq, Repr, Inhabited

/-- A stream flit (R265). -/
structure Flit where
  marker : Bool
  strm : Nat
  word : W64
deriving DecidableEq, Repr, Inhabited

/-- A tile operation (R70). -/
inductive TileOp where
  | tld | tst | tzero | tmma | tmmas | tmmac | tckv | tadd | tcvt | ttrn | trow | tins
deriving DecidableEq, Repr, Inhabited

/-- An entry of the engine FIFO with everything it captures (R172). -/
structure TileEntry where
  op : TileOp
  id : Nat := 0                              -- the producer's number of TCKV and TROW
  td : Nat := 0
  ta : Nat := 0
  tb : Nat := 0
  acc : Nat := 0
  reg : Nat := 0                             -- g register of TCKV, v register of TROW
  shD : W32 := 0
  shA : W32 := 0
  shB : W32 := 0
  rnd : Nat := 0
  l : W64 := 0
  r : W64 := 0
  payload : V1024 := 0
  mask : W32 := 0
  checked : Bool := false                    -- runs as its checked form (R185)
  badSrc : Option Nat := none                -- a source that was INVALID when enqueued, or became so since (R173)
  ctx : Nat := 0
  pair : Bool := false
  rblk : Nat := 0
  rslot : Nat := 0
deriving DecidableEq, Repr, Inhabited

/-- An outbound or commit-time effect that an instruction records when it fires (R48, R53, R54). -/
inductive Eff where
  | none
  | wr (f : RegFile) (r : Nat) (t : Tok)
  | localStore (bs : List Host.Cell)
  | privStore (bs : List Host.Cell)
  | hostStore (svc : Nat) (bs : List Host.Cell)
  | reqs (rel : Bool) (rs : List Req)
  | wait (r : Req)
  | sched (r : Req)
  | freeze (rs : List Req)
  | frzq (va : Nat) (pas : List Nat)
  | copy (windowed : Bool) (g : Nat)
  | tile (e : TileEntry)
  | ctl (sub cn : Nat) (v : W64)
  | wcnt (n : Nat) (v : W64)
  | pop (q : Nat)
  | send (m : SendMsg)
  | strm (n : Nat)
  | mark (w : W64)
  | deleg (m : DelegMsg)
  | binit (b count : Nat)
  | arrive (b : Nat) (drop : Bool)
  | bwt (b : Nat)
  | ecomb (b : Nat)
  | hbt
  | trmk (v : W64)
  | fork (sp : Spawn) (o : Nat)
  | merge (g n pa : Nat)
  | retain
  | start (x : Nat) (comm : Bool)
  | reapDump (x pa : Nat)
  | reapTrap (pa : Nat)
  | kill (x : Nat)
  | ackf (x : Nat) (restore : Option Nat)
  | tlbi (scope asid va : Nat)
  | genb (asid : Nat)
  | tblw (code idx : Nat) (ws : List W64)
  | gstop (resume : Bool)
  | gsw
deriving DecidableEq, Repr, Inhabited

/-- A containment rectangle's corners, inclusive (R301). -/
structure Rect where
  col0 : Nat
  row0 : Nat
  col1 : Nat
  row1 : Nat
deriving DecidableEq, Repr, Inhabited

/-- A system operation in progress (R289). -/
inductive SysOp where
  | tlbi (scope asid va : Nat)
  | tblw (code idx : Nat) (ws : List W64)
  | genb (asid : Nat)
  | unfence (rect : Rect)                    -- traffic into a fenced rectangle is admitted again (R301)
deriving DecidableEq, Repr, Inhabited

/-- How a block ends (R52, R334). -/
inductive ExitKind where
  | br | bri | call | calli | ret | mig | exit | dret | trap | eret
deriving DecidableEq, Repr, Inhabited

/-- The exit that fired non-null and what it fixes (R52, R120). -/
structure BlkExit where
  kind : ExitKind
  target : Nat := 0                          -- next block, or destination core of MIG, or trap code
  value : W64 := 0                           -- EXIT or DRET value
  slotPa : Nat := 0                          -- EXIT: slot of the merge area
  countPa : Nat := 0
  owner : Option Nat := none                 -- EXIT: the core that applies the exit message
deriving DecidableEq, Repr, Inhabited

/-- A copy command (R253). -/
structure CopyCmd where
  id : Nat := 0
  windowed : Bool := false
  g : Nat := 0
  ox : List (Reg 64) := []
  ctx : Nat := 0
  pair : Bool := false
  asid : Nat := 0
  gen : Nat := 0
  lid : Nat := 0
  gtid : W64 := 0
  rblk : Nat := 0
  rslot : Nat := 0
  ready : Nat := 0                           -- the cycle the command was received
  checked : Bool := false                    -- its checks at release are done (R258)
  walking : Bool := false                    -- they wait for a translation (R204)
  pages : List (Nat × Option Leaf) := []     -- translations that came for them, by virtual address div 65,536
  cleaf : Option Leaf := none                -- the page of its completion location
  srcAlias : Bool := false                   -- its checks found its source, or its destination, in the alias range (R256)
  dstAlias : Bool := false
  wpkg : Nat := 0                            -- the package that holds the alias
deriving DecidableEq, Repr, Inhabited

/-- A launch record (R340). -/
structure Launch where
  entry : Nat := 0
  args : W64 := 0
  centry : Nat := 0
  col0 : Nat := 0
  row0 : Nat := 0
  width : Nat := 0
  height : Nat := 0
  lid : Nat := 0
  asid : Nat := 0
  prio : Nat := 0
  strict : Bool := false
  twin : Nat := 0
  red : Bool := false
  rights : Bool := false
  energy : Nat := 0
  hbi : Nat := 0
  l1 : Nat := 0
  l2 : Nat := 0
  l3 : Nat := 0
  seeda : Nat := 0
  seedb : Nat := 0
  sa : Nat := 0
  sb : Nat := 0
  mcol0 : Nat := 0
  mrow0 : Nat := 0
  save : Nat := 0
  status : Nat := 0
  pods : Nat := 0
  rsv : Bool := false                        -- a reserved field was not 0
deriving DecidableEq, Repr, Inhabited

/-- The kinds of asynchronous producer (R82). -/
inductive ProdKind where
  | waitt | faddb | incw | cpy | cpyw | tckv | trow | dcall | merge
deriving DecidableEq, Repr, Inhabited

/-- What a parked thread waits on, as a DEADLK entry names it (R376): a register with its producer's kind and, for a WAITT, its
location and trigger set; a queue, by the number QSTAT gives it (R269), 11 for a pair's load-value queue; a barrier and phase; or a
condition of its commit. -/
inductive WaitOn where
  | reg (f : RegFile) (r : Nat) (kind : Option ProdKind) (loc : Option (Nat × Option (List Nat)))
  | queue (q : Nat)
  | barrier (b phase : Nat)
  | commit
deriving DecidableEq, Repr, Inhabited

/-- A DEADLK entry (R376), with the tbase of its report. -/
structure DeadEntry where
  gtid : W64
  core : Nat
  ctx : Nat
  blk : Nat
  slot : Nat
  on : WaitOn
  tb : Nat := 0
  pair : Bool := false
deriving DecidableEq, Repr, Inhabited

/-- The activity sums of a partition (R374). -/
structure Sums where
  tb : Nat := 0
  ready : Nat := 0
  sent : Nat := 0
  received : Nat := 0
  outst : Nat := 0
  engine : Nat := 0
  resend : Nat := 0
  entries : Nat := 0
deriving DecidableEq, Repr, Inhabited

/-- A message between packages, as a codeword carries it (R386). -/
inductive NetMsg where
  | req (h : Nat) (r : Req)
  | accept (w : Who) (ret : Ret)
  | value (c x : Nat) (ret : Ret) (bs : List Byte)
  | produced (c x : Nat) (reg : Nat) (v : W64) (ok : Bool) (id : Nat)
  | fault (r : TrapRec) (ret : Ret) (id : Nat)
  | spawn (dst : Nat) (sp : Spawn)
  | spawnRefused (sp : Spawn) (dst : Nat)
  | cont (k : Cont)
  | contAccepted (c x : Nat)
  | contRefused (c x : Nat) (cause : Option FaultCode) (sub : Nat)
  | send (m : SendMsg)
  | sendRefused (m : SendMsg) (cause : Option FaultCode)
  | deleg (m : DelegMsg)
  | delegRefused (m : DelegMsg) (cause : Option FaultCode)
  | reply (c x reg : Nat) (v : W64)
  | routineFault (m : DelegMsg) (cause : Cause)
  | exitMsg (m : ExitMsg)
  | flit (f : Flit)
  | sums (dst lid pkg : Nat) (s : Sums)
deriving DecidableEq, Repr, Inhabited

/-- A link message of a descriptor flit (R384): a nak with the expected number, the sender's tbase (R388), a message of a pod barrier with the
package it is for (R323), or what a switch declares (R389). -/
inductive LinkMsg where
  | nak (seq : Nat)
  | timeSync (theirs : Nat)
  | barrier (pkg : Nat)
  | capability (s f entries w : Nat)
deriving DecidableEq, Repr, Inhabited

/-- Where a codeword is: on its link; or, for one message that is no longer or not yet in one, on its way to the port it leaves
through, or from the port it came in through. -/
inductive Leg where
  | link | out | into
deriving DecidableEq, Repr, Inhabited

/-- A Brineline codeword (R384): its sequence number, the acknowledged number, the class of its flits when it has no descriptor, the
descriptor's link message and credits, its messages with the cycles by which they follow its first flit, and the packages and ports that
it leaves and reaches. One that only acknowledges carries no flit and takes no sequence number. -/
structure Codeword where
  seq : Option Nat := none
  ack : Nat := 0
  cls : Nat := 3
  used : Nat := 0                            -- its flit slots in use, of 20
  dsc : Bool := false                        -- slot 0 is a descriptor flit
  link : Option LinkMsg := none
  msgs : List (Nat × NetMsg) := []
  cred : List (Nat × Nat) := []              -- credits returned, by class
  leg : Leg := .link
  src : Nat × Nat
  dst : Nat × Nat
deriving DecidableEq, Repr, Inhabited

end Sys2Proof.Machine
end

