-- ==== Sys2Proof/Machine/Event.lean ====
section
/-!
DEFINITION. The events of the device with the data each acts on, under the names of their rows in
Sys2Proof/Syntax.lean (which says what each is). In the arguments, `c` is a core's key, `x` a context (16 is
the copy engine), `d` a die, `h` a crystalliser, `svc` a service core's key; keys are those of
Machine/Types.lean. The `port` of `streamFlitForward` is 0 to 3 for a mesh link, 5 for the router's Brineline port,
8 + q for a flit that enters the core's input queue q, 16 + d for one that leaves its output queue d. In
`barrierArrivalDepart`, `counts` lists a phase and a context for each arrival, `drops` a phase and a number, and
`how` holds the status bits counted (1 ad, 2 dx, 4 dk) and 8 once the message is at the root.
-/

namespace Sys2Proof.Machine

/-- An event with its data. -/
inductive Event where
  | seinjWrite (c : Nat) (v : W64)
  | ebudWrite (d : Nat) (v : W32)
  | hbiWrite (c : Nat) (v : W32)
  | tomWrite (c : Nat) (v : W64)
  | blockFetch (c x : Nat)
  | blockCacheFill (c va asid gen : Nat) (bs : List Byte)
  | translationWalk (c x serial asid gen va : Nat) (slot : Option Nat)
  | blockCommit (c x : Nat)
  | blockStarved (c x : Nat)
  | rotationAccounting
  | producerCompletion (c x : Nat) (f : RegFile) (r : Nat) (v : V1024) (ok : Bool) (id : Nat)
  | loadResult (c x serial slot part : Nat) (bs : List Byte) (err : Option Cause)
  | acceptance (w : Who) (ret : Ret)
  | deferredFault (r : TrapRec) (ret : Ret) (id : Nat) (latch : Bool)
  | trapRecordQueued (c x : Nat)
  | trapHandlerEntry (c : Nat)
  | taskAdmission (c : Nat)
  | privStoreDrain (c : Nat)
  | privStoreApply (h : Nat) (r : Req)
  | privStoreAck (c entry : Nat)
  | readServe (h : Nat) (r : Req)
  | combineMerge (router : Nat) (h : Nat) (r : Req)
  | combineHoldEnd (router entry : Nat)
  | joinApply (h : Nat) (r : Req)
  | fillApply (h : Nat) (r : Req)
  | waitServe (h : Nat) (r : Req)
  | freezeApply (h : Nat) (r : Req)
  | exactReadServe (h : Nat) (r : Req)
  | schedApply (h : Nat) (r : Req)
  | dramLineFill (h line : Nat)
  | overflowChainRead (h pa : Nat) (wakes : List Waiter)
  | faultQueueRepair (h : Nat)
  | frameReassign (h frame : Nat) (attr : Option LatAttr)
  | scrub (h bank row : Nat) (corrected : Bool)
  | genbApply (pkg asid : Nat)
  | systemOpComplete (c : Nat)
  | tileOpBegin (c : Nat)
  | tileOpComplete (c : Nat)
  | copyCommandBegin (c : Nat)
  | copyRun (c : Nat)
  | copyCommandComplete (c : Nat)
  | streamFlitForward (router port : Nat) (f : Flit)
  | streamCombine (router strm : Nat)
  | markerStep (router strm : Nat)
  | continuationDepart (c x : Nat)
  | continuationArrival (k : Cont)
  | continuationPlace (c : Nat)
  | continuationAccept (c x : Nat)
  | continuationRefusal (c x : Nat) (cause : Option FaultCode) (sub : Nat)
  | continuationRetry (c x : Nat)
  | sendArrival (m : SendMsg)
  | sendRefusal (m : SendMsg) (cause : Option FaultCode)
  | sendRetry (m : SendMsg)
  | delegationArrival (m : DelegMsg)
  | delegationRefusal (m : DelegMsg) (cause : Option FaultCode)
  | delegationRetry (m : DelegMsg)
  | delegationBegin (c : Nat)
  | dcallReply (c x r : Nat) (v : W64)
  | routineFaultReply (m : DelegMsg) (cause : Cause)
  | spawnArrival (c : Nat) (sp : Spawn)
  | spawnRefusal (c : Nat) (sp : Spawn)
  | spawnResend (c : Nat) (sp : Spawn)
  | exitMessageDepart (c x : Nat)
  | exitMessageApply (m : ExitMsg)
  | binitTakeEffect (obj lid count : Nat) (c x : Nat)
  | barrierArrivalDepart (obj c : Nat) (counts drops : List (Nat × Nat)) (how : Nat)
  | phaseComplete (obj : Nat)
  | phaseCompletionArrive (obj p : Nat)
  | ecombAdd (obj phase : Nat) (vals : List Nat)
  | heartbeatMiss (c : Nat)
  | watchdogPreempt (pkg lid : Nat)
  | watchdogKill (pkg lid : Nat)
  | watchdogFence (pkg lid : Nat)
  | energyWindowStart (d : Nat)
  | energyEpochEnd (d : Nat)
  | digestSnapshot (d : Nat)
  | quiescenceSum (pkg lid : Nat)
  | podSums (lid pkg : Nat) (sm : Sums)
  | quiescenceFound (pkg lid : Nat)
  | launchStart (pkg : Nat)
  | launchEnd (pkg lid : Nat) (outcome : Option FaultCode)
  | twinCompare (pkg lid : Nat)
  | fence (pkg : Nat) (rect : Rect) (cause : FaultCode)
  | gangStop (pkg : Nat) (rect : Rect)
  | gangStopResume (pkg : Nat) (rect : Rect)
  | gangSwitchRequest (pkg lid : Nat)
  | gangSwitch (pkg lid : Nat)
  | switchImageWrite (c lid : Nat)
  | resume (pkg lid : Nat)
  | traceSample (c : Nat)
  | traceFrameWrite (d : Nat)
  | cxlMemWrite (svc off : Nat) (bs : List (Option Byte))
  | cxlMemRead (svc off : Nat)
  | submitLaunchRecord (svc : Nat) (ws : List W64) (task : Option Who)
  | readStatusRecord (svc lid : Nat)
  | managementRead (svc unit reg : Nat)
  | managementWrite (svc unit reg : Nat) (ws : List W64)
  | bringUpReport (svc : Nat)
  | hostErrorLog (svc : Nat)
  | boundaryScan (pkg : Nat) (halt : Option (Rect × Bool))
  | codeword (pkg port : Nat) (w : Codeword) (intact : Bool)
  | nak (pkg port seq : Nat)
  | timeSync (pkg port theirs delay : Nat)
  | timeSyncInterval (pkg port : Nat)
  | capability (pkg port s f entries w : Nat)
  | portDown (pkg port : Nat)
  | powerUp (pkg : Nat) (failures : List (Nat × Nat × Nat))
  | cxlReset (pkg : Nat)
  | gangSwitchComplete (pkg lid : Nat)
  | retraining (pkg port : Nat) (ok : Bool)
deriving DecidableEq, Repr, Inhabited

end Sys2Proof.Machine
end

