-- ==== Sys2Proof/Machine/State.lean ====
section
/-!
DEFINITION. The state of the pod: every register, queue, table, buffer and counter the spec names, for every
context, core, router, die, crystalliser, package and for the host's memory, as plain data. An entry that a
table does not list reads as its reset value. `State.reset` is the state after bring-up, before the first cycle.
-/

namespace Sys2Proof.Machine

/-- States of a context (R338). PARKED is not stored: `Window.parked` computes it from what the block waits on. -/
inductive CtxState where
  | vacant | active | latched | departing | exiting | switched
deriving DecidableEq, Repr, Inhabited

/-- An operand position of a slot (R45): its fan-in, the nulls that have arrived, and its value. -/
structure Operand where
  fan : Nat := 0
  nulls : Nat := 0
  val : Option Tok := none
deriving DecidableEq, Repr, Inhabited

/-- A slot of the window (R34, R51). -/
structure Slot where
  word : Nat := 0
  half : Bool := false                       -- H-form
  l : Operand := {}
  r : Operand := {}
  p : Operand := {}
  fired : Bool := false
  isNull : Bool := false                     -- fired null (R46)
  walking : Bool := false                    -- its translation is outstanding (R240)
  probe : Option Nat := none                 -- it is that of a page inside a freeze range (R204, R249)
  probed : List (Nat × Option Leaf) := []    -- what such pages were found to be
  eff : Eff := .none                         -- its effect at commit (R48, R54)
  ex : List (Nat × Nat) := []                -- exception events counted at commit (R140)
  push : List (Dir × Option Tok) := []       -- reserved link pushes and their tokens (R264)
  host : Bool := false                       -- a HOSTM access: its commit sets the escaped bit (R77)
deriving DecidableEq, Repr, Inhabited

/-- A token on its way to an operand position: 0 left, 1 right, 2 predicate (R21, R45). -/
structure Flight where
  due : Nat
  slot : Nat
  pos : Nat
  tok : Tok
deriving DecidableEq, Repr, Inhabited

/-- A load or exact read in progress (R50, R248): its targets, how its bytes make the token, the bytes already known
when it fired, and the parts still to return. -/
structure LoadRec where
  slot : Nat
  targets : List (BitVec 8)
  vec : Bool := false
  mask : W32 := 0xFFFFFFFF                   -- lanes that are not excluded
  sext : Option Nat := none                  -- sign-extend from this width
  fixed : Option (List Byte) := none         -- bytes known when it fired (R50)
  own : List (Option Byte) := []             -- bytes of earlier stores of the block over what returns
  parts : Nat := 1                           -- parts still to return
  groups : List Nat := []                    -- the offset each part fills, if they leave gaps
  got : Tbl (List Byte) := []                -- parts returned
  errs : List (Nat × Cause) := []            -- parts of an exact read that cannot be read (R218, R248)
deriving DecidableEq, Repr, Inhabited

/-- A block in a context's window (R34 to R58). -/
structure Block where
  addr : Nat
  bytes : Nat                                -- its length with header and padding
  hdr : Nat                                  -- header word 0
  carry : W32                                -- header word 1
  slots : List Slot
  firstAt : Nat                              -- first cycle its instructions may fire (R55)
  exit : Option BlkExit := none
  flights : List Flight := []
  loads : List LoadRec := []
  taken : Tbl Nat := []                      -- words taken by POPs, per queue (R268)
  bad : Option (Cause × Nat) := none         -- a failed fetch check, raised in the first slot (R42)
deriving DecidableEq, Repr, Inhabited

/-- A block fetch in progress (R206). -/
structure Fetch where
  addr : Nat
  begins : Nat := 0                          -- the cycle it begins
  walking : Bool := false
  waited : Bool := false                     -- its translation or a line was missing
  lines : List Nat := []                     -- lines requested and not yet present
  reqs : List Nat := []                      -- the numbers of its requests
  noBkpt : Bool := false                     -- re-executed after BKPT (R304)
deriving DecidableEq, Repr, Inhabited

/-- The retry latch (R360): the record, its place in the latching order, whether the queue has it. -/
structure Latch where
  trap : TrapRec
  order : Nat
  queued : Bool := false
deriving DecidableEq, Repr, Inhabited

/-- A continuation at its origin (R274, R278). -/
structure Depart where
  dst : Nat
  blk : Nat
  expl : Bool
  regs : List Nat                            -- carried candidates (R276)
  sent : Bool := false                       -- the continuation has departed
  waiting : Bool := false                    -- refused, and awaits its retry
  tries : Nat := 0
deriving DecidableEq, Repr, Inhabited

/-- What a context waits for after its commit (R289, R316, R321). -/
inductive AfterWait where
  | bwt (obj phase : Nat)
  | binit
  | sys
deriving DecidableEq, Repr, Inhabited

/-- An asynchronous producer whose result has not come back (R82). -/
structure Producer where
  id : Nat
  file : RegFile
  reg : Nat
  kind : ProdKind
  loc : Option (Nat × Option (List Nat)) := none  -- a WAITT's location and trigger set (R376)
deriving DecidableEq, Repr, Inhabited

/-- A pending MERGE (R349). -/
structure MergeWait where
  id : Nat
  pa : Nat
  n : Nat
deriving DecidableEq, Repr, Inhabited

/-- A context (R22, R79, R90, R338). -/
structure Ctx where
  st : CtxState := .vacant
  g : Tbl (Reg 64) := []
  p : Tbl (Reg 32) := []
  v : Tbl (Reg 1024) := []
  ox : Tbl (Reg 64) := []
  gtid : W64 := 0
  fpm : W32 := 0
  cwb0 : W32 := 0
  cwl0 : W32 := 0
  cwb1 : W32 := 0
  cwl1 : W32 := 0
  strm : Nat := 0
  asid : Nat := 0
  gen : Nat := 0
  pair : Bool := false
  retained : Bool := false
  saved : CtxState := .vacant                -- its state when it was switched out (R339)
  resumeBlk : Option Nat := none             -- the block it goes on with at a resume
  serial : Nat := 0                          -- counts the windows of this context
  blk : Option Block := none
  fetch : Option Fetch := none
  commitAt : Option Nat := none              -- first cycle of the last commit rotation
  after : List AfterWait := []                -- every one must end before it goes on
  outs : List (Nat × Bool) := []             -- outstanding requests; true: R231 waits for it
  prods : List Producer := []
  merges : List MergeWait := []
  doomed : List (Nat × Nat × Cause) := []    -- faults of this cycle that a turn has to order: window, slot, cause (R57)
  latch : Option Latch := none
  pend : Option TrapRec := none              -- a deferred fault not yet taken (R242)
  mbox : List W64 := []
  depart : Option Depart := none
  kill : Bool := false                       -- KILL mark of a departed continuation (R354)
  hb : Nat := 0
  exitMsg : Option ExitMsg := none
  exitKill : Bool := false                   -- EXITING by KILL (R319)
  exitAt : Nat := 0                          -- the earliest cycle of its end
  sends : List (SendMsg × Bool) := []        -- refused and following SENDs; true: awaits its retry
  delegs : List (DelegMsg × Bool) := []
  spawns : List (Nat × Spawn × Bool) := []
  lvq : List (Nat × Tok) := []               -- load-value queue of a pair (R364)
  mism : Option Nat := none                  -- block of a first pair mismatch (R366)
  issued : Nat := 0                          -- instructions issued in this rotation (R312, R334)
  readyRot : Bool := false                   -- ready in a cycle of this rotation (R313)
  memWait : Bool := false                    -- waited on memory in a cycle of this rotation (R312)
  msgWait : Bool := false                    -- waited on a message, or on something else (R312)
  syncWait : Bool := false                   -- had only class S results to wait for (R312)
deriving DecidableEq, Repr, Inhabited

/-- A line of the block cache (R206). -/
structure CacheLine where
  asid : Nat
  gen : Nat
  va : Nat
  bytes : List Byte
deriving DecidableEq, Repr, Inhabited

/-- An entry of the private store buffer (R198). -/
structure PsbEntry where
  id : Nat
  pa : Nat                                   -- of the 32-byte group
  asid : Nat
  gen : Nat
  lid : Nat
  bytes : List (Option Byte)
  draining : Bool := false
deriving DecidableEq, Repr, Inhabited

/-- An access to the banks of local memory in progress (R194). -/
structure BankAcc where
  pri : Nat                                  -- 0 commit write, 1 load, 2 engine, 3 copy
  start : Nat
  words : List Nat                           -- words not yet served
  c : Nat := 1
  waited : Nat := 0
  issue : Nat := 0
  ret : Option (Nat × Nat × Nat × Nat) := none  -- context, serial, slot, part of a load
  bs : List Byte := []
deriving DecidableEq, Repr, Inhabited

/-- The operation the matrix engine executes (R173). -/
structure EngineRun where
  start : Nat
  ends : Nat
  group : Nat := 0                           -- next 32-byte group of a TLD or TST
  groups : Nat := 0
  srcA : List Byte := []                     -- data and side area of ta as they were at the begin
  srcB : List Byte := []
  srcD : List Byte := []
  fault : Option Cause := none
deriving DecidableEq, Repr, Inhabited

/-- A tile register (R79, R167): 4,096 data bytes, then the 512 bytes of its side area. -/
structure Tile where
  st : RegState := .invalid
  bytes : List Byte := []                    -- bytes beyond the list are zero
deriving DecidableEq, Repr, Inhabited

/-- A format window (R302). -/
structure Window where
  v : Bool := false
  bfx4 : Bool := false
  abase : Nat := 0
  nblk : Nat := 0
  pbase : Nat := 0
  pfill : Bool := false
  sbase : Nat := 0
  sfill : Bool := false
deriving DecidableEq, Repr, Inhabited

/-- A run that the copy engine has read and not yet written (R254, R257): its first element and their number, its
destination with the page it is on, the entry of its window and its alias offset, and the parts of its bytes. -/
structure CopyPend where
  run : Nat
  k : Nat
  len : Nat
  dst : Nat
  leaf : Option Leaf := none
  win : Window := {}
  off : Nat := 0
  parts : Nat
  got : Tbl (List Byte) := []
deriving DecidableEq, Repr, Inhabited

/-- A copy command in progress (R254 to R257). -/
structure CopyRun where
  cmd : CopyCmd
  bwin : Option (Nat × Window) := none       -- the block it last took a run of, and the entry of its window for it (R303)
  partners : List (Nat × Window) := []       -- window blocks that share a FILL unit of scales with one taken, with its entry (R256)
  k : Nat := 0                               -- next element of the sequence
  run : Nat := 0                             -- runs read so far
  readDone : Bool := false
  pend : List CopyPend := []
  localW : List (Nat × Nat × List Byte) := []  -- local writes to come: earliest bank cycle, offset, bytes
  outw : Nat := 0                            -- writes not yet accepted
  entered : List (Nat × Nat × Nat) := []     -- its writes to pages: the cycle each enters the router, first byte, length
  elems : Tbl (List Byte) := []              -- elements of BFX blocks being collected (R256)
  scales : Tbl (List Byte) := []             -- scale pairs of blocks whose partner is to come, by physical address
  joinSent : Bool := false
  ev : List (Nat × Nat) := []                -- events of the conversions (R140)
  noMap : List Nat := []                     -- addresses whose walk found no translation
  walking : Bool := false
deriving DecidableEq, Repr, Inhabited

/-- A request held in a combining buffer (R226). -/
structure CombEntry where
  id : Nat
  until_ : Nat
  home : Nat
  req : Req
deriving DecidableEq, Repr, Inhabited

/-- A port set of a stream entry (R298). -/
structure StreamSet where
  sgn : Bool := false
  width : Nat := 0
  op : Nat := 0
  out : Nat := 0
  inp : Nat := 0
deriving DecidableEq, Repr, Inhabited

/-- A stream entry (R298). -/
structure StreamEntry where
  v : Bool := false
  cur : Nat := 0
  nset : Nat := 0
  sets : List StreamSet := []
deriving DecidableEq, Repr, Inhabited

/-- A Brineline switch (R389): the current sets of its stream entries, by stream, and the flits that wait at its ports, by stream * 8 + port. -/
structure Switch where
  cur : Tbl Nat := []
  ins : Tbl (List Flit) := []
deriving DecidableEq, Repr, Inhabited

/-- What waits in a core for the acceptances of R231 before it leaves. -/
inductive HeldWhat where
  | req (r : Req)
  | deleg (m : DelegMsg)
  | arrive (obj : Nat) (counts drops : List (Nat × Nat)) (how : Nat)
  | ecomb (obj phase : Nat) (vals : List Nat)
deriving DecidableEq, Repr, Inhabited

/-- A held departure. -/
structure Held where
  ctx : Nat
  wait : List Nat
  notBefore : Nat
  what : HeldWhat
deriving DecidableEq, Repr, Inhabited

/-- A context's entry of the enrolment table for one barrier (R315). -/
structure Enrol where
  bar : Nat                                  -- barrier identifier
  ctx : Nat
  dropped : Bool := false
  next : Nat := 0
deriving DecidableEq, Repr, Inhabited

/-- A trace record (R334). -/
structure TraceRec where
  kind : Nat
  tb : Nat
  core : Nat
  ctx : Nat
  exit : Nat
  gtid : W64
  blk : Nat
  payload : Option Nat
deriving DecidableEq, Repr, Inhabited

/-- What the head context is doing beside its own code (R284, R356). -/
structure Head where
  handler : Bool := false
  retBlk : Option Nat := none                -- handler return
  routine : Option DelegMsg := none
  savedAsid : Nat := 0
  savedGen : Nat := 0
  savedGtid : W64 := 0
  commReq : Option (Nat × Nat) := none       -- a requested communication thread: launch, package
deriving DecidableEq, Repr, Inhabited

/-- A delayed write of a core's local memory or control register (R91, R195). -/
inductive Delayed where
  | cells (cs : List Host.Cell)
  | ctl (x cn : Nat) (v : W64)
deriving DecidableEq, Repr, Inhabited

/-- A core with its router (R14, R90, R260). -/
structure Core where
  ctxs : Tbl Ctx := []
  tiles : Tbl Tile := []
  tom : W64 := 0
  tsh : Tbl W32 := []
  tvec : W64 := 0
  hbi : W32 := 0
  arbseed : W32 := 0
  seinj : W64 := 0
  lgm : Tbl W64 := []
  counters : Tbl Nat := []                   -- ex, slot counters, lent, rdh, by their numbers (R309)
  overflow : List Nat := []                  -- counters whose overflow flag is set
  incs : Tbl Nat := []                       -- increments of this cycle (R308)
  cwrites : Tbl Nat := []                    -- writes of this cycle (R308)
  unseen : Tbl (Nat × Nat) := []             -- counters that WCTL, SCTL or CCTL have written: what RCTL reads until a cycle (R91)
  admission : Nat := 0
  lmem : Cells := []
  delayed : List (Nat × Delayed) := []
  banks : List BankAcc := []
  psb : List PsbEntry := []
  privOld : List (Nat × List Host.Cell) := []  -- PRIV bytes as loads still see them before the cycle given (R54)
  bcache : List CacheLine := []              -- most recently used first
  tlb : List TlbEntry := []                  -- most recently used first
  fifo : List TileEntry := []
  fifoAt : List Nat := []                    -- earliest begin of each entry
  engine : Option EngineRun := none
  copyq : List CopyCmd := []
  copying : List CopyRun := []               -- begun and not complete, oldest first
  copyEnded : List (CopyCmd × Nat) := []     -- ended in a fault, with the writes still to be answered (R258)
  copyBanks : List Nat := []                 -- the banks the copy engine has read in this cycle (R193)
  copyNext : Nat := 0                        -- the first cycle in which it may read its next run (R254, R257)
  linkIn : Tbl (List Flit) := []             -- by direction
  linkOut : Tbl (List Flit) := []
  reserved : Tbl Nat := []                   -- reserved entries of the output queues
  spawnq : List Spawn := []
  arrq : List Cont := []
  delq : List DelegMsg := []
  sysops : List (Nat × Bool × SysOp) := []   -- the cycle it is applied or (true) complete
  trapq : List TrapRec := []
  trapWait : List TrapRec := []              -- records of no latched context that await room (R242, R360)
  enrol : List Enrol := []
  held : List Held := []
  lastOut : Option Nat := none               -- cycle of the last outbound effect (R222)
  tails : Tbl Nat := []                      -- by destination, the arrival of the last thread-class message sent there (R16, R263)
  refused : List (Nat × Nat × Nat × Nat) := []  -- messages refused here and not yet taken: sender, context, place, order (R263)
  comb : List CombEntry := []
  streams : Tbl StreamEntry := []
  streamIn : Tbl (List Flit) := []           -- flits waiting at input ports, by stream * 8 + port
  spill : List Event := []                   -- the spill ring of its router, in order of arrival (R372)
  ringAt : Option Nat := none                -- the cycle in which an event last entered it in this switch
  traceBuf : List TraceRec := []
  traceDrop : Bool := false
  sent : Nat := 0
  received : Nat := 0
  stopAt : Option Nat := none                -- issue stops from this cycle on (R371, R372)
  startAt : Option Nat := none               -- issue resumes in this cycle
  stopTb : Nat := 0
  stopSent : Nat := 0
  stopReceived : Nat := 0
  fenced : Bool := false
  lid : Option Nat := none                   -- launch on this core's partition (R342)
  hold : Bool := false                       -- debug hold seen here (R330)
  head : Head := {}
  latches : Nat := 0                         -- latching order (R360)
deriving DecidableEq, Repr, Inhabited

/-- A record being built by a die's trace compressor (R336). -/
structure TraceFrame where
  recs : List TraceRec := []
  bytes : List Byte := []
  base : Nat := 0
  bad : Bool := false
deriving DecidableEq, Repr, Inhabited

/-- A die (R33, R100, R204, R335). -/
structure Die where
  ebud : W32 := 60000
  erem : Int := 60000
  ewin : Nat := 0
  tlb : List TlbEntry := []
  trace : BitVec 128 := 0
  wptr : Nat := 0
  rptr : Nat := 0
  lost : Nat := 0
  seq : Nat := 0
  frame : TraceFrame := {}
  full : List TraceFrame := []               -- completed frames that await their sink
  digr : Tbl Nat := []                       -- newest ready sum by slot (R332)
  digrNext : List (Nat × Tbl Nat) := []      -- sums in the gathering, with the cycle they are ready
deriving DecidableEq, Repr, Inhabited

/-- A crystalliser (R219). -/
structure Xtal where
  waiters : List Waiter := []
  overflow : List Waiter := []
  slice : List Nat := []                     -- the lines in its last-level-cache slice, by physical address div 64
  faultq : List Req := []
  portq : List Req := []                     -- requests that wait at its port in order, as the fault queue is full (R223)
  digest : Tbl Nat := []
  history : Tbl (BitVec 64) := []
  nextBegin : Nat := 0
  lineBusy : Tbl Nat := []                   -- the cycle a line's last request completes
  lineWait : Tbl (List Req) := []            -- requests that wait for a line from DRAM
  frameBusy : Tbl Nat := []                  -- the cycle a frame's requests may be served again
  frameWait : Tbl (List Req) := []           -- requests that wait for that, in order
deriving DecidableEq, Repr, Inhabited

/-- A frame's state (R212, R216, R297, R380). -/
structure Frame where
  lat : Option LatAttr := none
  frozen : Bool := false
deriving DecidableEq, Repr, Inhabited

/-- A barrier object (R314). -/
structure Bar where
  init : Bool := false
  lid : Nat := 0
  e : Int := 0                               -- expected count of the oldest incomplete phase
  reds : Tbl Nat := []                       -- reductions of the expected count from a phase on
  p : Nat := 0
  counts : Tbl Nat := []                     -- arrivals by phase
  how : Tbl Nat := []                        -- status bits counted into a phase: 1 ad, 2 dx, 4 dk
  recs : Tbl (List Nat) := []                -- ECOMB words by phase
  news : Tbl (Int × Nat × List Nat) := []    -- completions on their way: expected count, status, record
  kInit : Bool := false                      -- what the member cores know
  kLid : Nat := 0
  kE : Int := 0
  kP : Nat := 0
  kStat : Nat := 0
  kRec : List Nat := []
  leads : Tbl Nat := []                      -- the lead counter of each member core (R314, R318)
  pkg : Nat := 0                             -- the package of the BINIT (R316)
deriving DecidableEq, Repr, Inhabited

/-- Stages of a watchdog (R330). -/
inductive WdogState where
  | run | preempt | kill | fence
deriving DecidableEq, Repr, Inhabited

/-- Where a running launch stands (R371 to R373). -/
inductive RunState where
  | running | stopped | switching | out | resuming | ended
deriving DecidableEq, Repr, Inhabited

/-- A running launch at its service core (R224, R250, R330, R344, R374). -/
structure Run where
  rc : Launch
  svc : Nat := 0                             -- the service core that started it
  copy : Nat := 0                            -- 1 copy A, 2 copy B of a twin launch
  asid : Nat := 0
  slot : Nat := 0
  st : RunState := .running
  escaped : Bool := false
  rootExit : W64 := 0
  wdog : Nat := 0
  wst : WdogState := .run
  frzq : List (Nat × List Nat) := []         -- its registered ranges, with their places in the order of registration
  frzOut : Nat := 0                          -- freeze requests of service core 0 not yet accepted
  sums : Option Sums := none                 -- the last sums
  newSums : Option Sums := none              -- sums on their way
  saved : Nat := 0                           -- cores whose image is written
  bars : Tbl Bar := []                       -- its core and quad barrier objects while it is switched out (R326)
  result : Option (Option FaultCode × Nat × W64) := none  -- a twin copy's outcome, digest and exit value
  genb : Bool := false                       -- a twin launch that agrees awaits its generation change (R368)
  privs : List (Nat × Nat) := []             -- frames that the ASID maps as PRIV: first, number (R380)
  requested : Bool := false                  -- a gang switch is requested
  dead : List DeadEntry := []
deriving DecidableEq, Repr, Inhabited

/-- A status record (R344). -/
structure Status where
  outcome : Nat
  exit : W64
  digest : Nat
  escaped : Bool
  dead : List DeadEntry := []
deriving DecidableEq, Repr, Inhabited

/-- A Brineline port (R384 to R389): of a package, or (keys 32 up) the port of a switch that a package's port is connected to. -/
structure Port where
  up : Bool := true
  seq : Nat := 0
  exp : Nat := 0
  replay : List Codeword := []
  waiting : List NetMsg := []                -- messages that await a codeword
  owed : List (Option LinkMsg × List (Nat × Nat)) := []  -- link messages and credits that await a codeword
  credits : Tbl Nat := []                    -- by class; unlisted reads 64
  oldest : Nat := 0                          -- the cycle the oldest codeword in replay was sent
  nextTx : Nat := 0                          -- the first cycle after the last codeword (R384)
  filling : Option Nat := none               -- the first cycle of the last codeword, which may still take flits
  switched : Bool := false                   -- the far end is a Brineline switch (R389)
  f : Nat := 0
  s : Nat := 0
  w : Nat := 0
  entries : Nat := 0
  training : Bool := false
  frames : List (List Byte) := []            -- trace frames that have left through the port (R335)
  held : List ((Nat × Nat) × NetMsg) := []   -- received and held while the partition is stopped, with the sender (R390)
deriving DecidableEq, Repr, Inhabited

/-- A containment rectangle (R301). -/
structure Contain where
  v : Bool := false
  fenced : Bool := false
  rect : Rect := ⟨0, 0, 0, 0⟩
deriving DecidableEq, Repr, Inhabited

/-- A breakpoint (R304). -/
structure Bkpt where
  v : Bool := false
  any : Bool := false
  act : Nat := 0
  blk : Nat := 0
  gtid : W64 := 0
deriving DecidableEq, Repr, Inhabited

/-- An answer of a mailbox or of the host link (R380, R383). -/
inductive HostOut where
  | success (svc : Nat) (ws : List W64)
  | invalid (svc : Nat)
  | busy (svc : Nat)
  | readData (svc off : Nat) (bs : List Byte)
  | poison (svc off : Nat)
  | writeDone (svc off : Nat)
  | statusEvent (lid : Nat)
  | wdog (lid : Nat)
  | portDown (port n : Nat)
  | syncBad (port : Nat)
  | bkptStop (core ctx : Nat)
  | record (r : TrapRec)
deriving DecidableEq, Repr, Inhabited

/-- A generation change in progress (R294): 0 draining, 1 the new generation travels, 2 the acknowledgements. -/
structure Genb where
  asid : Nat
  core : Option Nat := none
  phase : Nat := 0
  next : Nat := 0
  waiting : Option (List Nat) := none        -- cores that have not reported
deriving DecidableEq, Repr, Inhabited

/-- A package (R14, R208, R260, R288, R379). -/
structure Package where
  on : Bool := true                          -- cores are out of reset
  upAt : Nat := 0                            -- the first cycle of the rotation in which they left it
  agreed : Bool := true                      -- its timebase is agreed (R388, R391)
  windows0 : Nat := 0                        -- energy windows begun before the state held the package (R100; log entry 74)
  safe : Bool := false
  failure : Option (Nat × Nat × Nat) := none
  tbase : W64 := 0                           -- offset of tbase from the model's clock
  gens : Tbl Nat := []
  genbs : List Genb := []
  roots : Tbl (BitVec 128) := []
  rects : Tbl Contain := []
  fences : List Rect := []                   -- rectangles that were fenced and that no containment entry names (R369)
  windows : Tbl Window := []
  bkpts : Tbl Bkpt := []
  queue : List (Nat × Launch × Bool) := []   -- service core, record, returned by a switch; oldest first
  runs : List Run := []
  statuses : Tbl Status := []
  localImages : Tbl Cells := []              -- the local image of a launch, supplied by the loader (R208, R343)
  errlog : List (Nat × FaultCode) := []
  hostq : Tbl (List Nat) := []               -- by service core, the numbers of the host writes that are not yet applied (R235)
  cmds : Tbl (List Event) := []              -- by service core in a command, the mailbox commands behind it (R382)
  portmap : Tbl (BitVec 8) := []
  ports : Tbl Port := []
  syncBad : Bool := false
  out : List HostOut := []
deriving DecidableEq, Repr, Inhabited

/-- Where the firing instruction stands: core, context, slot. -/
structure Pos where
  core : Nat := 0
  ctx : Nat := 0
  slot : Nat := 0
deriving DecidableEq, Repr, Inhabited

/-- Where the model is within a cycle. -/
inductive Phase where
  | start
  | turns (next : Nat)                       -- the next core's turn is the first at or above this key
  | core (c : Nat) (used : Bool)             -- in a core's turn; its slot is used
  | close
deriving DecidableEq, Repr, Inhabited

/-- The pod and the host's memory. -/
structure State where
  now : Nat := 0                             -- cycles since the model's start
  phase : Phase := .start
  cores : Tbl Core := []
  dies : Tbl Die := []
  xtals : Tbl Xtal := []
  pkgs : Tbl Package := [(0, {})]
  mem : Cells := []                          -- device memory by physical address
  hostMem : Cells := []                      -- host memory by the address a HOSTM page gives
  frames : Tbl Frame := []
  once : Tbl Nat := []                       -- ONCE words: 1 SET, 2 CONFLICT (R212)
  arrived : Tbl Unit := []                   -- arrived FILL units by physical address div 4
  tconf : Tbl Unit := []                     -- FILL tiles in conflict by physical address
  bars : Tbl Bar := []
  podSums : Tbl (List (Nat × Sums)) := []    -- sums gathered by a coordinator, by launch
  images : Tbl (Nat × Core) := []            -- switch images, by core * 65536 + launch: launch and core (R372)
  switches : Tbl Switch := []                -- the Brineline switches of the pod (R389)
  agenda : List (Nat × Event) := []          -- pending steps of the device, by cycle
  ev : Event := .rotationAccounting          -- the event being taken
  replay : List (Nat × Nat × Nat × Nat) := []  -- core, context, serial, slot: instructions whose walk is done
  cur : Pos := {}
  nextId : Nat := 1
  free : Nat := 0                            -- the counter that free values are drawn with (DESIGN CHOICE 0, log 5)
deriving DecidableEq, Repr, Inhabited

/-- The reasons for which the model itself stops. No fault of the hardware is one of them: those are next states. -/
inductive Fault where
  /-- Raised by `step` when the agenda holds an event that names a unit that does not exist (a core, die,
  crystalliser or port beyond R11 to R13, or a package beyond R386). Only the environment can put one there, or a resume from an image that was
  overwritten (log entry 52). Safe: the hardware has no such unit. -/
  | badEvent
deriving DecidableEq, Repr, Inhabited

/-- The reasons for which an instruction has no meaning. -/
inductive Refusal where
  /-- An instruction whose meaning is not written yet. Safe: it only stops. -/
  | notModelled (mnemonic : String)
deriving DecidableEq, Repr, Inhabited

/-- The state after bring-up (R391), in the cycle whose tbase is 0: every register at its reset value
(R79, R90, R208, R307), every queue and buffer empty, nothing in flight; log entries 1 to 5. Its port map is that of a flash as it is
shipped, with no entry valid (R386), where a power-up loads the map that a module's integrator has put there (log entry 70). -/
def State.reset : State := {}

end Sys2Proof.Machine
end

