-- ==== Sys2Proof/Config.lean ====
section
/-!
DEFINITION. What an implementation fixes and the spec leaves open. Every constant here has no body: nothing can
be proved of its value. The step applies each to the counter `free` of the state, and so draws a fresh value
each time. Log entry 5.
-/

namespace Sys2Proof.Config

/-- R199, R221: how a line that is not in the slice is found, modulo 3: 0 open row, 1 closed row, 2 closed row behind refresh. -/
opaque lineCase : Nat → Nat
/-- R219: the line that leaves a full slice for another. -/
opaque evictedLine : Nat → Nat
/-- R305: the bank and row of a line of 64 bytes. -/
opaque dramPlace : Nat → Nat × Nat
/-- R305, R370: a scrub by a crystalliser, in a cycle of tbase, of a bank and row finds a correctable error. -/
opaque scrubFinds : Nat → Nat → Nat → Nat → Bool
/-- R220: the first of the frames that bring-up reserves on a channel for its overflow area, counted on that channel. -/
opaque overflowFrame : Nat → Nat
/-- R220: a byte of an overflow record with these fields. -/
opaque overflowByte : List Nat → Nat → Byte
/-- R199: the further wait behind refresh, taken modulo 281. -/
opaque refreshWait : Nat → Nat
/-- R223: the outcome of reading a line from DRAM: 1 parks the request for a correctable error, 2 is uncorrectable, 3 parks it for a
repair or retraining, any other is sound. -/
opaque lineOutcome : Nat → Nat
/-- R223: the cycles a repair of a memory-side fault takes. -/
opaque repairTime : Nat → Nat
/-- R221: which of the requests that reach a port in one cycle goes first. -/
opaque arbitration : Nat → Nat
/-- R381: the host's own time for one access. -/
opaque hostTime : Nat → Nat
/-- R327: the energy in µJ that a die's meter counts in one epoch. -/
opaque epochEnergy : Nat → Nat
/-- R343: the base of a package's reserved save area, from the configuration flash. -/
opaque saveBase : Nat → Nat
/-- R95: the tile registers, a bit each, that the head firmware means for a task it starts; those that are free become the task's. -/
opaque taskTiles : Nat → Nat
/-- R391: the port map entry that the configuration flash holds for a package. -/
opaque flashPort : Nat → Nat → Nat
/-- R372: a byte of the queue part of the switch image of a core with this content, whose layout the spec does not give. -/
opaque imageByte : Machine.Core → Nat → Byte
/-- R373: what the queue part of a switch image says where its bytes are not those that the core wrote. -/
opaque imageRestOf : List Byte → Machine.Core
/-- R359, R376: the aux field of a DEADLK record, which names its wait object; the fields of that object are given, their layout is not. -/
opaque deadWord : List Nat → Nat
/-- R371: the cycle, within 48, in which a core stops after the first. -/
opaque stopSkew : Nat → Nat
/-- R386: the far port through which messages that leave a package's port reach a package, if a cable or
switch leads there. -/
opaque cableTo : Nat → Nat → Nat → Option (Fin 32)
/-- That port's number. -/
def cable (p n q : Nat) : Option Nat := (cableTo p n q).map Fin.val
/-- R266, R298: the package and port at the far end of a port's cable, for stream flits. -/
opaque farPlug : Nat → Nat → Option (Fin 256 × Fin 32)
/-- Their numbers. -/
def streamCable (p n : Nat) : Option (Nat × Nat) := (farPlug p n).map fun e => (e.1.val, e.2.val)
/-- R389: the switch that a port of a package is connected to, and its port there, numbered as the bits of R298. -/
opaque switchOf : Nat → Nat → Nat × Nat
/-- R389: the package and port that a port of a switch is connected to. -/
opaque switchPlug : Nat → Nat → Option (Fin 256 × Fin 32)
/-- Their numbers. -/
def switchPort (sw b : Nat) : Option (Nat × Nat) := (switchPlug sw b).map fun e => (e.1.val, e.2.val)
/-- R389: the stream entry, laid out as in R298, that a switch holds for a stream. -/
opaque switchStream : Nat → Nat → Nat
/-- R371, R373: the cycles from a request to resume to the agreed tbase. -/
opaque resumeDelay : Nat → Nat
/-- R387: the cycles that a port's retraining takes, and whether it succeeds. -/
opaque retrain : Nat → Nat × Bool
/-- R391: the failures that the checks of a power-up find: item code, die index and unit index. -/
opaque bringUp : Nat → List (Nat × Nat × Nat)

end Sys2Proof.Config
end

