-- ==== Sys2Proof/Machine/Ops.lean ====
section
/-!
DEFINITION. The named operations over the state that every family shares: places of units and path times
(R11 to R17, R199), reading and writing cores, contexts, registers and memories, the agenda of pending
steps, and the counting of messages.
-/

namespace Sys2Proof.Machine

/-! ### Places and path times -/

/-- The package of a core, service core or router. -/
def pkgOf (c : Nat) : Nat := c / 32768
/-- The core index (R11, R12). -/
def idxOf (c : Nat) : Nat := c % 32768
/-- The key of the core with an index in a package. -/
def coreKey (pkg idx : Nat) : Nat := pkg * 32768 + idx
/-- A service core's index (R12). -/
def isService (c : Nat) : Bool := 26112 ≤ idxOf c

/-- Column and row of a core's router; a service core stands at the router it attaches to (R13). -/
def posOf (c : Nat) : Nat × Nat :=
  let i := idxOf c
  if i < 26112 then (i % 192, i / 192)
  else if i = 26112 then (0, 0)
  else if i = 26113 then (191, 0)
  else if i = 26114 then (0, 135)
  else (191, 135)

/-- The key of the router at a column and row. -/
def routerAt (pkg col row : Nat) : Nat := coreKey pkg (row * 192 + col)

/-- The router a core or service core stands at. -/
def routerOf (c : Nat) : Nat := routerAt (pkgOf c) (posOf c).1 (posOf c).2

/-- The router of a crystalliser (R13). -/
def xtalRouter (h : Nat) : Nat :=
  let i := h % 2048
  let die := i / 64
  let south := i % 64 / 32
  routerAt (h / 2048) (die % 6 * 32 + i % 32) (die / 6 * 34 + south * 33)

/-- The router of a Brineline port (R13). -/
def portRouter (pkg n : Nat) : Nat :=
  let rows := [42, 59, 76, 93]
  if n < 12 then routerAt pkg (8 + 16 * n) 0
  else if n < 16 then routerAt pkg 191 (rows.getD (n - 12) 0)
  else if n < 28 then routerAt pkg (184 - 16 * (n - 16)) 135
  else routerAt pkg 0 (rows.getD (3 - (n - 28)) 0)

/-- The die index of a core's place (R11). -/
def dieIdx (c : Nat) : Nat := (posOf c).2 / 34 * 6 + (posOf c).1 / 32
/-- The key of a core's die. -/
def dieOf (c : Nat) : Nat := pkgOf c * 32 + dieIdx c
/-- The quad index of a core (R11). -/
def quadOf (c : Nat) : Nat := (posOf c).2 / 2 * 96 + (posOf c).1 / 2
/-- The quadrant of a core (R12). -/
def quadrantOf (c : Nat) : Nat := dieIdx c / 6 / 2 * 2 + dieIdx c % 6 / 3
/-- The service core of a core's quadrant. -/
def serviceOf (c : Nat) : Nat := coreKey (pkgOf c) (26112 + quadrantOf c)

/-- The router at die-local (16, 16), where the last-level translation buffer sits (R204). -/
def dieRouter (d : Nat) : Nat := routerAt (d / 32) (d % 32 % 6 * 32 + 16) (d % 32 / 6 * 34 + 16)

/-- The difference of two naturals. -/
def absDiff (a b : Nat) : Nat := (a - b) + (b - a)

/-- The path time 2h + 20d between two routers of one package (R17). -/
def meshTime (a b : Nat) : Nat :=
  let p := posOf a
  let q := posOf b
  2 * (absDiff p.1 q.1 + absDiff p.2 q.2)
    + 20 * (absDiff (p.1 / 32) (q.1 / 32) + absDiff (p.2 / 34) (q.2 / 34))

/-- The further 2-cycle hop of a service core (R17). -/
def svcHop (c : Nat) : Nat := if isService c then 2 else 0

/-- The path time between two cores or service cores of one package. -/
def pathTime (a b : Nat) : Nat := meshTime a b + svcHop a + svcHop b

/-- The next router on the dimension-ordered path (R16) and the time to it. -/
def nextHop (a b : Nat) : Nat × Nat :=
  let p := posOf a
  let q := posOf b
  let r :=
    if p.1 < q.1 then (p.1 + 1, p.2) else if q.1 < p.1 then (p.1 - 1, p.2)
    else if p.2 < q.2 then (p.1, p.2 + 1) else (p.1, p.2 - 1)
  let n := routerAt (pkgOf a) r.1 r.2
  (n, meshTime a n)

/-- The neighbour of a core's router in a direction, if it lies on the package. -/
def neighbour (c : Nat) (d : Dir) : Option Nat :=
  let p := posOf c
  match d with
  | .north => if 0 < p.2 then some (routerAt (pkgOf c) p.1 (p.2 - 1)) else none
  | .east => if p.1 < 191 then some (routerAt (pkgOf c) (p.1 + 1) p.2) else none
  | .south => if p.2 < 135 then some (routerAt (pkgOf c) p.1 (p.2 + 1)) else none
  | .west => if 0 < p.1 then some (routerAt (pkgOf c) (p.1 - 1) p.2) else none

/-- The number of a direction: N 0, E 1, S 2, W 3 (R41, R298). -/
def Dir.num : Dir → Nat
  | .north => 0 | .east => 1 | .south => 2 | .west => 3

/-- The direction with a number. -/
def dirOf (n : Nat) : Dir := if n = 0 then .north else if n = 1 then .east else if n = 2 then .south else .west

/-- The opposite direction. -/
def Dir.opp : Dir → Dir
  | .north => .south | .east => .west | .south => .north | .west => .east

/-- The package of a physical address (R199). -/
def paPkg (pa : Nat) : Nat := bitsOf pa 44 8
/-- The frame number within the package (R199). -/
def paFrame (pa : Nat) : Nat := bitsOf pa 16 27
/-- The frame a physical address lies in, as a key of the frame table. -/
def frameKey (pa : Nat) : Nat := pa / 65536
/-- The address has a home (R199). -/
def paOk (pa : Nat) : Bool := bitsOf pa 43 1 == 0 && decide (paFrame pa < 37748736)
/-- The home crystalliser of a physical address (R199). -/
def homeOf (pa : Nat) : Nat := paPkg pa * 2048 + paFrame pa % 1536

/-- The home number of an access to host memory: the service core its page names (R197, R236). -/
def hostHome (svc : Nat) : Nat := 2 ^ 24 + svc

/-- A core stands in a rectangle (R301). -/
def Rect.has (r : Rect) (c : Nat) : Bool :=
  let p := posOf c
  decide (r.col0 ≤ p.1) && decide (p.1 ≤ r.col1) && decide (r.row0 ≤ p.2) && decide (p.2 ≤ r.row1)

/-- The partition of a launch record as a rectangle (R24). -/
def Launch.rect (l : Launch) : Rect := ⟨l.col0, l.row0, l.col0 + l.width - 1, l.row0 + l.height - 1⟩

/-- The packages of a pod mask (R340). -/
def podOf (mask : Nat) : List Nat := (List.range 256).filter (bitOf mask)

/-- The packages that run a launch: its pod's, or its own. -/
def Launch.packages (rc : Launch) (p : Nat) : List Nat := if rc.pods = 0 then [p] else podOf rc.pods

/-- The cores of a rectangle, row by row. -/
def Rect.cores (pkg : Nat) (r : Rect) : List Nat :=
  (List.range (r.row1 + 1 - r.row0)).flatMap fun y =>
    (List.range (r.col1 + 1 - r.col0)).map fun x => routerAt pkg (r.col0 + x) (r.row0 + y)

/-! ### The parts of the state -/

/-- The counters of a core that has held no thread for `n` rotations since its reset (R312, R313): every slot was vacant
and no context ready. -/
def idleCounters (n : Nat) : Tbl Nat :=
  if n = 0 then []
  else
    let m := min n (2 ^ 48 - 1)
    (List.range 16).map (fun x => (0x103 + 4 * x, m)) ++ [(0x150, m)]

/-- A core that the table does not list: at its reset value but for the counters of its idle rotations. -/
def State.freshCore (s : State) (c : Nat) : Core :=
  { counters := idleCounters ((s.now - (s.pkgs.get {} (pkgOf c)).upAt) / 16) }

/-- A core. -/
def State.core (s : State) (c : Nat) : Core := s.cores.get (s.freshCore c) c
/-- The state with a core changed. -/
def State.modCore (s : State) (c : Nat) (f : Core → Core) : State := { s with cores := s.cores.put c (f (s.core c)) }
/-- A context of a core. -/
def Core.ctx (k : Core) (x : Nat) : Ctx := k.ctxs.get {} x
/-- A context. -/
def State.ctx (s : State) (c x : Nat) : Ctx := (s.core c).ctx x
/-- The state with a context changed. -/
def State.modCtx (s : State) (c x : Nat) (f : Ctx → Ctx) : State :=
  s.modCore c fun k => { k with ctxs := k.ctxs.put x (f (k.ctx x)) }
/-- The state with a context's block changed, if it has one. -/
def State.modBlock (s : State) (c x : Nat) (f : Block → Block) : State :=
  s.modCtx c x fun t => { t with blk := t.blk.map f }
/-- The energy windows that have begun by now on a package whose tbase is the model's clock (R100, R327). -/
def State.windowsBegun (s : State) : Nat := if s.phase = .start then (s.now + 249999) / 250000 else s.now / 250000 + 1
/-- A package. One that the state does not hold yet is as after bring-up, but that time has passed (log entry 74). -/
def State.pkg (s : State) (p : Nat) : Package := s.pkgs.get { windows0 := s.windowsBegun } p
/-- A die. -/
def State.die (s : State) (d : Nat) : Die := s.dies.get { ewin := (s.pkg (d / 32)).windows0 % 2 ^ 32 } d
/-- The state with a die changed. -/
def State.modDie (s : State) (d : Nat) (f : Die → Die) : State := { s with dies := s.dies.put d (f (s.die d)) }
/-- A crystalliser. -/
def State.xtal (s : State) (h : Nat) : Xtal := s.xtals.get {} h
/-- The state with a crystalliser changed. -/
def State.modXtal (s : State) (h : Nat) (f : Xtal → Xtal) : State :=
  { s with xtals := s.xtals.put h (f (s.xtal h)) }
/-- The state with a package changed. -/
def State.modPkg (s : State) (p : Nat) (f : Package → Package) : State :=
  { s with pkgs := s.pkgs.put p (f (s.pkg p)) }
/-- A frame's state. -/
def State.frame (s : State) (pa : Nat) : Frame := s.frames.get {} (frameKey pa)

/-- The timebase of a package (R331). -/
def State.tbase (s : State) (p : Nat) : Nat := (s.now + (s.pkg p).tbase.toNat) % 2 ^ 64

/-- The slot of a core's cycle: cores count cycles in phase with their package's timebase (R18). -/
def State.slotNow (s : State) (c : Nat) : Nat := s.tbase (pkgOf c) % 16
/-- The first cycle of a core's next rotation (R18). -/
def State.nextRot (s : State) (c : Nat) : Nat := s.now + (16 - s.slotNow c)

/-- Draws the next free value's index (log entry 5). -/
def State.draw (s : State) : Nat × State := (s.free, { s with free := s.free + 1 })

/-- A new request number. -/
def State.freshId (s : State) : Nat × State := (s.nextId, { s with nextId := s.nextId + 1 })

/-! ### The agenda -/

/-- An agenda with a step added in the cycle `t`, after the steps already there for that cycle. -/
def agendaInsert (t : Nat) (i : Event) : List (Nat × Event) → List (Nat × Event)
  | [] => [(t, i)]
  | (u, j) :: rest => if t < u then (t, i) :: (u, j) :: rest else (u, j) :: agendaInsert t i rest

/-- Adds a step of the device in the cycle `t`. -/
def State.sched (s : State) (t : Nat) (i : Event) : State := { s with agenda := agendaInsert t i s.agenda }

/-- Adds steps in the cycle `t`, before all others of that cycle. -/
def State.schedFirst (s : State) (t : Nat) (is : List Event) : State :=
  { s with agenda := s.agenda.filter (fun e => e.1 < t) ++ is.map (fun i => (t, i))
      ++ s.agenda.filter (fun e => t ≤ e.1) }

/-! ### Registers -/

/-- A general register; g0 is FULL and reads 0 (R81). -/
def Ctx.gReg (t : Ctx) (r : Nat) : Reg 64 := if r = 0 then ⟨.full, 0⟩ else t.g.get {} r
/-- A predicate register; p0 is FULL and reads all ones (R81). -/
def Ctx.pReg (t : Ctx) (r : Nat) : Reg 32 := if r = 0 then ⟨.full, 0xFFFFFFFF⟩ else t.p.get {} r
/-- A vector register. -/
def Ctx.vReg (t : Ctx) (r : Nat) : Reg 1024 := t.v.get {} r
/-- An operand extension register. -/
def Ctx.oxReg (t : Ctx) (r : Nat) : Reg 64 := t.ox.get {} r

/-- Makes a general register FULL; a write of g0 has no effect (R81). -/
def Ctx.setG (t : Ctx) (r : Nat) (v : W64) : Ctx := if r = 0 then t else { t with g := t.g.put r ⟨.full, v⟩ }
/-- Makes a predicate register FULL with bits [31:0] (R86); a write of p0 has no effect (R81). -/
def Ctx.setP (t : Ctx) (r : Nat) (v : W64) : Ctx :=
  if r = 0 then t else { t with p := t.p.put r ⟨.full, v.setWidth 32⟩ }
/-- Makes an ox register FULL. -/
def Ctx.setOx (t : Ctx) (r : Nat) (v : W64) : Ctx := { t with ox := t.ox.put r ⟨.full, v⟩ }

/-- A lane mask widened to the bits of its lanes. -/
def laneBits (m : W32) : V1024 :=
  (List.range 32).foldl (fun acc i => if m.getLsbD i then acc ||| (0xFFFFFFFF#1024 <<< (32 * i)) else acc) 0

/-- Writes the valid lanes of a vector token; an all-null token leaves the register (R86). -/
def Ctx.setV (t : Ctx) (r : Nat) (x : V1024) (m : W32) : Ctx :=
  if m = 0 then t
  else
    let b := laneBits m
    { t with v := t.v.put r ⟨.full, (x &&& b) ||| ((t.vReg r).val &&& ~~~ b)⟩ }

/-- The state of a register of any file. -/
def Ctx.regState (t : Ctx) (f : RegFile) (r : Nat) : RegState :=
  match f with
  | .gr => (t.gReg r).st
  | .pr => (t.pReg r).st
  | .vr => (t.vReg r).st
  | .ox => (t.oxReg r).st

/-- The token that RD delivers (R85). -/
def Ctx.regTok (t : Ctx) (f : RegFile) (r : Nat) : Tok :=
  match f with
  | .gr => .scalar (t.gReg r).val
  | .pr => .scalar ((t.pReg r).val.setWidth 64)
  | .vr => .vector (t.vReg r).val 0xFFFFFFFF
  | .ox => .scalar (t.oxReg r).val

/-- A register's state changed to EMPTY, its content kept (R80). -/
def Ctx.makeEmpty (t : Ctx) (f : RegFile) (r : Nat) : Ctx :=
  match f with
  | .gr => if r = 0 then t else { t with g := t.g.put r ⟨.empty, (t.gReg r).val⟩ }
  | .vr => { t with v := t.v.put r ⟨.empty, (t.vReg r).val⟩ }
  | _ => t

/-- A g or v register made INVALID, its content zero (R80, R84). -/
def Ctx.makeInvalid (t : Ctx) (f : RegFile) (r : Nat) : Ctx :=
  match f with
  | .gr => if r = 0 then t else { t with g := t.g.put r {} }
  | .vr => { t with v := t.v.put r {} }
  | _ => t

/-- A write of a token at commit (R86): null leaves the register. -/
def Ctx.writeTok (t : Ctx) (f : RegFile) (r : Nat) (k : Tok) : Ctx :=
  match f, k with
  | .gr, .scalar v => t.setG r v
  | .pr, .scalar v => t.setP r v
  | .ox, .scalar v => t.setOx r v
  | .vr, .vector x m => t.setV r x m
  | _, _ => t

/-! ### Memories -/

/-- The bottom byte of a LAT frame at byte `k` of a location (R210). -/
def bottomByte (a : LatAttr) (k : Nat) : Byte :=
  let n := 2 ^ a.width
  match a.ty with
  | .max => if a.sgn && k % n == n - 1 then 0x80 else 0
  | .min => if a.sgn && k % n == n - 1 then 0x7F else 0xFF
  | _ => 0

/-- What an unlisted byte of device memory reads as: the bottom of its frame's type (R212, R297), else 0. -/
def State.bg (s : State) (pa : Nat) : Byte :=
  match (s.frame pa).lat with
  | some a => bottomByte a pa
  | none => 0

/-- A byte of device memory. -/
def State.readByte (s : State) (pa : Nat) : Byte := s.mem.readByte s.bg pa
/-- The little-endian value of `n` bytes of device memory. -/
def State.readN (s : State) (pa n : Nat) : Nat := leValue (s.mem.readBytes s.bg pa n)
/-- Bytes of device memory. -/
def State.readMem (s : State) (pa n : Nat) : List Byte := s.mem.readBytes s.bg pa n
/-- Writes bytes of device memory. -/
def State.writeMem (s : State) (pa : Nat) (bs : List Byte) : State :=
  { s with mem := s.mem.writeBytes s.bg pa bs }
/-- Writes the bytes that are given and leaves the others. -/
def State.writeMask (s : State) (pa : Nat) : List (Option Byte) → State
  | [] => s
  | b :: bs =>
    let s := match b with
      | some v => s.writeMem pa [v]
      | none => s
    State.writeMask s (pa + 1) bs

/-- Local memory and host memory read zero where nothing is listed (R208; log entry 1). -/
def zeroBg : Nat → Byte := fun _ => 0

/-- Bytes of a core's local memory. -/
def Core.readLocal (k : Core) (a n : Nat) : List Byte := k.lmem.readBytes zeroBg a n
/-- Writes bytes of a core's local memory. -/
def Core.writeLocal (k : Core) (a : Nat) (bs : List Byte) : Core := { k with lmem := k.lmem.writeBytes zeroBg a bs }
/-- Writes single cells of a core's local memory, in order. -/
def Core.writeCells (k : Core) (cs : List Host.Cell) : Core := cs.foldl (fun k c => k.writeLocal c.1 [c.2]) k

/-- Bytes of host memory. -/
def State.readHost (s : State) (a n : Nat) : List Byte := s.hostMem.readBytes zeroBg a n
/-- Writes bytes of host memory. -/
def State.writeHost (s : State) (a : Nat) (bs : List Byte) : State :=
  { s with hostMem := s.hostMem.writeBytes zeroBg a bs }

/-- Splits bytes into words of `n` bytes. -/
def chunks {α : Type} (n : Nat) : Nat → List α → List (List α)
  | 0, _ => []
  | k + 1, xs => xs.take n :: chunks n k (xs.drop n)

/-! ### Counters of messages -/

/-- A message leaves a core (R371, R374). -/
def State.countSent (s : State) (c : Nat) (n : Nat := 1) : State := s.modCore c fun k => { k with sent := k.sent + n }
/-- A message or response reaches a core. -/
def State.countRecv (s : State) (c : Nat) (n : Nat := 1) : State :=
  s.modCore c fun k => { k with received := k.received + n }

/-- The next cycle in which an outbound effect of a commit rotation beginning at `c0` enters the router (R222). -/
def State.outSlot (s : State) (c c0 : Nat) : Nat × State :=
  let e := match (s.core c).lastOut with
    | none => c0 + 2
    | some t => max (c0 + 2) (t + 1)
  (e, s.modCore c fun k => { k with lastOut := some e })

/-! ### Control registers of a context -/

/-- A control number whose register belongs to the context (R90). -/
def ctlOfContext (cn : Nat) : Bool := cn == 3 || (decide (8 ≤ cn) && decide (cn ≤ 11))

/-- A context's copy of a control register written. -/
def Ctx.setCtl (t : Ctx) (cn : Nat) (v : W64) : Ctx :=
  match cn with
  | 0x003 => { t with fpm := v.setWidth 32 }
  | 0x008 => { t with cwb0 := v.setWidth 32 }
  | 0x009 => { t with cwl0 := v.setWidth 32 }
  | 0x00A => { t with cwb1 := v.setWidth 32 }
  | 0x00B => { t with cwl1 := v.setWidth 32 }
  | _ => t

/-- A context with every committed write of its control registers applied, visible or not. -/
def State.ctxNow (s : State) (c x : Nat) : Ctx :=
  (s.core c).delayed.foldl (fun t e => match e.2 with
    | .ctl y cn v => if y = x ∧ ctlOfContext cn then t.setCtl cn v else t
    | _ => t) (s.ctx c x)

/-! ### Launches -/

/-- The running launch with an identifier. -/
def Package.run? (p : Package) (lid : Nat) : Option Run := p.runs.find? fun r => r.rc.lid == lid && r.st != .ended
/-- The running launches with an identifier on a package: one, or the two copies of a MIRROR launch. -/
def Package.runsOf (k : Package) (lid : Nat) : List Run := k.runs.filter fun r => r.rc.lid == lid && r.st != .ended
/-- The launch identifier of a GTID (R23). -/
def lidOf (g : W64) : Nat := g.toNat / 2 ^ 48
/-- The fork depth of a GTID. -/
def depthOf (g : W64) : Nat := bitsOf g.toNat 40 8
/-- Changes the running launch with an identifier. -/
def State.modRun (s : State) (p lid : Nat) (f : Run → Run) : State :=
  s.modPkg p fun k => { k with runs := k.runs.map fun r => if r.rc.lid == lid && r.st != .ended then f r else r }

/-- The running launch with an identifier that a core belongs to: of the two copies of a twin launch, that on its
partition. -/
def Package.runAt? (p : Package) (lid c : Nat) : Option Run :=
  match p.runs.find? fun r => r.rc.lid == lid && r.st != .ended && r.rc.rect.has c with
  | some r => some r
  | none => p.run? lid

/-- The launch a context belongs to, if its package runs it. -/
def State.runOf (s : State) (c x : Nat) : Option Run :=
  let t := s.ctx c x
  if x = 0 then (s.core c).lid.bind fun l => (s.pkg (pkgOf c)).runAt? l c
  else (s.pkg (pkgOf c)).runAt? (lidOf t.gtid) c

/-- Changes the running launch a context belongs to. -/
def State.modRunOf (s : State) (c x : Nat) (f : Run → Run) : State :=
  match s.runOf c x with
  | some q => s.modPkg (pkgOf c) fun k => { k with runs := k.runs.map fun r => if r.rc.lid == q.rc.lid && r.copy == q.copy && r.st != .ended then f r else r }
  | none => s

/-- The context runs in a STRICT launch (R31). -/
def State.strict (s : State) (c x : Nat) : Bool :=
  match s.runOf c x with
  | some r => r.rc.strict
  | none => false

/-- The generation of an ASID on a package (R205). -/
def Package.genOf (p : Package) (asid : Nat) : Nat := p.gens.get 0 asid

/-- Sets a launch's escaped bit (R31). -/
def State.escape (s : State) (p lid : Nat) : State := s.modRun p lid fun r => { r with escaped := true }

/-- The partner of a context in its pair (R22). -/
def partner (x : Nat) : Nat := if x % 2 = 0 then x + 1 else x - 1
/-- The leading context of a pair (R22). -/
def leader (x : Nat) : Nat := x / 2 * 2
/-- The contexts that act as one: a pair, or the context alone. -/
def State.team (s : State) (c x : Nat) : List Nat :=
  if (s.ctx c x).pair then [leader x, leader x + 1] else [x]

/-- The code of a fault (R361). -/
def FaultCode.num : FaultCode → Nat
  | .illeg => 1 | .blkfmt => 2 | .priv => 3 | .align => 4 | .lbound => 5 | .xlat => 6 | .prot => 7
  | .stalegen => 8 | .mref => 9 | .ltype => 10 | .wafrz => 11 | .xnf => 12 | .fillc => 13 | .vundef => 14
  | .tshape => 15 | .bovr => 16 | .qfull => 17 | .hbmiss => 18 | .sdc => 19 | .order => 20 | .uecc => 21
  | .fenced => 22 | .deadlk => 23 | .escape => 24 | .bkpt => 25 | .wdog => 26 | .trapi => 27

/-- ctxid (R93). -/
def ctxid (c x : Nat) : W64 := BitVec.ofNat 64 (pkgOf c * 2 ^ 19 + idxOf c * 16 + x)

/-- The core stops issue in this cycle (R371, R372). -/
def State.stopped (s : State) (c : Nat) : Bool :=
  match (s.core c).stopAt with
  | none => false
  | some t => decide (t ≤ s.now) && (match (s.core c).startAt with | none => true | some u => decide (s.now < u))

/-! ### Trace records (R334) -/

/-- The number of an exit's kind in a trace record (R334). -/
def ExitKind.num : ExitKind → Nat
  | .br => 0 | .bri => 1 | .call => 2 | .calli => 3 | .ret => 4 | .mig => 5 | .exit => 6 | .dret => 7
  | .trap => 8 | .eret => 9

/-- A core hands its die's compressor a record of a kind, if tracing of it is enabled (R333, R334, R337). -/
def State.trace (s : State) (c x kind exit : Nat) (blk : Nat) (payload : Option Nat) : State :=
  let tc := (s.die (dieOf c)).trace
  let on := tc.getLsbD 0 && tc.getLsbD (15 + kind)
  if !on then s
  else
    let r : TraceRec := ⟨kind, s.tbase (pkgOf c), c, x, exit, (s.ctx c x).gtid, blk, payload⟩
    s.modCore c fun k =>
      if k.traceBuf.length < 8 then { k with traceBuf := k.traceBuf ++ [r] } else { k with traceDrop := true }

/-! ### Messages (R17, R262, R386)

A message whose first flit enters its source router in cycle `e` is taken by its target 2 cycles after its
last flit reaches the target's router. -/

/-- The step that serves a request at its home: its arrival at the port, or the end of its service. -/
def reqEvent (h : Nat) (r : Req) : Event :=
  match r.kind with
  | .join => .joinApply h r
  | .fill => .fillApply h r
  | .wait => .waitServe h r
  | .freeze => .freezeApply h r
  | .exact => .exactReadServe h r
  | .faddb => .schedApply h r
  | .incw => .schedApply h r
  | .read => .readServe h r
  | .store => .privStoreApply h r

/-- Where the response for a constituent goes. -/
def Req.retFor (r : Req) (w : Who) : Ret :=
  match w.copy with
  | some k => .copyWrite k
  | none => r.ret

/-- A request with its one issuer (R227). -/
def Req.by (r : Req) (c x id : Nat) : Req := { r with who := [⟨c, x, id, r.va, r.rblk, r.rslot, none⟩] }

/-- The class of a message: 0 request, 1 response, 2 thread, 3 stream (R262). -/
def NetMsg.cls : NetMsg → Nat
  | .req _ _ => 0
  | .accept _ _ => 1 | .value _ _ _ _ => 1 | .produced _ _ _ _ _ _ => 1 | .fault _ _ _ => 1
  | .flit _ => 3
  | _ => 2

/-- The core, service core or (for a request) home a message goes to, as a core key. -/
def NetMsg.target : NetMsg → Nat
  | .req h _ => if 2 ^ 24 ≤ h then h - 2 ^ 24 else xtalRouter h
  | .accept w _ => w.core
  | .value c _ _ _ => c
  | .produced c _ _ _ _ _ => c
  | .fault r _ _ => r.core
  | .spawn dst _ => dst
  | .spawnRefused sp _ => sp.fromCore
  | .cont k => k.dst
  | .contAccepted c _ => c
  | .contRefused c _ _ _ => c
  | .send m => m.dst
  | .sendRefused m _ => m.src
  | .deleg m => m.dst
  | .delegRefused m _ => m.src
  | .reply c _ _ _ => c
  | .routineFault m _ => m.src
  | .exitMsg m => m.dst
  | .flit _ => 0
  | .sums dst _ _ _ => coreKey dst 26112

/-- The flits of a message. -/
def NetMsg.flits : NetMsg → Nat
  | .spawn _ _ => 2
  | .cont k => k.flits
  | .deleg _ => 3
  | .exitMsg _ => 2
  | .sums _ _ _ _ => 2
  | _ => 1

/-- The step in which a message is taken by its target. -/
def NetMsg.event : NetMsg → Option Event
  | .req h r => some (reqEvent h r)
  | .accept w (.psb entry) => some (.privStoreAck w.core entry)
  | .accept w ret => some (.acceptance w ret)
  | .value c x ret bs =>
    match ret with
    | .load serial slot part => some (.loadResult c x serial slot part bs none)
    | .copyRead cmd run => some (.loadResult c 16 cmd 1 run bs none)
    | .line va => some (.blockCacheFill c va (x / 65536) (x % 65536) bs)
    | .host off => some (.loadResult c 16 off 2 0 bs none)
    | _ => none
  | .produced c x reg v ok id => some (.producerCompletion c x .gr reg (v.setWidth 1024) ok id)
  | .fault r ret id => some (.deferredFault r ret id true)
  | .spawn dst sp => some (.spawnArrival dst sp)
  | .spawnRefused sp dst => some (.spawnRefusal dst sp)
  | .cont k => some (.continuationArrival k)
  | .contAccepted c x => some (.continuationAccept c x)
  | .contRefused c x cause sub => some (.continuationRefusal c x cause sub)
  | .send m => some (.sendArrival m)
  | .sendRefused m cause => some (.sendRefusal m cause)
  | .deleg m => some (.delegationArrival m)
  | .delegRefused m cause => some (.delegationRefusal m cause)
  | .reply c x reg v => some (.dcallReply c x reg v)
  | .routineFault m cause => some (.routineFaultReply m cause)
  | .exitMsg m => some (.exitMessageApply m)
  | .flit _ => none
  | .sums _ lid pkg sm => some (.podSums lid pkg sm)

/-- Records an entry of the host error log, at most 64, the oldest replaced (R383). -/
def State.logError (s : State) (p a : Nat) (c : FaultCode) : State :=
  s.modPkg p fun k => { k with errlog := (if k.errlog.length < 64 then k.errlog else k.errlog.drop 1) ++ [(a, c)] }

/-- A request has failed on its way to its home: a deferred fault for each of its issuers (R242). -/
def deferredRec (w : Who) (r : Req) (code : FaultCode) : TrapRec :=
  { core := w.core, ctx := w.ctx, dfr := true, cmb := decide (1 < r.who.length), cause := code, va := w.va
    rslot := w.rslot, rblk := w.rblk }

/-- The record of a fault that answers a spawn entry (R242, R359). -/
def Spawn.faultRec (sp : Spawn) (code : FaultCode) : TrapRec :=
  { core := sp.fromCore, ctx := sp.fromCtx, dfr := true, cause := code, rblk := sp.rblk, rslot := sp.rslot }

/-- The record of a fault that answers an exit message: its thread has left (R242). -/
def ExitMsg.faultRec (m : ExitMsg) (code : FaultCode) : TrapRec :=
  { core := m.src, ctx := m.sctx, dfr := true, cause := code, gtid := m.gtid, va := m.slotPa }

/-- The answer of a down port's router, or of a source router whose map entry is not valid, to a message that reaches it in cycle `t`
(R386, R387): FENCED travels back to the sender of a request or thread-class message; the other classes are discarded, which the
error log records. The answer to a refusal, an acceptance, a reply or a routine's fault reaches a core where nothing waits for it (log entry
60). -/
def State.answerDown (s : State) (t p router : Nat) (m : NetMsg) : State :=
  let back (c : Nat) (i : Event) (s : State) : State := s.sched (t + pathTime router c + 2) i
  match m with
  | .req _ r => r.who.foldl (fun s w => back w.core (.deferredFault (deferredRec w r .fenced) (r.retFor w) w.id true) s) s
  | .cont k => back k.src (.continuationRefusal k.src k.sctx (some .fenced) 0) s
  | .send m => back m.src (.sendRefusal m (some .fenced)) s
  | .deleg m => back m.src (.delegationRefusal m (some .fenced)) s
  | .spawn _ sp =>
    if isService sp.fromCore then s.logError p m.target .fenced
    else back sp.fromCore (.deferredFault (sp.faultRec .fenced) .ctx 0 true) s
  | .exitMsg m => back m.src (.deferredFault (m.faultRec .fenced) .ctx 0 true) s
  | m => if m.cls = 2 then s else s.logError p m.target .fenced

/-- The arrival of a thread-class message sent to a place after those sent there before it (R16, R263): it keeps their order. -/
def State.inOrder (s : State) (src dst flits due : Nat) : Nat × State :=
  let k := s.core src
  let t := match k.tails.get? dst with
    | some u => max due (u + flits)
    | none => due
  (t, s.modCore src fun k => { k with tails := Tbl.put (k.tails.filter fun e => decide (s.now < e.2)) dst t })

/-- The router at which a message on its dimension-ordered way (R16) enters a rectangle that holds its destination. -/
def Rect.gate (r : Rect) (src dst : Nat) : Nat :=
  let a := posOf src
  let b := posOf dst
  if r.row0 ≤ a.2 ∧ a.2 ≤ r.row1 then routerAt (pkgOf dst) (max r.col0 (min a.1 r.col1)) a.2
  else routerAt (pkgOf dst) b.1 (max r.row0 (min a.2 r.row1))

/-- The port at which what leaves through a port for a package arrives there (R386): that of its cable, or the one a switch leads to. -/
def State.farPort (s : State) (p n q : Nat) : Option Nat :=
  if ((s.pkg p).ports.get {} n).switched then Config.cable p n q
  else match Config.streamCable p n with
    | some d => if d.1 = q then some d.2 else none
    | none => none

/-- The router from which a message of `src` goes its way on the package of its destination: that of its core, or of the port through which
it comes in (R386). -/
def State.entryRouter (s : State) (src dst : Nat) : Nat :=
  if pkgOf src = pkgOf dst then routerOf src
  else match s.farPort (pkgOf src) (((s.pkg (pkgOf src)).portmap.get 0 (pkgOf dst)).toNat % 32) (pkgOf dst) with
    | some n => portRouter (pkgOf dst) n
    | none => routerOf dst

/-- The boundary router that answers a message to a fenced core (R278, R369): where it first enters a fenced rectangle that holds the
core. -/
def State.gate (s : State) (src dst : Nat) : Nat :=
  let k := s.pkg (pkgOf dst)
  let rs := ((k.rects.filter fun e => e.2.v && e.2.fenced).map (·.2.rect) ++ k.fences).filter (·.has dst)
  let a := s.entryRouter src dst
  rs.foldl (fun g r => if meshTime a (r.gate a dst) < meshTime a g then r.gate a dst else g) (routerOf dst)

/-- The time from a router to the place that takes a message: its destination, or the boundary router of a fence (R369). -/
def State.wayTime (s : State) (src : Nat) (m : NetMsg) : Nat :=
  if m.cls = 2 ∧ (s.core m.target).fenced then meshTime (routerOf src) (s.gate src m.target) + svcHop src
  else pathTime src m.target

/-- Sends a message from a router of a package, its first flit entering in cycle `e` (R17, R386). One for another package goes to the
port that the map names, and leaves through it from there. -/
def State.send (s : State) (e src : Nat) (m : NetMsg) : State :=
  let dst := m.target
  if pkgOf src = pkgOf dst then
    match m, m.event with
    | .req _ _, some i => s.sched (e + pathTime src dst) i
    | _, some i =>
      let t := e + (m.flits - 1) + s.wayTime src m + 2
      if m.cls = 2 then
        let (t, s) := s.inOrder src dst m.flits t
        s.sched t i
      else s.sched t i
    | _, none => s
  else
    let p := pkgOf src
    let pe := (s.pkg p).portmap.get 0 (pkgOf dst)
    if !pe.getLsbD 5 then s.answerDown e p (routerOf src) m
    else
      let n := pe.toNat % 32
      let t := e + (m.flits - 1) + meshTime (routerOf src) (portRouter p n) + svcHop src
      let go (t : Nat) (s : State) : State := s.sched (t + 1 - m.flits) (.codeword p n { leg := .out, msgs := [(0, m)], src := (p, n), dst := (p, n) } true)
      if m.cls = 2 then
        let (t, s) := s.inOrder src (2 ^ 24 + n) m.flits t
        go t s
      else go t s

/-- The boundary router of a fence answers a message of `src` to a core inside (R278, R369). -/
def State.answerFenced (s : State) (src dst : Nat) (m : NetMsg) : State := (s.countSent dst).send s.now (s.gate src dst) m

/-- The mark of a message that its destination may refuse (R263): its sender and context, its place there (16 is the delegation queue),
its order. -/
def SendMsg.mark (m : SendMsg) : Nat × Nat × Nat × Nat := (m.src, m.sctx, m.dctx, m.ord)
/-- The mark of a delegation request. -/
def DelegMsg.mark (m : DelegMsg) : Nat × Nat × Nat × Nat := (m.src, m.sctx, 16, m.ord)

/-- An earlier message of the same context to the same place was refused and has not been taken: this one is refused too, so that
refusals never reorder them (R263; log entry 61). -/
def Core.mustFollow (k : Core) (m : Nat × Nat × Nat × Nat) : Bool :=
  k.refused.any fun e => e.1 == m.1 && e.2.1 == m.2.1 && e.2.2.1 == m.2.2.1 && decide (e.2.2.2 < m.2.2.2)

/-- A core notes that it has refused a message, or (false) that the message is taken or given up. -/
def State.noteRefused (s : State) (c : Nat) (m : Nat × Nat × Nat × Nat) (on : Bool) : State :=
  s.modCore c fun k => { k with refused := (k.refused.filter (· != m)) ++ if on then [m] else [] }

/-- Sends a message that counts as one of the launch (R374, R377). -/
def State.sendCounted (s : State) (e src : Nat) (m : NetMsg) : State := (s.countSent src).send e src m

/-! ### Ending a block, and taking a fault (R57, R242, R359, R360, R363) -/

/-- The link entries a slot has reserved: its targets, and the queues a MARK names (R264, R270). -/
def Slot.reservations (k : Slot) : List Nat :=
  k.push.map (fun p => p.1.num) ++
    (match k.eff with
      | .mark w => (List.range 4).filter fun i => w.getLsbD i
      | _ => [])

/-- Releases reserved output entries. -/
def Core.release (k : Core) (qs : List Nat) : Core :=
  qs.foldl (fun k q => { k with reserved := k.reserved.put q (k.reserved.get 0 q - 1) }) k

/-- Ends a context's block without effect (R57): its reservations, taken words and load values are given back,
its results in flight never arrive. -/
def State.dropBlock (s : State) (c x : Nat) : State :=
  let t := s.ctx c x
  let qs := match t.blk with
    | some b => b.slots.flatMap Slot.reservations
    | none => []
  (s.modCore c fun k => k.release qs).modCtx c x fun t =>
    { t with blk := none, fetch := none, serial := t.serial + 1, lvq := [] }

/-- The address of a context's block, being executed or fetched. -/
def Ctx.blkAddr (t : Ctx) : Nat :=
  match t.blk with
  | some b => b.addr
  | none =>
    match t.fetch with
    | some f => f.addr
    | none =>
      match t.latch with
      | some l => l.trap.blk
      | none => 0

/-- The trap record of a cause met in a context (R359). -/
def State.trapRec (s : State) (c x : Nat) (k : Cause) : TrapRec :=
  let t := s.ctx c x
  { core := c, ctx := x, pair := t.pair, dlg := x == 0 && (s.core c).head.routine.isSome, emp := k.emp
    file := k.file, sub := k.sub, cause := k.code, gtid := t.gtid, blk := t.blkAddr, va := k.va
    tb := s.tbase (pkgOf c) }

/-- A context, or the pair it belongs to, enters its retry latch with a record; its block is discarded (R242,
R360). DESIGN CHOICE (log entry 63): a BWT that it waited in is not waited for again after ACKF. -/
def State.latchCtx (s : State) (c x : Nat) (r : TrapRec) : State :=
  let r := if (s.ctx c x).pair then { r with ctx := leader x, pair := true } else r
  let s := (s.team c x).foldl (fun s y =>
    (s.dropBlock c y).modCtx c y fun t =>
      { t with st := .latched, after := [], depart := none
               latch := some ⟨r, (s.core c).latches, decide (y ≠ r.ctx)⟩ }) s
  let s := s.modCore c fun k => { k with latches := k.latches + 1 }
  let s := s.trace c r.ctx 4 0 r.blk (some (r.cause.num * 2 ^ 48 + r.va % 2 ^ 48))
  s.sched s.now (.trapRecordQueued c r.ctx)

/-- A fault of the head context in its own code fences its core, and the host gets the record (R363). -/
def State.headFault (s : State) (c : Nat) (r : TrapRec) : State :=
  let p := posOf c
  ((s.dropBlock c 0).modPkg (pkgOf c) fun q => { q with out := q.out ++ [.record r] }).sched s.now
    (.fence (pkgOf c) ⟨p.1, p.2, p.1, p.2⟩ r.cause)

/-- A fault ends the delegated routine of a core (R286): its requester receives it with the routine's block and slot, and the head context
goes on to its next request. -/
def State.endRoutineBy (s : State) (c : Nat) (m : DelegMsg) (k : Cause) (blk slot : Nat) : State :=
  let h := (s.core c).head
  let s := (s.dropBlock c 0).modCore c fun q => { q with head := { q.head with routine := none } }
  let s := s.modCtx c 0 fun t =>
    { t with asid := h.savedAsid, gen := h.savedGen, gtid := h.savedGtid, after := [], commitAt := none
             st := if h.retBlk.isSome then t.st else .vacant }
  (s.sendCounted (s.now + 2) c (.routineFault { m with rblk := blk, rslot := slot } k)).sched (s.now + 1) (.delegationBegin c)

/-- TAKING A FAULT, for every synchronous cause (R57, R359, R360, R363): the block is discarded; a worker or
communication context enters its retry latch with the record; the head context's core is fenced, or in a
delegated routine the routine ends and its requester receives the fault, which names the block and the slot (R286). -/
def State.takeFault (s : State) (c x : Nat) (k : Cause) (slot : Nat := 0) : State :=
  if x ≠ 0 then s.latchCtx c x (s.trapRec c x k)
  else
    match (s.core c).head.routine with
    | some m => s.endRoutineBy c m k (s.ctx c 0).blkAddr slot
    | none => s.headFault c (s.trapRec c 0 k)

/-- A fault reaches a slot of a context's block from outside the block: the core's turn in this cycle orders it among the others of the
block (R57). -/
def State.doom (s : State) (c x slot : Nat) (k : Cause) : State :=
  s.modCtx c x fun t => { t with doomed := (t.doomed.filter fun e => e.1 == t.serial) ++ [(t.serial, slot, k)] }

/-- A fault of the instruction at the current position (R57). -/
def State.raise (s : State) (k : Cause) : State := s.takeFault s.cur.core s.cur.ctx k s.cur.slot

end Sys2Proof.Machine
end

