-- ==== Sys2Proof/Machine/Flags.lean ====
section
/-!
DEFINITION. Counters and flags: the exception counters that results feed (R139, R140), the slot counters, and the one
rule for an event and an access in the same cycle (R308), with the overflow flags.
-/

namespace Sys2Proof.Machine

/-- The greatest value of a counter (R308): 32 bits for ex0 to ex15, else 48. -/
def counterMax (n : Nat) : Nat := if 0x030 ≤ n ∧ n ≤ 0x03F then 2 ^ 32 - 1 else 2 ^ 48 - 1

/-- A counter's value, as a read in this cycle returns it (R308). -/
def Core.counter (k : Core) (n : Nat) : Nat := k.counters.get 0 n

/-- A counter's overflow flag (R308). -/
def Core.overflowed (k : Core) (n : Nat) : Bool := k.overflow.contains n

/-- An event adds `v` to counter `n` in this cycle. -/
def State.count (s : State) (c n v : Nat) : State :=
  if v = 0 then s else s.modCore c fun k => { k with incs := k.incs.put n (k.incs.get 0 n + v) }

/-- Events of exception counters (R139), each a counter 0 to 15 with its number of elements. -/
def State.countEx (s : State) (c : Nat) (ev : List (Nat × Nat)) : State :=
  ev.foldl (fun s e => s.count c (0x030 + e.1) e.2) s

/-- A write of counter `n` in this cycle, which replaces every earlier one; 0x8000 + n clears the overflow flag where any write of the
cycle has bit 0 (R5, R309, R311). -/
def State.writeCounter (s : State) (c n v : Nat) : State :=
  s.modCore c fun k =>
    { k with cwrites := k.cwrites.put n (if 0x8000 ≤ n then k.cwrites.get 0 n ||| v else v), unseen := k.unseen.drop n }

/-- WCTL, SCTL or CCTL replaces a counter in this cycle (R91, R308); until the cycle `t`, RCTL goes on with the value before, and the
events that it counts. -/
def State.replaceCounter (s : State) (c n v t : Nat) : State :=
  let k := s.core c
  let old := (k.unseen.get? n).getD (t, k.cwrites.get (k.counter n) n)
  (s.writeCounter c n v).modCore c fun k => { k with unseen := k.unseen.put n old }

/-- What RCTL reads of a counter (R91). -/
def Core.counterSeen (k : Core) (n : Nat) : Nat := ((k.unseen.get? n).map (·.2)).getD (k.counter n)

/-- A counter after a cycle with a write and an increment (R308), and whether its overflow flag is set: `old` is its value before. -/
def counterStep (n old : Nat) (write : Option Nat) (inc : Nat) : Nat × Bool :=
  let m := counterMax n
  let base := match write with
    | some v => v % (m + 1)
    | none => old
  (min m (base + inc), decide (m < old + inc))

/-- The counters of a core at the end of a cycle (R308). -/
def Core.closeCounters (k : Core) : Core :=
  if k.incs.isEmpty && k.cwrites.isEmpty then k
  else
    let names := ((k.incs.map (·.1)) ++ (k.cwrites.map (·.1)).filter (· < 0x8000)).eraseDups
    let cleared := k.overflow.filter fun n => k.cwrites.get 0 (0x8000 + n) % 2 == 0
    let seen (e : Nat × Nat × Nat) : Nat × Nat × Nat := (e.1, e.2.1, min (counterMax e.1) (e.2.2 + k.incs.get 0 e.1))
    let k := { k with overflow := cleared, unseen := k.unseen.map seen }
    let k := names.foldl (fun k n =>
      let r := counterStep n (k.counter n) (k.cwrites.get? n) (k.incs.get 0 n)
      { k with counters := k.counters.put n r.1
               overflow := if r.2 && !k.overflow.contains n then k.overflow ++ [n] else k.overflow }) k
    { k with incs := [], cwrites := [] }

/-- The number of the slot counter of context `x`, class `j` (R90, R309). -/
def slotCounter (x j : Nat) : Nat := 0x100 + 4 * x + j

end Sys2Proof.Machine
end

