-- ==== Sys2Proof/Syntax.lean ====
section
/-!
DEFINITION. The abstract syntax: one constructor per row of the table of operations and events. The first
201 are the instructions of the Etsolvo set, with the fields of their words (R38 to R41, R63 to R75); the
others are the steps that the device takes by itself or on an input from outside. An instruction finds its
operands at the firing position of the state, and an event the data it acts on (Machine/Event.lean) in the
state's current event.
-/

namespace Sys2Proof

open Sys2Proof.Machine

/-- An instruction or an event of the device. -/
inductive Instr where
  /-- MOVH (R107). -/
  | movh (pm : Pm) (t0 : BitVec 8)
  /-- NOTH (R65). -/
  | noth (pm : Pm) (t0 : BitVec 8)
  /-- NEGH (R65). -/
  | negh (pm : Pm) (t0 : BitVec 8)
  /-- INCH (R65). -/
  | inch (pm : Pm) (t0 : BitVec 8)
  /-- DECH (R65). -/
  | dech (pm : Pm) (t0 : BitVec 8)
  /-- NULLH (R109). -/
  | nullh (pm : Pm) (t0 : BitVec 8)
  /-- TEQZ (R116). -/
  | teqz (pm : Pm) (t0 : BitVec 8)
  /-- TNEZ (R116). -/
  | tnez (pm : Pm) (t0 : BitVec 8)
  /-- TLTZ (R116). -/
  | tltz (pm : Pm) (t0 : BitVec 8)
  /-- TGEZ (R116). -/
  | tgez (pm : Pm) (t0 : BitVec 8)
  /-- SXB (R115). -/
  | sxb (pm : Pm) (t0 : BitVec 8)
  /-- SXH (R115). -/
  | sxh (pm : Pm) (t0 : BitVec 8)
  /-- SXW (R115). -/
  | sxw (pm : Pm) (t0 : BitVec 8)
  /-- ZXB (R115). -/
  | zxb (pm : Pm) (t0 : BitVec 8)
  /-- ZXH (R115). -/
  | zxh (pm : Pm) (t0 : BitVec 8)
  /-- ZXW (R115). -/
  | zxw (pm : Pm) (t0 : BitVec 8)
  /-- HBT_H (R328). -/
  | hbtH (pm : Pm)
  /-- POPN (R268). -/
  | popn (pm : Pm) (t0 : BitVec 8)
  /-- POPE (R268). -/
  | pope (pm : Pm) (t0 : BitVec 8)
  /-- POPS (R268). -/
  | pops (pm : Pm) (t0 : BitVec 8)
  /-- POPW (R268). -/
  | popw (pm : Pm) (t0 : BitVec 8)
  /-- RETH (R119). -/
  | reth (pm : Pm)
  /-- RD (R104). -/
  | rd (cls : RegFile) (r : BitVec 6) (t1 : BitVec 8) (t0 : BitVec 8)
  /-- RDT (R104). -/
  | rdt (cls : RegFile) (r : BitVec 6) (t1 : BitVec 8) (t0 : BitVec 8)
  /-- WR (R105). -/
  | wr (cls : RegFile) (r : BitVec 6)
  /-- MOVI (R108). -/
  | movi (pm : Pm) (imm : BitVec 14) (t0 : BitVec 8)
  /-- MOVHI (R108). -/
  | movhi (pm : Pm) (imm : BitVec 14) (t0 : BitVec 8)
  /-- BR (R120). -/
  | br (pm : Pm) (off : BitVec 22)
  /-- BRI (R120). -/
  | bri (pm : Pm)
  /-- CALL (R120). -/
  | call (pm : Pm) (off : BitVec 22)
  /-- CALLI (R120). -/
  | calli (pm : Pm)
  /-- RET (R119). -/
  | ret (pm : Pm)
  /-- NULL (R109). -/
  | null (pm : Pm) (n : Bool) (t1 : BitVec 8) (t0 : BitVec 8)
  /-- SEL (R110). -/
  | sel (t1 : BitVec 8) (t0 : BitVec 8)
  /-- MOV (R107). -/
  | mov (pm : Pm) (t1 : BitVec 8) (t0 : BitVec 8)
  /-- ADD (R111). -/
  | add (pm : Pm) (w : Wid) (t1 : BitVec 8) (t0 : BitVec 8)
  /-- SUB (R111). -/
  | sub (pm : Pm) (w : Wid) (t1 : BitVec 8) (t0 : BitVec 8)
  /-- AND (R111). -/
  | and (pm : Pm) (w : Wid) (t1 : BitVec 8) (t0 : BitVec 8)
  /-- OR (R111). -/
  | or (pm : Pm) (w : Wid) (t1 : BitVec 8) (t0 : BitVec 8)
  /-- XOR (R111). -/
  | xor (pm : Pm) (w : Wid) (t1 : BitVec 8) (t0 : BitVec 8)
  /-- ANDN (R111). -/
  | andn (pm : Pm) (w : Wid) (t1 : BitVec 8) (t0 : BitVec 8)
  /-- SHL (R111). -/
  | shl (pm : Pm) (w : Wid) (t1 : BitVec 8) (t0 : BitVec 8)
  /-- SHR (R111). -/
  | shr (pm : Pm) (w : Wid) (t1 : BitVec 8) (t0 : BitVec 8)
  /-- SRA (R111). -/
  | sra (pm : Pm) (w : Wid) (t1 : BitVec 8) (t0 : BitVec 8)
  /-- ROT (R111). -/
  | rot (pm : Pm) (w : Wid) (t1 : BitVec 8) (t0 : BitVec 8)
  /-- MIN (R111). -/
  | min (pm : Pm) (w : Wid) (t1 : BitVec 8) (t0 : BitVec 8)
  /-- MAX (R111). -/
  | max (pm : Pm) (w : Wid) (t1 : BitVec 8) (t0 : BitVec 8)
  /-- MINU (R111). -/
  | minu (pm : Pm) (w : Wid) (t1 : BitVec 8) (t0 : BitVec 8)
  /-- MAXU (R111). -/
  | maxu (pm : Pm) (w : Wid) (t1 : BitVec 8) (t0 : BitVec 8)
  /-- ADDI (R112). -/
  | addi (pm : Pm) (imm : BitVec 14) (t0 : BitVec 8)
  /-- ANDI (R112). -/
  | andi (pm : Pm) (imm : BitVec 14) (t0 : BitVec 8)
  /-- ORI (R112). -/
  | ori (pm : Pm) (imm : BitVec 14) (t0 : BitVec 8)
  /-- XORI (R112). -/
  | xori (pm : Pm) (imm : BitVec 14) (t0 : BitVec 8)
  /-- SHLI (R112). -/
  | shli (pm : Pm) (imm : BitVec 14) (t0 : BitVec 8)
  /-- SHRI (R112). -/
  | shri (pm : Pm) (imm : BitVec 14) (t0 : BitVec 8)
  /-- SRAI (R112). -/
  | srai (pm : Pm) (imm : BitVec 14) (t0 : BitVec 8)
  /-- MUL (R113). -/
  | mul (pm : Pm) (w : Wid) (t1 : BitVec 8) (t0 : BitVec 8)
  /-- MULH (R113). -/
  | mulh (pm : Pm) (w : Wid) (t1 : BitVec 8) (t0 : BitVec 8)
  /-- MULHU (R113). -/
  | mulhu (pm : Pm) (w : Wid) (t1 : BitVec 8) (t0 : BitVec 8)
  /-- DIV (R113). -/
  | div (pm : Pm) (w : Wid) (t1 : BitVec 8) (t0 : BitVec 8)
  /-- DIVU (R113). -/
  | divu (pm : Pm) (w : Wid) (t1 : BitVec 8) (t0 : BitVec 8)
  /-- REM (R113). -/
  | rem (pm : Pm) (w : Wid) (t1 : BitVec 8) (t0 : BitVec 8)
  /-- REMU (R113). -/
  | remu (pm : Pm) (w : Wid) (t1 : BitVec 8) (t0 : BitVec 8)
  /-- CLZ (R115). -/
  | clz (pm : Pm) (w : Wid) (t1 : BitVec 8) (t0 : BitVec 8)
  /-- CTZ (R115). -/
  | ctz (pm : Pm) (w : Wid) (t1 : BitVec 8) (t0 : BitVec 8)
  /-- POPC (R115). -/
  | popc (pm : Pm) (w : Wid) (t1 : BitVec 8) (t0 : BitVec 8)
  /-- SEXT_B (R115). -/
  | sextB (pm : Pm) (t1 : BitVec 8) (t0 : BitVec 8)
  /-- SEXT_H (R115). -/
  | sextH (pm : Pm) (t1 : BitVec 8) (t0 : BitVec 8)
  /-- SEXT_W (R115). -/
  | sextW (pm : Pm) (t1 : BitVec 8) (t0 : BitVec 8)
  /-- ZEXT_B (R115). -/
  | zextB (pm : Pm) (t1 : BitVec 8) (t0 : BitVec 8)
  /-- ZEXT_H (R115). -/
  | zextH (pm : Pm) (t1 : BitVec 8) (t0 : BitVec 8)
  /-- ZEXT_W (R115). -/
  | zextW (pm : Pm) (t1 : BitVec 8) (t0 : BitVec 8)
  /-- BSWAP (R115). -/
  | bswap (pm : Pm) (w : Wid) (t1 : BitVec 8) (t0 : BitVec 8)
  /-- NOT (R115). -/
  | not (pm : Pm) (w : Wid) (t1 : BitVec 8) (t0 : BitVec 8)
  /-- NEG (R115). -/
  | neg (pm : Pm) (w : Wid) (t1 : BitVec 8) (t0 : BitVec 8)
  /-- TEQ (R116). -/
  | teq (pm : Pm) (w : Wid) (t1 : BitVec 8) (t0 : BitVec 8)
  /-- TNE (R116). -/
  | tne (pm : Pm) (w : Wid) (t1 : BitVec 8) (t0 : BitVec 8)
  /-- TLT (R116). -/
  | tlt (pm : Pm) (w : Wid) (t1 : BitVec 8) (t0 : BitVec 8)
  /-- TLTU (R116). -/
  | tltu (pm : Pm) (w : Wid) (t1 : BitVec 8) (t0 : BitVec 8)
  /-- TLE (R116). -/
  | tle (pm : Pm) (w : Wid) (t1 : BitVec 8) (t0 : BitVec 8)
  /-- TLEU (R116). -/
  | tleu (pm : Pm) (w : Wid) (t1 : BitVec 8) (t0 : BitVec 8)
  /-- TLTI (R116). -/
  | tlti (pm : Pm) (imm : BitVec 14) (t0 : BitVec 8)
  /-- TEQI (R116). -/
  | teqi (pm : Pm) (imm : BitVec 14) (t0 : BitVec 8)
  /-- LEA (R117). -/
  | lea (pm : Pm) (h : BitVec 2) (t1 : BitVec 8) (t0 : BitVec 8)
  /-- MIX (R118). -/
  | mix (pm : Pm) (t1 : BitVec 8) (t0 : BitVec 8)
  /-- VADD (R146). -/
  | vadd (pm : Pm) (f : Fmt) (t1 : BitVec 8) (t0 : BitVec 8)
  /-- VSUB (R146). -/
  | vsub (pm : Pm) (f : Fmt) (t1 : BitVec 8) (t0 : BitVec 8)
  /-- VMUL (R146). -/
  | vmul (pm : Pm) (f : Fmt) (t1 : BitVec 8) (t0 : BitVec 8)
  /-- VFMA (R146). -/
  | vfma (f : Fmt) (t1 : BitVec 8) (t0 : BitVec 8)
  /-- VFNMA (R146). -/
  | vfnma (f : Fmt) (t1 : BitVec 8) (t0 : BitVec 8)
  /-- VMIN (R147). -/
  | vmin (pm : Pm) (f : Fmt) (t1 : BitVec 8) (t0 : BitVec 8)
  /-- VMAX (R147). -/
  | vmax (pm : Pm) (f : Fmt) (t1 : BitVec 8) (t0 : BitVec 8)
  /-- VABS (R148). -/
  | vabs (pm : Pm) (f : Fmt) (t1 : BitVec 8) (t0 : BitVec 8)
  /-- VNEG (R148). -/
  | vneg (pm : Pm) (f : Fmt) (t1 : BitVec 8) (t0 : BitVec 8)
  /-- VDIV (R146). -/
  | vdiv (pm : Pm) (f : Fmt) (t1 : BitVec 8) (t0 : BitVec 8)
  /-- VSQRT (R149). -/
  | vsqrt (pm : Pm) (f : Fmt) (t1 : BitVec 8) (t0 : BitVec 8)
  /-- VRCP (R149). -/
  | vrcp (pm : Pm) (f : Fmt) (t1 : BitVec 8) (t0 : BitVec 8)
  /-- VRSQ (R149). -/
  | vrsq (pm : Pm) (f : Fmt) (t1 : BitVec 8) (t0 : BitVec 8)
  /-- VEXP2 (R149). -/
  | vexp2 (pm : Pm) (f : Fmt) (t1 : BitVec 8) (t0 : BitVec 8)
  /-- VLOG2 (R149). -/
  | vlog2 (pm : Pm) (f : Fmt) (t1 : BitVec 8) (t0 : BitVec 8)
  /-- VCMP (R151). -/
  | vcmp (pm : Pm) (c : BitVec 3) (f : Fmt) (t1 : BitVec 8) (t0 : BitVec 8)
  /-- VAND (R153). -/
  | vand (pm : Pm) (t1 : BitVec 8) (t0 : BitVec 8)
  /-- VOR (R153). -/
  | vor (pm : Pm) (t1 : BitVec 8) (t0 : BitVec 8)
  /-- VXOR (R153). -/
  | vxor (pm : Pm) (t1 : BitVec 8) (t0 : BitVec 8)
  /-- VANDN (R153). -/
  | vandn (pm : Pm) (t1 : BitVec 8) (t0 : BitVec 8)
  /-- VSHL (R154). -/
  | vshl (pm : Pm) (f : Fmt) (t1 : BitVec 8) (t0 : BitVec 8)
  /-- VSHR (R154). -/
  | vshr (pm : Pm) (f : Fmt) (t1 : BitVec 8) (t0 : BitVec 8)
  /-- VSRA (R154). -/
  | vsra (pm : Pm) (f : Fmt) (t1 : BitVec 8) (t0 : BitVec 8)
  /-- VRNG (R162). -/
  | vrng (pm : Pm) (t1 : BitVec 8) (t0 : BitVec 8)
  /-- VDOT4 (R150). -/
  | vdot4 (k : BitVec 2) (t1 : BitVec 8) (t0 : BitVec 8)
  /-- VSEL (R152). -/
  | vsel (t1 : BitVec 8) (t0 : BitVec 8)
  /-- VBCAST (R155). -/
  | vbcast (pm : Pm) (f : Fmt) (t1 : BitVec 8) (t0 : BitVec 8)
  /-- VEXTR (R155). -/
  | vextr (pm : Pm) (f : Fmt) (t1 : BitVec 8) (t0 : BitVec 8)
  /-- VINS (R155). -/
  | vins (f : Fmt) (t1 : BitVec 8) (t0 : BitVec 8)
  /-- VPERM (R156). -/
  | vperm (pm : Pm) (t1 : BitVec 8) (t0 : BitVec 8)
  /-- VSLIDE (R157). -/
  | vslide (pm : Pm) (z : Bool) (d : Bool) (t1 : BitVec 8) (t0 : BitVec 8)
  /-- VRED (R159). -/
  | vred (pm : Pm) (o : BitVec 3) (f : Fmt) (t1 : BitVec 8) (t0 : BitVec 8)
  /-- VCVT (R160). -/
  | vcvt (pm : Pm) (fd : Fmt) (fs : Fmt) (t1 : BitVec 8) (t0 : BitVec 8)
  /-- VQSHR (R161). -/
  | vqshr (t1 : BitVec 8) (t0 : BitVec 8)
  /-- VFKEY (R163). -/
  | vfkey (pm : Pm) (n : Bool) (t1 : BitVec 8) (t0 : BitVec 8)
  /-- QBFX (R164). -/
  | qbfx (pm : Pm) (x : Bool) (t1 : BitVec 8) (t0 : BitVec 8)
  /-- DQBFX (R165). -/
  | dqbfx (pm : Pm) (x : Bool) (t1 : BitVec 8) (t0 : BitVec 8)
  /-- TLD (R178). -/
  | tld (pm : Pm) (td : BitVec 4)
  /-- TST (R178). -/
  | tst (pm : Pm) (ta : BitVec 4)
  /-- TZERO (R179). -/
  | tzero (pm : Pm) (td : BitVec 4)
  /-- TMMA (R180). -/
  | tmma (pm : Pm) (td : BitVec 4) (ta : BitVec 4) (tb : BitVec 4) (acc : BitVec 2)
  /-- TMMAS (R183). -/
  | tmmas (pm : Pm) (td : BitVec 4) (ta : BitVec 4) (tb : BitVec 4) (acc : BitVec 2)
  /-- TMMAC (R184). -/
  | tmmac (pm : Pm) (td : BitVec 4) (ta : BitVec 4) (tb : BitVec 4) (acc : BitVec 2)
  /-- TCKV (R186). -/
  | tckv (pm : Pm) (ta : BitVec 4) (g : BitVec 6)
  /-- TADD (R187). -/
  | tadd (pm : Pm) (td : BitVec 4) (ta : BitVec 4) (tb : BitVec 4)
  /-- TCVT (R187). -/
  | tcvt (pm : Pm) (td : BitVec 4) (ta : BitVec 4)
  /-- TTRN (R187). -/
  | ttrn (pm : Pm) (td : BitVec 4) (ta : BitVec 4)
  /-- TROW (R188). -/
  | trow (pm : Pm) (ta : BitVec 4) (v : BitVec 4)
  /-- TINS (R188). -/
  | tins (pm : Pm) (td : BitVec 4)
  /-- LD (R201). -/
  | ld (pm : Pm) (lsid : BitVec 5) (size : BitVec 2) (flag : Bool) (imm : BitVec 6) (t0 : BitVec 8)
  /-- LDW (R201). -/
  | ldw (pm : Pm) (lsid : BitVec 5) (size : BitVec 2) (flag : Bool) (imm : BitVec 6) (t0 : BitVec 8)
  /-- ST (R201). -/
  | st (pm : Pm) (lsid : BitVec 5) (size : BitVec 2) (flag : Bool) (imm : BitVec 6)
  /-- VLD (R203). -/
  | vld (pm : Pm) (lsid : BitVec 5) (size : BitVec 2) (flag : Bool) (imm : BitVec 6) (t0 : BitVec 8)
  /-- VST (R203). -/
  | vst (pm : Pm) (lsid : BitVec 5) (size : BitVec 2) (flag : Bool) (imm : BitVec 6)
  /-- JOIN (R244). -/
  | join (pm : Pm) (lsid : BitVec 5) (size : BitVec 2) (flag : Bool) (imm : BitVec 6)
  /-- VJOIN (R245). -/
  | vjoin (pm : Pm) (lsid : BitVec 5) (size : BitVec 2) (flag : Bool) (imm : BitVec 6)
  /-- WAITT (R247). -/
  | waitt (pm : Pm) (g : BitVec 6) (c : BitVec 8)
  /-- XLD (R248). -/
  | xld (pm : Pm) (lsid : BitVec 5) (size : BitVec 2) (imm : BitVec 6) (t0 : BitVec 8)
  /-- VXLD (R248). -/
  | vxld (pm : Pm) (lsid : BitVec 5) (size : BitVec 2) (imm : BitVec 6) (t0 : BitVec 8)
  /-- FREEZE (R249). -/
  | freeze (pm : Pm)
  /-- FRZQ (R250). -/
  | frzq (pm : Pm)
  /-- FADDB (R251). -/
  | faddb (g : BitVec 6)
  /-- INCW (R251). -/
  | incw (pm : Pm) (g : BitVec 6)
  /-- FILL_D (R246). -/
  | fillD (pm : Pm) (lsid : BitVec 5) (imm : BitVec 6)
  /-- FILL_V (R246). -/
  | fillV (pm : Pm) (lsid : BitVec 5) (imm : BitVec 6)
  /-- CPY (R252). -/
  | cpy (pm : Pm) (g : BitVec 6)
  /-- CPYW (R256). -/
  | cpyw (pm : Pm) (g : BitVec 6)
  /-- POP (R268). -/
  | pop (pm : Pm) (d : Dir) (t1 : BitVec 8) (t0 : BitVec 8)
  /-- POP_MB (R268). -/
  | popMb (pm : Pm) (t1 : BitVec 8) (t0 : BitVec 8)
  /-- QSTAT (R269). -/
  | qstat (pm : Pm) (fn : BitVec 6) (t0 : BitVec 8)
  /-- SEND (R271). -/
  | send (pm : Pm)
  /-- STRM (R270). -/
  | strm (pm : Pm)
  /-- MARK (R270). -/
  | mark (pm : Pm)
  /-- MIG (R281). -/
  | mig (pm : Pm)
  /-- DELEG (R282). -/
  | deleg (pm : Pm)
  /-- DCALL (R282). -/
  | dcall (pm : Pm) (g : BitVec 6)
  /-- DRET (R285). -/
  | dret (pm : Pm)
  /-- BINIT (R316). -/
  | binit (pm : Pm)
  /-- ARV (R317). -/
  | arv (pm : Pm)
  /-- ARVD (R317). -/
  | arvd (pm : Pm)
  /-- BWT (R321). -/
  | bwt (pm : Pm)
  /-- RCNT (R310). -/
  | rcnt (pm : Pm) (t0 : BitVec 8)
  /-- WCNT (R311). -/
  | wcnt (pm : Pm)
  /-- ECOMB (R325). -/
  | ecomb (pm : Pm)
  /-- HBT (R328). -/
  | hbt (pm : Pm)
  /-- TRMK (R333). -/
  | trmk (pm : Pm)
  /-- DIGR (R332). -/
  | digr (pm : Pm) (t0 : BitVec 8)
  /-- RCTL (R91). -/
  | rctl (pm : Pm) (cn : BitVec 12) (t0 : BitVec 8)
  /-- WCTL (R91). -/
  | wctl (pm : Pm) (cn : BitVec 12)
  /-- SCTL (R91). -/
  | sctl (pm : Pm) (cn : BitVec 12)
  /-- CCTL (R91). -/
  | cctl (pm : Pm) (cn : BitVec 12)
  /-- FORK (R348). -/
  | fork (pm : Pm) (t0 : BitVec 8)
  /-- MERGE (R349). -/
  | merge (pm : Pm) (g : BitVec 6)
  /-- EXIT (R350). -/
  | exit (pm : Pm)
  /-- RETAIN (R351). -/
  | retain (pm : Pm)
  /-- START (R352). -/
  | start (pm : Pm)
  /-- START_COMM (R352). -/
  | startComm (pm : Pm)
  /-- REAP_DUMP (R353). -/
  | reapDump (pm : Pm)
  /-- REAP_TRAP (R353). -/
  | reapTrap (pm : Pm)
  /-- KILL (R354). -/
  | kill (pm : Pm)
  /-- ACKF (R355). -/
  | ackf (pm : Pm)
  /-- ERET (R356). -/
  | eret (pm : Pm)
  /-- TLBI (R295). -/
  | tlbi (pm : Pm)
  /-- GENB (R294). -/
  | genb (pm : Pm)
  /-- TBLW_TRANSLATION (R291). -/
  | tblwTranslation (pm : Pm)
  /-- TBLW_ASID_ROOT (R293). -/
  | tblwAsidRoot (pm : Pm)
  /-- TBLW_STREAM_ENTRY (R298). -/
  | tblwStreamEntry (pm : Pm)
  /-- TBLW_CONTAINMENT (R301). -/
  | tblwContainment (pm : Pm)
  /-- TBLW_FORMAT_WINDOW (R302). -/
  | tblwFormatWindow (pm : Pm)
  /-- TBLW_BREAKPOINT (R304). -/
  | tblwBreakpoint (pm : Pm)
  /-- TBLW_CORRECTION_HISTORY (R305). -/
  | tblwCorrectionHistory (pm : Pm)
  /-- TBLW_FRAME_STATE (R297). -/
  | tblwFrameState (pm : Pm)
  /-- GSTOP (R357). -/
  | gstop (pm : Pm)
  /-- GSTOP_RESUME (R357). -/
  | gstopResume (pm : Pm)
  /-- GSW (R357). -/
  | gsw (pm : Pm)
  /-- TRAP (R358). -/
  | trap (pm : Pm) (c : BitVec 6)
  /-- SEINJ_WRITE (R99): a write of seinj arms a one-bit soft error for the next tile completion. -/
  | seinjWrite
  /-- EBUD_WRITE (R100): a write of ebud sets the die budget from the next window. -/
  | ebudWrite
  /-- HBI_WRITE (R329): a write of hbi changes every heartbeat limit from the next rotation. -/
  | hbiWrite
  /-- TOM_WRITE (R95): a write of tom changes tile owners and invalidates reassigned tiles. -/
  | tomWrite
  /-- BLOCK_FETCH (R42): the fetcher loads and checks the next block before any instruction fires. -/
  | blockFetch
  /-- BLOCK_CACHE_FILL (R206): a requested 64-byte code line arrives and fills the block cache. -/
  | blockCacheFill
  /-- TRANSLATION_WALK (R204): a last-level translation lookup or walk returns and fills the buffers. -/
  | translationWalk
  /-- BLOCK_COMMIT (R54): a block whose commit conditions hold commits in the following rotation. -/
  | blockCommit
  /-- BLOCK_STARVED (R56): a block with nothing fireable and nothing outstanding raises BLKFMT. -/
  | blockStarved
  /-- ROTATION_ACCOUNTING (R312): each rotation charges every context's slot to one class and updates lent and rdh. -/
  | rotationAccounting
  /-- PRODUCER_COMPLETION (R84): an asynchronous producer's result arrives and makes its destination FULL or INVALID. -/
  | producerCompletion
  /-- LOAD_RESULT (R199): a memory read's result returns to the core and becomes present. -/
  | loadResult
  /-- ACCEPTANCE (R241): a request's acceptance returns and lowers the context's outstanding count. -/
  | acceptance
  /-- DEFERRED_FAULT (R242): a fault returned after release discards the current block and latches the context. -/
  | deferredFault
  /-- TRAP_RECORD_QUEUED (R360): a latched record waiting for room enters the trap queue. -/
  | trapRecordQueued
  /-- TRAP_HANDLER_ENTRY (R356): the head context enters the handler at tvec for a queued trap record. -/
  | trapHandlerEntry
  /-- TASK_ADMISSION (R33): a held task starts in the first cycle its energy estimate fits erem. -/
  | taskAdmission
  /-- PRIV_STORE_DRAIN (R198): the oldest private store buffer entry is released to its home. -/
  | privStoreDrain
  /-- PRIV_STORE_APPLY (R198): the home applies a drained private store and returns its acknowledgement. -/
  | privStoreApply
  /-- PRIV_STORE_ACK (R198): a drain acknowledgement reaches the core and frees the entry. -/
  | privStoreAck
  /-- READ_SERVE (R199): a crystalliser serves a read of a PRIV or CODE page. -/
  | readServe
  /-- COMBINE_MERGE (R227): a request arriving at a router merges into a matching held entry. -/
  | combineMerge
  /-- COMBINE_HOLD_END (R226): a held join leaves the combining buffer when its 16-cycle hold ends or room is needed. -/
  | combineHoldEnd
  /-- JOIN_APPLY (R210): the home applies a join or ONCE set to a lattice location. -/
  | joinApply
  /-- FILL_APPLY (R246): the home applies a FILL write to the units of FILL tiles. -/
  | fillApply
  /-- WAIT_SERVE (R215): the home evaluates a wait and completes it or gives it a waiter entry. -/
  | waitServe
  /-- FREEZE_APPLY (R216): the home sets a frame's freeze bit and re-evaluates its waiters. -/
  | freezeApply
  /-- EXACT_READ_SERVE (R218): the home serves an exact read or returns XNF or FILLC. -/
  | exactReadServe
  /-- SCHED_APPLY (R251): the home applies FADDB or INCW to a scheduling counter and returns the old value. -/
  | schedApply
  /-- DRAM_LINE_FILL (R221): a missing line arrives from DRAM and its waiting requests are served. -/
  | dramLineFill
  /-- OVERFLOW_CHAIN_READ (R220): the last overflow record of a changed location arrives and its wakes are sent. -/
  | overflowChainRead
  /-- FAULT_QUEUE_REPAIR (R223): a parked request is served again once its memory repair completes. -/
  | faultQueueRepair
  /-- FRAME_REASSIGN (R297): the home finishes rewriting a reassigned frame and completes its waiters. -/
  | frameReassign
  /-- SCRUB (R370): a crystalliser scrubs one DRAM row on schedule. -/
  | scrub
  /-- GENB_APPLY (R294): after the drain reports, the new generation reaches every home and core. -/
  | genbApply
  /-- SYSTEM_OP_COMPLETE (R289): a table, TLBI or GENB operation completes and the head context unparks. -/
  | systemOpComplete
  /-- TILE_OP_BEGIN (R173): the operation at the head of the engine FIFO begins and reads its sources. -/
  | tileOpBegin
  /-- TILE_OP_COMPLETE (R173): a tile operation ends and its destination becomes FULL. -/
  | tileOpComplete
  /-- COPY_COMMAND_BEGIN (R257): the next copy command in the queue begins reading runs. -/
  | copyCommandBegin
  /-- COPY_RUN (R257): the copy engine reads and writes one run, faulting if its page check fails. -/
  | copyRun
  /-- COPY_COMMAND_COMPLETE (R257): the last write is accepted and the completion join and gN follow. -/
  | copyCommandComplete
  /-- STREAM_FLIT_FORWARD (R299): a router forwards a stream flit under its stream entry's current set. -/
  | streamFlitForward
  /-- STREAM_COMBINE (R299): a combine set joins one flit from every input port and sends one flit. -/
  | streamCombine
  /-- MARKER_STEP (R300): kind-0 markers on every input port step the stream entry's current set. -/
  | markerStep
  /-- CONTINUATION_DEPART (R274): a departing thread's continuation leaves once its registers and requests are settled. -/
  | continuationDepart
  /-- CONTINUATION_ARRIVAL (R277): the destination takes a whole continuation into its arrival queue or refuses it. -/
  | continuationArrival
  /-- CONTINUATION_PLACE (R261): the core places the oldest fitting continuation in a vacant context. -/
  | continuationPlace
  /-- CONTINUATION_ACCEPT (R277): the acceptance reaches the origin, whose context becomes vacant. -/
  | continuationAccept
  /-- CONTINUATION_REFUSAL (R278): a refusal reaches the origin, latching the context or scheduling a retry. -/
  | continuationRefusal
  /-- CONTINUATION_RETRY (R278): a refused continuation is sent again after 64 rotations. -/
  | continuationRetry
  /-- SEND_ARRIVAL (R271): a SEND word reaches the destination mailbox, is discarded, or is refused. -/
  | sendArrival
  /-- SEND_REFUSAL (R272): a refusal of a SEND reaches the sender's core. -/
  | sendRefusal
  /-- SEND_RETRY (R272): a refused SEND is sent again after 64 rotations. -/
  | sendRetry
  /-- DELEGATION_ARRIVAL (R283): a delegation request enters the owner's delegation queue or is refused. -/
  | delegationArrival
  /-- DELEGATION_REFUSAL (R283): a refusal of a delegation request reaches the requester. -/
  | delegationRefusal
  /-- DELEGATION_RETRY (R283): a refused delegation request is sent again after 64 rotations. -/
  | delegationRetry
  /-- DELEGATION_BEGIN (R284): the head context takes the oldest request and runs its routine. -/
  | delegationBegin
  /-- DCALL_REPLY (R285): the DRET reply reaches the requester and fills gN. -/
  | dcallReply
  /-- ROUTINE_FAULT_REPLY (R286): a routine's fault reaches the requester as a deferred fault. -/
  | routineFaultReply
  /-- SPAWN_ARRIVAL (R345): a spawn entry enters the target's spawn queue or is refused. -/
  | spawnArrival
  /-- SPAWN_REFUSAL (R345): a spawn refusal reaches the sender. -/
  | spawnRefusal
  /-- SPAWN_RESEND (R345): a refused spawn entry is sent again after 64 rotations. -/
  | spawnResend
  /-- EXIT_MESSAGE_DEPART (R350): an exiting context with no outstanding requests sends its exit message and becomes vacant. -/
  | exitMessageDepart
  /-- EXIT_MESSAGE_APPLY (R350): the merge-area owner stores the exit value and increments the exit count. -/
  | exitMessageApply
  /-- BINIT_TAKE_EFFECT (R316): bINIT reaches every member core and resets the barrier object. -/
  | binitTakeEffect
  /-- BARRIER_ARRIVAL_DEPART (R322): an arrival message leaves once its release acceptances have returned. -/
  | barrierArrivalDepart
  /-- PHASE_COMPLETE (R320): a phase completes at the barrier root when arrivals equal the expected count. -/
  | phaseComplete
  /-- PHASE_COMPLETION_ARRIVE (R323): a phase completion reaches member cores, waking BWTs and held arrivals. -/
  | phaseCompletionArrive
  /-- ECOMB_ADD (R325): the root adds an ECOMB's counter values into a phase record. -/
  | ecombAdd
  /-- HEARTBEAT_MISS (R329): a heartbeat timer reaches its limit; the core is fenced and neighbours get HBMISS. -/
  | heartbeatMiss
  /-- WATCHDOG_PREEMPT (R330): the watchdog's first limit requests a gang switch of the launch. -/
  | watchdogPreempt
  /-- WATCHDOG_KILL (R330): the watchdog's second limit kills every context of the launch. -/
  | watchdogKill
  /-- WATCHDOG_FENCE (R330): the watchdog's third limit fences the partition. -/
  | watchdogFence
  /-- ENERGY_WINDOW_START (R327): a new energy window sets erem to ebud and advances ewin. -/
  | energyWindowStart
  /-- ENERGY_EPOCH_END (R327): each 250-cycle epoch subtracts the metered energy from erem. -/
  | energyEpochEnd
  /-- DIGEST_SNAPSHOT (R332): every 1,024 cycles the die sums the digest slots for DIGR. -/
  | digestSnapshot
  /-- QUIESCENCE_SUM (R374): every 1,024 cycles a service core gathers the partition's activity sums. -/
  | quiescenceSum
  /-- POD_SUMS (R377): a package's sums reach the pod coordinator, which compares them. -/
  | podSums
  /-- QUIESCENCE_FOUND (R375): at quiescence the service core freezes ranges, ends the launch, or reports DEADLK. -/
  | quiescenceFound
  /-- LAUNCH_START (R343): a service core starts the best waiting launch record whose partition and a digest slot are free. -/
  | launchStart
  /-- LAUNCH_END (R344): the service core kills remaining contexts, gathers the digest and writes the status record. -/
  | launchEnd
  /-- TWIN_COMPARE (R368): once both twin copies end, outcomes and digests are compared and copy A committed or ORDER/SDC reported. -/
  | twinCompare
  /-- FENCE (R369): a rectangle or core is fenced and its cores reset. -/
  | fence
  /-- GANG_STOP (R371): the halt tree stops issue across a partition. -/
  | gangStop
  /-- GANG_STOP_RESUME (R371): issue resumes on every core at an agreed tbase. -/
  | gangStopResume
  /-- GANG_SWITCH_REQUEST (R372): the service core sets and broadcasts the switch timestamp T. -/
  | gangSwitchRequest
  /-- GANG_SWITCH (R372): at T issue stops, blocks are discarded and flits spill to the rings. -/
  | gangSwitch
  /-- SWITCH_IMAGE_WRITE (R372): from T + 1,096 each core writes its image to the save area. -/
  | switchImageWrite
  /-- RESUME (R373): every core restores its image and routers re-inject their spill rings. -/
  | resume
  /-- TRACE_SAMPLE (R334): each sample interval a core emits a sample record for one context. -/
  | traceSample
  /-- TRACE_FRAME_WRITE (R337): the compressor completes a trace frame and writes or drops it. -/
  | traceFrameWrite
  /-- CXL_MEM_WRITE (R380): a host CXL.mem write of a line is applied at its frame's home. -/
  | cxlMemWrite
  /-- CXL_MEM_READ (R380): a host CXL.mem read returns current values or poison. -/
  | cxlMemRead
  /-- SUBMIT_LAUNCH_RECORD (R341): mailbox command 0xC000 enqueues or refuses a launch record. -/
  | submitLaunchRecord
  /-- READ_STATUS_RECORD (R383): mailbox command 0xC001 returns a launch's status record. -/
  | readStatusRecord
  /-- MANAGEMENT_READ (R383): mailbox command 0xC002 reads a management register. -/
  | managementRead
  /-- MANAGEMENT_WRITE (R383): mailbox command 0xC002 writes trace control, port map or other management state. -/
  | managementWrite
  /-- BRING_UP_REPORT (R392): mailbox command 0xC003 returns the first bring-up failure. -/
  | bringUpReport
  /-- HOST_ERROR_LOG (R383): mailbox command 0xC004 returns the host error log. -/
  | hostErrorLog
  /-- BOUNDARY_SCAN (R383): the IEEE 1149.1 port drives boundary scan or the halt tree. -/
  | boundaryScan
  /-- CODEWORD (R385): a Brineline codeword is received, accepted in sequence or discarded with a nak. -/
  | codeword
  /-- NAK (R385): a nak makes the sender resend from the named codeword. -/
  | nak
  /-- TIME_SYNC (R388): a time-sync message sets or monitors the package timebase offset. -/
  | timeSync
  /-- TIME_SYNC_INTERVAL (R388): every 2^20 cycles each link sends a time-sync message. -/
  | timeSyncInterval
  /-- CAPABILITY (R389): a switch's capability message declares its forwarding, hold and barrier times. -/
  | capability
  /-- PORT_DOWN (R387): replay fails for 4,096 cycles and retraining fails, so the port goes down. -/
  | portDown
  /-- POWER_UP (R391): power-up runs the bring-up checks and releases cores from reset. -/
  | powerUp
  /-- CXL_RESET (R392): a CXL reset leaves the safe state and restarts the device. -/
  | cxlReset
  /-- GANG_SWITCH_COMPLETE (R372): the gang switch completes when every core image and spill ring has been written and acknowledged, leaving the launch switched out. -/
  | gangSwitchComplete
  /-- RETRAINING (R387): a Brineline port ends the retraining it began after a failed 4,096-cycle replay, and the link is back in service. -/
  | retraining
deriving DecidableEq, Repr, Inhabited

end Sys2Proof
end

