-- ==== Sys2Proof/WellFormed.lean ====
section
/-!
DEFINITION. Which terms of the syntax are instructions and events: the field values that the opcode rows
list (R63 step 2, R40, R64 to R75), and units that the package has (R11 to R13). A word whose fields break a
check is no instruction: it raises ILLEG at fetch.
-/

namespace Sys2Proof.Machine

/-- The format set F of R69. -/
def Fmt.isFloat : Fmt → Bool
  | .f32 | .bf16 | .f16 => true
  | .bfx8 | .i32 | .i16 | .i8 | .bfx4 => false

/-- The format set I of R69. -/
def Fmt.isInt : Fmt → Bool
  | .i32 | .i16 | .i8 => true
  | .f32 | .bf16 | .f16 | .bfx8 | .bfx4 => false

/-- The format set N of R69. -/
def Fmt.isNumeric (f : Fmt) : Bool := f.isFloat || f.isInt

/-- The register numbers of a file (R40, R79). -/
def RegFile.holds (f : RegFile) (r : Nat) : Bool :=
  match f with
  | .gr => decide (r < 64)
  | .pr => decide (r < 8)
  | .vr => decide (r < 16)
  | .ox => decide (r < 8)

/-- The control numbers that R90 assigns. -/
def ctlAssigned (n : Nat) : Bool :=
  decide (n ≤ 0x00C) || (decide (0x010 ≤ n) && decide (n ≤ 0x013)) || (decide (0x020 ≤ n) && decide (n ≤ 0x043))
    || (decide (0x100 ≤ n) && decide (n ≤ 0x140)) || (decide (0x150 ≤ n) && decide (n ≤ 0x160))
    || (decide (0x180 ≤ n) && decide (n ≤ 0x182))

/-- The key names a compute core or a service core of some package (R11, R12). -/
def coreOk (c : Nat) : Bool := decide (c < 256 * 32768) && decide (c % 32768 < 26116)

/-- The key names a crystalliser of some package (R13). -/
def homeOk (h : Nat) : Bool := decide (h < 256 * 2048) && decide (h % 2048 < 1536)

/-- A service core exists (R12). -/
def svcOk (c : Nat) : Bool := coreOk c && decide (26112 ≤ c % 32768)
/-- A 64-byte line of the HDM range of 2,304 GiB (R380). -/
def lineOk (off : Nat) : Bool := off % 64 == 0 && decide (off < 2304 * 2 ^ 30)
/-- A home that serves reads and stores: a crystalliser, or the service core of a host page (R197, R199, R236). -/
def servesAt (h : Nat) : Bool := homeOk h || (decide (2 ^ 24 ≤ h) && coreOk (h - 2 ^ 24) && decide (26112 ≤ (h - 2 ^ 24) % 32768))

/-- The key names a die of some package (R11). -/
def dieOk (d : Nat) : Bool := decide (d < 256 * 32) && decide (d % 32 < 24)

end Sys2Proof.Machine

namespace Sys2Proof

open Sys2Proof.Machine

/-- The field checks of an instruction's row. -/
def Instr.wf : Instr → Bool
  | .movh pm _ => pm != .ternary
  | .noth pm _ => pm != .ternary
  | .negh pm _ => pm != .ternary
  | .inch pm _ => pm != .ternary
  | .dech pm _ => pm != .ternary
  | .nullh pm _ => pm != .ternary
  | .teqz pm _ => pm != .ternary
  | .tnez pm _ => pm != .ternary
  | .tltz pm _ => pm != .ternary
  | .tgez pm _ => pm != .ternary
  | .sxb pm _ => pm != .ternary
  | .sxh pm _ => pm != .ternary
  | .sxw pm _ => pm != .ternary
  | .zxb pm _ => pm != .ternary
  | .zxh pm _ => pm != .ternary
  | .zxw pm _ => pm != .ternary
  | .hbtH pm => pm != .ternary
  | .popn pm _ => pm != .ternary
  | .pope pm _ => pm != .ternary
  | .pops pm _ => pm != .ternary
  | .popw pm _ => pm != .ternary
  | .reth pm => pm != .ternary
  | .rd cls r _ _ => cls.holds r.toNat
  | .rdt cls r _ _ => cls.holds r.toNat
  | .wr cls r => cls.holds r.toNat
  | .movi pm _ _ => pm != .ternary
  | .movhi pm _ _ => pm != .ternary
  | .br pm _ => pm != .ternary
  | .bri pm => pm != .ternary
  | .call pm _ => pm != .ternary
  | .calli pm => pm != .ternary
  | .ret pm => pm != .ternary
  | .null pm _ _ _ => pm != .ternary
  | .sel _ _ => true
  | .mov pm _ _ => pm != .ternary
  | .add pm _ _ _ => pm != .ternary
  | .sub pm _ _ _ => pm != .ternary
  | .and pm _ _ _ => pm != .ternary
  | .or pm _ _ _ => pm != .ternary
  | .xor pm _ _ _ => pm != .ternary
  | .andn pm _ _ _ => pm != .ternary
  | .shl pm _ _ _ => pm != .ternary
  | .shr pm _ _ _ => pm != .ternary
  | .sra pm _ _ _ => pm != .ternary
  | .rot pm _ _ _ => pm != .ternary
  | .min pm _ _ _ => pm != .ternary
  | .max pm _ _ _ => pm != .ternary
  | .minu pm _ _ _ => pm != .ternary
  | .maxu pm _ _ _ => pm != .ternary
  | .addi pm _ _ => pm != .ternary
  | .andi pm _ _ => pm != .ternary
  | .ori pm _ _ => pm != .ternary
  | .xori pm _ _ => pm != .ternary
  | .shli pm _ _ => pm != .ternary
  | .shri pm _ _ => pm != .ternary
  | .srai pm _ _ => pm != .ternary
  | .mul pm _ _ _ => pm != .ternary
  | .mulh pm _ _ _ => pm != .ternary
  | .mulhu pm _ _ _ => pm != .ternary
  | .div pm _ _ _ => pm != .ternary
  | .divu pm _ _ _ => pm != .ternary
  | .rem pm _ _ _ => pm != .ternary
  | .remu pm _ _ _ => pm != .ternary
  | .clz pm _ _ _ => pm != .ternary
  | .ctz pm _ _ _ => pm != .ternary
  | .popc pm _ _ _ => pm != .ternary
  | .sextB pm _ _ => pm != .ternary
  | .sextH pm _ _ => pm != .ternary
  | .sextW pm _ _ => pm != .ternary
  | .zextB pm _ _ => pm != .ternary
  | .zextH pm _ _ => pm != .ternary
  | .zextW pm _ _ => pm != .ternary
  | .bswap pm _ _ _ => pm != .ternary
  | .not pm _ _ _ => pm != .ternary
  | .neg pm _ _ _ => pm != .ternary
  | .teq pm _ _ _ => pm != .ternary
  | .tne pm _ _ _ => pm != .ternary
  | .tlt pm _ _ _ => pm != .ternary
  | .tltu pm _ _ _ => pm != .ternary
  | .tle pm _ _ _ => pm != .ternary
  | .tleu pm _ _ _ => pm != .ternary
  | .tlti pm _ _ => pm != .ternary
  | .teqi pm _ _ => pm != .ternary
  | .lea pm _ _ _ => pm != .ternary
  | .mix pm _ _ => pm != .ternary
  | .vadd pm f _ _ => pm != .ternary && f.isNumeric
  | .vsub pm f _ _ => pm != .ternary && f.isNumeric
  | .vmul pm f _ _ => pm != .ternary && f.isNumeric
  | .vfma f _ _ => f.isFloat
  | .vfnma f _ _ => f.isFloat
  | .vmin pm f _ _ => pm != .ternary && f.isNumeric
  | .vmax pm f _ _ => pm != .ternary && f.isNumeric
  | .vabs pm f _ _ => pm != .ternary && f.isNumeric
  | .vneg pm f _ _ => pm != .ternary && f.isNumeric
  | .vdiv pm f _ _ => pm != .ternary && f.isFloat
  | .vsqrt pm f _ _ => pm != .ternary && f.isFloat
  | .vrcp pm f _ _ => pm != .ternary && f.isFloat
  | .vrsq pm f _ _ => pm != .ternary && f.isFloat
  | .vexp2 pm f _ _ => pm != .ternary && f.isFloat
  | .vlog2 pm f _ _ => pm != .ternary && f.isFloat
  | .vcmp pm c f _ _ => pm != .ternary && f.isNumeric && (decide (c.toNat < 6) || f.isFloat)
  | .vand pm _ _ => pm != .ternary
  | .vor pm _ _ => pm != .ternary
  | .vxor pm _ _ => pm != .ternary
  | .vandn pm _ _ => pm != .ternary
  | .vshl pm f _ _ => pm != .ternary && f.isInt
  | .vshr pm f _ _ => pm != .ternary && f.isInt
  | .vsra pm f _ _ => pm != .ternary && f.isInt
  | .vrng pm _ _ => pm != .ternary
  | .vdot4 k _ _ => k != 3
  | .vsel _ _ => true
  | .vbcast pm f _ _ => pm != .ternary && f.isNumeric
  | .vextr pm f _ _ => pm != .ternary && f.isNumeric
  | .vins f _ _ => f.isNumeric
  | .vperm pm _ _ => pm != .ternary
  | .vslide pm _ _ _ _ => pm != .ternary
  | .vred pm o f _ _ => pm != .ternary && f.isNumeric && decide (o.toNat < 5) && (decide (o.toNat < 3) || f.isInt)
  | .vcvt pm fd fs _ _ => pm != .ternary && fd.isNumeric && fs.isNumeric && fd != fs
  | .vqshr _ _ => true
  | .vfkey pm _ _ _ => pm != .ternary
  | .qbfx pm _ _ _ => pm != .ternary
  | .dqbfx pm _ _ _ => pm != .ternary
  | .tld pm _ => pm != .ternary
  | .tst pm _ => pm != .ternary
  | .tzero pm _ => pm != .ternary
  | .tmma pm _ _ _ acc => pm != .ternary && acc != 3
  | .tmmas pm _ _ _ acc => pm != .ternary && acc != 3
  | .tmmac pm _ _ _ acc => pm != .ternary && acc != 3
  | .tckv pm _ g => pm != .ternary && g != 0
  | .tadd pm _ _ _ => pm != .ternary
  | .tcvt pm _ _ => pm != .ternary
  | .ttrn pm _ _ => pm != .ternary
  | .trow pm _ _ => pm != .ternary
  | .tins pm _ => pm != .ternary
  | .ld pm _ _ _ _ _ => pm != .ternary
  | .ldw pm _ _ _ _ _ => pm != .ternary
  | .st pm _ _ _ _ => pm != .ternary
  | .vld pm _ size _ _ _ => pm != .ternary && size != 3
  | .vst pm _ size flag _ => size != 3 && ((size == 0 && pm != .ternary) || (size != 0 && pm == .ternary && !flag))
  | .join pm _ _ _ _ => pm != .ternary
  | .vjoin pm _ _ _ _ => pm != .ternary
  | .waitt pm g c => pm != .ternary && g != 0 && decide (c.toNat < 5)
  | .xld pm _ _ _ _ => pm != .ternary
  | .vxld pm _ _ _ _ => pm != .ternary
  | .freeze pm => pm != .ternary
  | .frzq pm => pm != .ternary
  | .faddb g => g != 0
  | .incw pm g => pm != .ternary && g != 0
  | .fillD pm _ _ => pm != .ternary
  | .fillV pm _ _ => pm != .ternary
  | .cpy pm _ => pm != .ternary
  | .cpyw pm _ => pm != .ternary
  | .pop pm _ _ _ => pm != .ternary
  | .popMb pm _ _ => pm != .ternary
  | .qstat pm fn _ => pm != .ternary && decide (fn.toNat < 11)
  | .send pm => pm != .ternary
  | .strm pm => pm != .ternary
  | .mark pm => pm != .ternary
  | .mig pm => pm != .ternary
  | .deleg pm => pm != .ternary
  | .dcall pm g => pm != .ternary && g != 0
  | .dret pm => pm != .ternary
  | .binit pm => pm != .ternary
  | .arv pm => pm != .ternary
  | .arvd pm => pm != .ternary
  | .bwt pm => pm != .ternary
  | .rcnt pm _ => pm != .ternary
  | .wcnt pm => pm != .ternary
  | .ecomb pm => pm != .ternary
  | .hbt pm => pm != .ternary
  | .trmk pm => pm != .ternary
  | .digr pm _ => pm != .ternary
  | .rctl pm cn _ => pm != .ternary && ctlAssigned cn.toNat
  | .wctl pm cn => pm != .ternary && ctlAssigned cn.toNat
  | .sctl pm cn => pm != .ternary && ctlAssigned cn.toNat
  | .cctl pm cn => pm != .ternary && ctlAssigned cn.toNat
  | .fork pm _ => pm != .ternary
  | .merge pm g => pm != .ternary && g != 0
  | .exit pm => pm != .ternary
  | .retain pm => pm != .ternary
  | .start pm => pm != .ternary
  | .startComm pm => pm != .ternary
  | .reapDump pm => pm != .ternary
  | .reapTrap pm => pm != .ternary
  | .kill pm => pm != .ternary
  | .ackf pm => pm != .ternary
  | .eret pm => pm != .ternary
  | .tlbi pm => pm != .ternary
  | .genb pm => pm != .ternary
  | .tblwTranslation pm => pm != .ternary
  | .tblwAsidRoot pm => pm != .ternary
  | .tblwStreamEntry pm => pm != .ternary
  | .tblwContainment pm => pm != .ternary
  | .tblwFormatWindow pm => pm != .ternary
  | .tblwBreakpoint pm => pm != .ternary
  | .tblwCorrectionHistory pm => pm != .ternary
  | .tblwFrameState pm => pm != .ternary
  | .gstop pm => pm != .ternary
  | .gstopResume pm => pm != .ternary
  | .gsw pm => pm != .ternary
  | .trap pm _ => pm != .ternary
  | .seinjWrite => true
  | .ebudWrite => true
  | .hbiWrite => true
  | .tomWrite => true
  | .blockFetch => true
  | .blockCacheFill => true
  | .translationWalk => true
  | .blockCommit => true
  | .blockStarved => true
  | .rotationAccounting => true
  | .producerCompletion => true
  | .loadResult => true
  | .acceptance => true
  | .deferredFault => true
  | .trapRecordQueued => true
  | .trapHandlerEntry => true
  | .taskAdmission => true
  | .privStoreDrain => true
  | .privStoreApply => true
  | .privStoreAck => true
  | .readServe => true
  | .combineMerge => true
  | .combineHoldEnd => true
  | .joinApply => true
  | .fillApply => true
  | .waitServe => true
  | .freezeApply => true
  | .exactReadServe => true
  | .schedApply => true
  | .dramLineFill => true
  | .overflowChainRead => true
  | .faultQueueRepair => true
  | .frameReassign => true
  | .scrub => true
  | .genbApply => true
  | .systemOpComplete => true
  | .tileOpBegin => true
  | .tileOpComplete => true
  | .copyCommandBegin => true
  | .copyRun => true
  | .copyCommandComplete => true
  | .streamFlitForward => true
  | .streamCombine => true
  | .markerStep => true
  | .continuationDepart => true
  | .continuationArrival => true
  | .continuationPlace => true
  | .continuationAccept => true
  | .continuationRefusal => true
  | .continuationRetry => true
  | .sendArrival => true
  | .sendRefusal => true
  | .sendRetry => true
  | .delegationArrival => true
  | .delegationRefusal => true
  | .delegationRetry => true
  | .delegationBegin => true
  | .dcallReply => true
  | .routineFaultReply => true
  | .spawnArrival => true
  | .spawnRefusal => true
  | .spawnResend => true
  | .exitMessageDepart => true
  | .exitMessageApply => true
  | .binitTakeEffect => true
  | .barrierArrivalDepart => true
  | .phaseComplete => true
  | .phaseCompletionArrive => true
  | .ecombAdd => true
  | .heartbeatMiss => true
  | .watchdogPreempt => true
  | .watchdogKill => true
  | .watchdogFence => true
  | .energyWindowStart => true
  | .energyEpochEnd => true
  | .digestSnapshot => true
  | .quiescenceSum => true
  | .podSums => true
  | .quiescenceFound => true
  | .launchStart => true
  | .launchEnd => true
  | .twinCompare => true
  | .fence => true
  | .gangStop => true
  | .gangStopResume => true
  | .gangSwitchRequest => true
  | .gangSwitch => true
  | .switchImageWrite => true
  | .resume => true
  | .traceSample => true
  | .traceFrameWrite => true
  | .cxlMemWrite => true
  | .cxlMemRead => true
  | .submitLaunchRecord => true
  | .readStatusRecord => true
  | .managementRead => true
  | .managementWrite => true
  | .bringUpReport => true
  | .hostErrorLog => true
  | .boundaryScan => true
  | .codeword => true
  | .nak => true
  | .timeSync => true
  | .timeSyncInterval => true
  | .capability => true
  | .portDown => true
  | .powerUp => true
  | .cxlReset => true
  | .gangSwitchComplete => true
  | .retraining => true

/-- The units an event names exist (R11 to R13). -/
def Machine.Event.wf : Event → Bool
  | .seinjWrite c _ => coreOk c
  | .ebudWrite d _ => dieOk d
  | .hbiWrite c _ => coreOk c
  | .tomWrite c _ => coreOk c
  | .blockFetch c x => coreOk c && decide (x < 17)
  | .blockCacheFill c _ _ _ _ => coreOk c
  | .translationWalk c x _ _ _ _ _ => coreOk c && decide (x < 17)
  | .blockCommit c x => coreOk c && decide (x < 17)
  | .blockStarved c x => coreOk c && decide (x < 17)
  | .rotationAccounting => true
  | .producerCompletion c x _ _ _ _ _ => coreOk c && decide (x < 17)
  | .loadResult c x _ _ _ _ _ => coreOk c && decide (x < 17)
  | .acceptance _ _ => true
  | .deferredFault _ _ _ _ => true
  | .trapRecordQueued c x => coreOk c && decide (x < 17)
  | .trapHandlerEntry c => coreOk c
  | .taskAdmission c => coreOk c
  | .privStoreDrain c => coreOk c
  | .privStoreApply h _ => servesAt h
  | .privStoreAck c _ => coreOk c
  | .readServe h _ => servesAt h
  | .combineMerge router h _ => coreOk router && homeOk h
  | .combineHoldEnd router _ => coreOk router
  | .joinApply h _ => homeOk h
  | .fillApply h _ => homeOk h
  | .waitServe h _ => homeOk h
  | .freezeApply h _ => homeOk h
  | .exactReadServe h _ => homeOk h
  | .schedApply h _ => homeOk h
  | .dramLineFill h _ => homeOk h
  | .overflowChainRead h _ _ => homeOk h
  | .faultQueueRepair h => homeOk h
  | .frameReassign h _ _ => homeOk h
  | .scrub h _ _ _ => homeOk h
  | .genbApply pkg _ => decide (pkg < 256)
  | .systemOpComplete c => coreOk c
  | .tileOpBegin c => coreOk c
  | .tileOpComplete c => coreOk c
  | .copyCommandBegin c => coreOk c
  | .copyRun c => coreOk c
  | .copyCommandComplete c => coreOk c
  | .streamFlitForward router port _ => coreOk router && decide (port < 20)
  | .streamCombine router _ => coreOk router
  | .markerStep router _ => coreOk router
  | .continuationDepart c x => coreOk c && decide (x < 17)
  | .continuationArrival _ => true
  | .continuationPlace c => coreOk c
  | .continuationAccept c x => coreOk c && decide (x < 17)
  | .continuationRefusal c x _ _ => coreOk c && decide (x < 17)
  | .continuationRetry c x => coreOk c && decide (x < 17)
  | .sendArrival _ => true
  | .sendRefusal _ _ => true
  | .sendRetry _ => true
  | .delegationArrival _ => true
  | .delegationRefusal _ _ => true
  | .delegationRetry _ => true
  | .delegationBegin c => coreOk c
  | .dcallReply c x _ _ => coreOk c && decide (x < 17)
  | .routineFaultReply _ _ => true
  | .spawnArrival c _ => coreOk c
  | .spawnRefusal c _ => coreOk c
  | .spawnResend c _ => coreOk c
  | .exitMessageDepart c x => coreOk c && decide (x < 17)
  | .exitMessageApply _ => true
  | .binitTakeEffect _ _ _ c x => coreOk c && decide (x < 17)
  | .barrierArrivalDepart _ c _ _ _ => coreOk c
  | .phaseComplete _ => true
  | .phaseCompletionArrive _ _ => true
  | .ecombAdd _ _ _ => true
  | .heartbeatMiss c => coreOk c
  | .watchdogPreempt pkg _ => decide (pkg < 256)
  | .watchdogKill pkg _ => decide (pkg < 256)
  | .watchdogFence pkg _ => decide (pkg < 256)
  | .energyWindowStart d => dieOk d
  | .energyEpochEnd d => dieOk d
  | .digestSnapshot d => dieOk d
  | .quiescenceSum pkg _ => decide (pkg < 256)
  | .podSums _ pkg _ => decide (pkg < 256)
  | .quiescenceFound pkg _ => decide (pkg < 256)
  | .launchStart pkg => decide (pkg < 256)
  | .launchEnd pkg _ _ => decide (pkg < 256)
  | .twinCompare pkg _ => decide (pkg < 256)
  | .fence pkg _ _ => decide (pkg < 256)
  | .gangStop pkg _ => decide (pkg < 256)
  | .gangStopResume pkg _ => decide (pkg < 256)
  | .gangSwitchRequest pkg _ => decide (pkg < 256)
  | .gangSwitch pkg _ => decide (pkg < 256)
  | .switchImageWrite c _ => coreOk c
  | .resume pkg _ => decide (pkg < 256)
  | .traceSample c => coreOk c
  | .traceFrameWrite d => dieOk d
  | .cxlMemWrite svc off bs => svcOk svc && lineOk off && decide (bs.length = 64)
  | .cxlMemRead svc off => svcOk svc && lineOk off
  | .submitLaunchRecord svc _ _ => svcOk svc
  | .readStatusRecord svc _ => svcOk svc
  | .managementRead svc _ _ => svcOk svc
  | .managementWrite svc _ _ _ => svcOk svc
  | .bringUpReport svc => svcOk svc
  | .hostErrorLog svc => svcOk svc
  | .boundaryScan pkg _ => decide (pkg < 256)
  | .codeword pkg port _ _ => decide (pkg < 256) && decide (port < 64)
  | .nak pkg port _ => decide (pkg < 256) && decide (port < 64)
  | .timeSync pkg port _ _ => decide (pkg < 256) && decide (port < 64)
  | .timeSyncInterval pkg port => decide (pkg < 256) && decide (port < 64)
  | .capability pkg port _ _ _ _ => decide (pkg < 256) && decide (port < 64)
  | .portDown pkg port => decide (pkg < 256) && decide (port < 64)
  | .powerUp pkg _ => decide (pkg < 256)
  | .cxlReset pkg => decide (pkg < 256)
  | .gangSwitchComplete pkg _ => decide (pkg < 256)
  | .retraining pkg port _ => decide (pkg < 256) && decide (port < 64)

/-- A well-formed instruction or event. -/
abbrev Instr.WellFormed (i : Instr) : Prop := i.wf = true

end Sys2Proof
end

