-- ==== Sys2Proof/Decode.lean ====
section
/-!
DEFINITION. The decoder and the encoder of instruction words (R37 to R41, R63 to R75). A halfword or a word
is a natural number whose bit 0 is the least significant bit of its first byte. Decoding takes the fields of
the row that the op5 or op7 and the fixed bits select, and then checks the field values; every other word is
refused with the fault of its fate (R63): ILLEG, or BLKFMT where R37 says so. The encoder stands after it.
-/

namespace Sys2Proof.Machine

/-- Predicate mode from its code (R43). -/
def Pm.ofCode : Nat → Pm
  | 0 => .always
  | 1 => .onTrue
  | 2 => .onFalse
  | _ => .ternary

/-- Code of a predicate mode. -/
def Pm.code : Pm → Nat
  | .always => 0
  | .onTrue => 1
  | .onFalse => 2
  | .ternary => 3

/-- Register file from the cls field (R40). -/
def RegFile.ofCode : Nat → RegFile
  | 0 => .gr
  | 1 => .pr
  | 2 => .vr
  | _ => .ox

/-- The cls field of a register file. -/
def RegFile.code : RegFile → Nat
  | .gr => 0
  | .pr => 1
  | .vr => 2
  | .ox => 3

/-- Width from fn[4] (R68). -/
def Wid.ofCode : Nat → Wid
  | 0 => .w32
  | _ => .w64

/-- Code of a width. -/
def Wid.code : Wid → Nat
  | .w32 => 0
  | .w64 => 1

/-- Format from its code (R69, R168). -/
def Fmt.ofCode : Nat → Fmt
  | 0 => .f32
  | 1 => .bf16
  | 2 => .f16
  | 3 => .bfx8
  | 4 => .i32
  | 5 => .i16
  | 6 => .i8
  | _ => .bfx4

/-- Code of a format. -/
def Fmt.code : Fmt → Nat
  | .f32 => 0
  | .bf16 => 1
  | .f16 => 2
  | .bfx8 => 3
  | .i32 => 4
  | .i16 => 5
  | .i8 => 6
  | .bfx4 => 7

/-- Direction from its code (R41, R73). -/
def Dir.ofCode : Nat → Dir
  | 0 => .north
  | 1 => .east
  | 2 => .south
  | _ => .west

/-- Code of a direction. -/
def Dir.code : Dir → Nat
  | .north => 0
  | .east => 1
  | .south => 2
  | .west => 3

end Sys2Proof.Machine

namespace Sys2Proof

open Sys2Proof.Machine

/-- The H-form halfwords, before the checks of field values (R38, R65). -/
def rawH (u : Nat) : Option Instr :=
  match bitsOf u 10 6 with
  | 1 => some (.movh (Pm.ofCode (bitsOf u 8 2)) (BitVec.ofNat 8 (bitsOf u 0 8)))
  | 2 => some (.noth (Pm.ofCode (bitsOf u 8 2)) (BitVec.ofNat 8 (bitsOf u 0 8)))
  | 3 => some (.negh (Pm.ofCode (bitsOf u 8 2)) (BitVec.ofNat 8 (bitsOf u 0 8)))
  | 4 => some (.inch (Pm.ofCode (bitsOf u 8 2)) (BitVec.ofNat 8 (bitsOf u 0 8)))
  | 5 => some (.dech (Pm.ofCode (bitsOf u 8 2)) (BitVec.ofNat 8 (bitsOf u 0 8)))
  | 6 => some (.nullh (Pm.ofCode (bitsOf u 8 2)) (BitVec.ofNat 8 (bitsOf u 0 8)))
  | 7 => some (.teqz (Pm.ofCode (bitsOf u 8 2)) (BitVec.ofNat 8 (bitsOf u 0 8)))
  | 8 => some (.tnez (Pm.ofCode (bitsOf u 8 2)) (BitVec.ofNat 8 (bitsOf u 0 8)))
  | 9 => some (.tltz (Pm.ofCode (bitsOf u 8 2)) (BitVec.ofNat 8 (bitsOf u 0 8)))
  | 10 => some (.tgez (Pm.ofCode (bitsOf u 8 2)) (BitVec.ofNat 8 (bitsOf u 0 8)))
  | 11 => some (.sxb (Pm.ofCode (bitsOf u 8 2)) (BitVec.ofNat 8 (bitsOf u 0 8)))
  | 12 => some (.sxh (Pm.ofCode (bitsOf u 8 2)) (BitVec.ofNat 8 (bitsOf u 0 8)))
  | 13 => some (.sxw (Pm.ofCode (bitsOf u 8 2)) (BitVec.ofNat 8 (bitsOf u 0 8)))
  | 14 => some (.zxb (Pm.ofCode (bitsOf u 8 2)) (BitVec.ofNat 8 (bitsOf u 0 8)))
  | 15 => some (.zxh (Pm.ofCode (bitsOf u 8 2)) (BitVec.ofNat 8 (bitsOf u 0 8)))
  | 16 => some (.zxw (Pm.ofCode (bitsOf u 8 2)) (BitVec.ofNat 8 (bitsOf u 0 8)))
  | 17 => if bitsOf u 0 8 = 0 then some (.hbtH (Pm.ofCode (bitsOf u 8 2))) else none
  | 18 => some (.popn (Pm.ofCode (bitsOf u 8 2)) (BitVec.ofNat 8 (bitsOf u 0 8)))
  | 19 => some (.pope (Pm.ofCode (bitsOf u 8 2)) (BitVec.ofNat 8 (bitsOf u 0 8)))
  | 20 => some (.pops (Pm.ofCode (bitsOf u 8 2)) (BitVec.ofNat 8 (bitsOf u 0 8)))
  | 21 => some (.popw (Pm.ofCode (bitsOf u 8 2)) (BitVec.ofNat 8 (bitsOf u 0 8)))
  | 22 => if bitsOf u 0 8 = 0 then some (.reth (Pm.ofCode (bitsOf u 8 2))) else none
  | _ => none

/-- The W-form words with op7 0x00 to 0x0F, before the checks of field values. -/
def rawControl (u : Nat) : Option Instr :=
  match bitsOf u 24 7 with
  | 0x00 => some (.rd (RegFile.ofCode (bitsOf u 22 2)) (BitVec.ofNat 6 (bitsOf u 16 6)) (BitVec.ofNat 8 (bitsOf u 8 8)) (BitVec.ofNat 8 (bitsOf u 0 8)))
  | 0x01 => some (.rdt (RegFile.ofCode (bitsOf u 22 2)) (BitVec.ofNat 6 (bitsOf u 16 6)) (BitVec.ofNat 8 (bitsOf u 8 8)) (BitVec.ofNat 8 (bitsOf u 0 8)))
  | 0x02 => if bitsOf u 0 16 = 0 then some (.wr (RegFile.ofCode (bitsOf u 22 2)) (BitVec.ofNat 6 (bitsOf u 16 6))) else none
  | 0x03 => some (.movi (Pm.ofCode (bitsOf u 22 2)) (BitVec.ofNat 14 (bitsOf u 8 14)) (BitVec.ofNat 8 (bitsOf u 0 8)))
  | 0x04 => some (.movhi (Pm.ofCode (bitsOf u 22 2)) (BitVec.ofNat 14 (bitsOf u 8 14)) (BitVec.ofNat 8 (bitsOf u 0 8)))
  | 0x05 => some (.br (Pm.ofCode (bitsOf u 22 2)) (BitVec.ofNat 22 (bitsOf u 0 22)))
  | 0x06 => if bitsOf u 0 22 = 0 then some (.bri (Pm.ofCode (bitsOf u 22 2))) else none
  | 0x07 => some (.call (Pm.ofCode (bitsOf u 22 2)) (BitVec.ofNat 22 (bitsOf u 0 22)))
  | 0x08 => if bitsOf u 0 22 = 0 then some (.calli (Pm.ofCode (bitsOf u 22 2))) else none
  | 0x09 => if bitsOf u 0 22 = 0 then some (.ret (Pm.ofCode (bitsOf u 22 2))) else none
  | 0x0A => if bitsOf u 17 5 = 0 then some (.null (Pm.ofCode (bitsOf u 22 2)) (bitOf u 16) (BitVec.ofNat 8 (bitsOf u 8 8)) (BitVec.ofNat 8 (bitsOf u 0 8))) else none
  | 0x0B => if bitsOf u 16 8 = 192 then some (.sel (BitVec.ofNat 8 (bitsOf u 8 8)) (BitVec.ofNat 8 (bitsOf u 0 8))) else none
  | 0x0C => if bitsOf u 16 6 = 0 then some (.mov (Pm.ofCode (bitsOf u 22 2)) (BitVec.ofNat 8 (bitsOf u 8 8)) (BitVec.ofNat 8 (bitsOf u 0 8))) else none
  | _ => none

/-- The W-form words with op7 0x10 to 0x2F, before the checks of field values. -/
def rawScalar (u : Nat) : Option Instr :=
  match bitsOf u 24 7 with
  | 0x10 => if bitsOf u 21 1 = 0 ∧ bitsOf u 16 4 = 0 then some (.add (Pm.ofCode (bitsOf u 22 2)) (Wid.ofCode (bitsOf u 20 1)) (BitVec.ofNat 8 (bitsOf u 8 8)) (BitVec.ofNat 8 (bitsOf u 0 8))) else
      if bitsOf u 21 1 = 0 ∧ bitsOf u 16 4 = 1 then some (.sub (Pm.ofCode (bitsOf u 22 2)) (Wid.ofCode (bitsOf u 20 1)) (BitVec.ofNat 8 (bitsOf u 8 8)) (BitVec.ofNat 8 (bitsOf u 0 8))) else
      if bitsOf u 21 1 = 0 ∧ bitsOf u 16 4 = 2 then some (.and (Pm.ofCode (bitsOf u 22 2)) (Wid.ofCode (bitsOf u 20 1)) (BitVec.ofNat 8 (bitsOf u 8 8)) (BitVec.ofNat 8 (bitsOf u 0 8))) else
      if bitsOf u 21 1 = 0 ∧ bitsOf u 16 4 = 3 then some (.or (Pm.ofCode (bitsOf u 22 2)) (Wid.ofCode (bitsOf u 20 1)) (BitVec.ofNat 8 (bitsOf u 8 8)) (BitVec.ofNat 8 (bitsOf u 0 8))) else
      if bitsOf u 21 1 = 0 ∧ bitsOf u 16 4 = 4 then some (.xor (Pm.ofCode (bitsOf u 22 2)) (Wid.ofCode (bitsOf u 20 1)) (BitVec.ofNat 8 (bitsOf u 8 8)) (BitVec.ofNat 8 (bitsOf u 0 8))) else
      if bitsOf u 21 1 = 0 ∧ bitsOf u 16 4 = 5 then some (.andn (Pm.ofCode (bitsOf u 22 2)) (Wid.ofCode (bitsOf u 20 1)) (BitVec.ofNat 8 (bitsOf u 8 8)) (BitVec.ofNat 8 (bitsOf u 0 8))) else
      if bitsOf u 21 1 = 0 ∧ bitsOf u 16 4 = 6 then some (.shl (Pm.ofCode (bitsOf u 22 2)) (Wid.ofCode (bitsOf u 20 1)) (BitVec.ofNat 8 (bitsOf u 8 8)) (BitVec.ofNat 8 (bitsOf u 0 8))) else
      if bitsOf u 21 1 = 0 ∧ bitsOf u 16 4 = 7 then some (.shr (Pm.ofCode (bitsOf u 22 2)) (Wid.ofCode (bitsOf u 20 1)) (BitVec.ofNat 8 (bitsOf u 8 8)) (BitVec.ofNat 8 (bitsOf u 0 8))) else
      if bitsOf u 21 1 = 0 ∧ bitsOf u 16 4 = 8 then some (.sra (Pm.ofCode (bitsOf u 22 2)) (Wid.ofCode (bitsOf u 20 1)) (BitVec.ofNat 8 (bitsOf u 8 8)) (BitVec.ofNat 8 (bitsOf u 0 8))) else
      if bitsOf u 21 1 = 0 ∧ bitsOf u 16 4 = 9 then some (.rot (Pm.ofCode (bitsOf u 22 2)) (Wid.ofCode (bitsOf u 20 1)) (BitVec.ofNat 8 (bitsOf u 8 8)) (BitVec.ofNat 8 (bitsOf u 0 8))) else
      if bitsOf u 21 1 = 0 ∧ bitsOf u 16 4 = 10 then some (.min (Pm.ofCode (bitsOf u 22 2)) (Wid.ofCode (bitsOf u 20 1)) (BitVec.ofNat 8 (bitsOf u 8 8)) (BitVec.ofNat 8 (bitsOf u 0 8))) else
      if bitsOf u 21 1 = 0 ∧ bitsOf u 16 4 = 11 then some (.max (Pm.ofCode (bitsOf u 22 2)) (Wid.ofCode (bitsOf u 20 1)) (BitVec.ofNat 8 (bitsOf u 8 8)) (BitVec.ofNat 8 (bitsOf u 0 8))) else
      if bitsOf u 21 1 = 0 ∧ bitsOf u 16 4 = 12 then some (.minu (Pm.ofCode (bitsOf u 22 2)) (Wid.ofCode (bitsOf u 20 1)) (BitVec.ofNat 8 (bitsOf u 8 8)) (BitVec.ofNat 8 (bitsOf u 0 8))) else
      if bitsOf u 21 1 = 0 ∧ bitsOf u 16 4 = 13 then some (.maxu (Pm.ofCode (bitsOf u 22 2)) (Wid.ofCode (bitsOf u 20 1)) (BitVec.ofNat 8 (bitsOf u 8 8)) (BitVec.ofNat 8 (bitsOf u 0 8))) else none
  | 0x11 => some (.addi (Pm.ofCode (bitsOf u 22 2)) (BitVec.ofNat 14 (bitsOf u 8 14)) (BitVec.ofNat 8 (bitsOf u 0 8)))
  | 0x12 => some (.andi (Pm.ofCode (bitsOf u 22 2)) (BitVec.ofNat 14 (bitsOf u 8 14)) (BitVec.ofNat 8 (bitsOf u 0 8)))
  | 0x13 => some (.ori (Pm.ofCode (bitsOf u 22 2)) (BitVec.ofNat 14 (bitsOf u 8 14)) (BitVec.ofNat 8 (bitsOf u 0 8)))
  | 0x14 => some (.xori (Pm.ofCode (bitsOf u 22 2)) (BitVec.ofNat 14 (bitsOf u 8 14)) (BitVec.ofNat 8 (bitsOf u 0 8)))
  | 0x15 => some (.shli (Pm.ofCode (bitsOf u 22 2)) (BitVec.ofNat 14 (bitsOf u 8 14)) (BitVec.ofNat 8 (bitsOf u 0 8)))
  | 0x16 => some (.shri (Pm.ofCode (bitsOf u 22 2)) (BitVec.ofNat 14 (bitsOf u 8 14)) (BitVec.ofNat 8 (bitsOf u 0 8)))
  | 0x17 => some (.srai (Pm.ofCode (bitsOf u 22 2)) (BitVec.ofNat 14 (bitsOf u 8 14)) (BitVec.ofNat 8 (bitsOf u 0 8)))
  | 0x18 => if bitsOf u 21 1 = 0 ∧ bitsOf u 16 4 = 0 then some (.mul (Pm.ofCode (bitsOf u 22 2)) (Wid.ofCode (bitsOf u 20 1)) (BitVec.ofNat 8 (bitsOf u 8 8)) (BitVec.ofNat 8 (bitsOf u 0 8))) else
      if bitsOf u 21 1 = 0 ∧ bitsOf u 16 4 = 1 then some (.mulh (Pm.ofCode (bitsOf u 22 2)) (Wid.ofCode (bitsOf u 20 1)) (BitVec.ofNat 8 (bitsOf u 8 8)) (BitVec.ofNat 8 (bitsOf u 0 8))) else
      if bitsOf u 21 1 = 0 ∧ bitsOf u 16 4 = 2 then some (.mulhu (Pm.ofCode (bitsOf u 22 2)) (Wid.ofCode (bitsOf u 20 1)) (BitVec.ofNat 8 (bitsOf u 8 8)) (BitVec.ofNat 8 (bitsOf u 0 8))) else
      if bitsOf u 21 1 = 0 ∧ bitsOf u 16 4 = 3 then some (.div (Pm.ofCode (bitsOf u 22 2)) (Wid.ofCode (bitsOf u 20 1)) (BitVec.ofNat 8 (bitsOf u 8 8)) (BitVec.ofNat 8 (bitsOf u 0 8))) else
      if bitsOf u 21 1 = 0 ∧ bitsOf u 16 4 = 4 then some (.divu (Pm.ofCode (bitsOf u 22 2)) (Wid.ofCode (bitsOf u 20 1)) (BitVec.ofNat 8 (bitsOf u 8 8)) (BitVec.ofNat 8 (bitsOf u 0 8))) else
      if bitsOf u 21 1 = 0 ∧ bitsOf u 16 4 = 5 then some (.rem (Pm.ofCode (bitsOf u 22 2)) (Wid.ofCode (bitsOf u 20 1)) (BitVec.ofNat 8 (bitsOf u 8 8)) (BitVec.ofNat 8 (bitsOf u 0 8))) else
      if bitsOf u 21 1 = 0 ∧ bitsOf u 16 4 = 6 then some (.remu (Pm.ofCode (bitsOf u 22 2)) (Wid.ofCode (bitsOf u 20 1)) (BitVec.ofNat 8 (bitsOf u 8 8)) (BitVec.ofNat 8 (bitsOf u 0 8))) else none
  | 0x19 => if bitsOf u 21 1 = 0 ∧ bitsOf u 16 4 = 0 then some (.clz (Pm.ofCode (bitsOf u 22 2)) (Wid.ofCode (bitsOf u 20 1)) (BitVec.ofNat 8 (bitsOf u 8 8)) (BitVec.ofNat 8 (bitsOf u 0 8))) else
      if bitsOf u 21 1 = 0 ∧ bitsOf u 16 4 = 1 then some (.ctz (Pm.ofCode (bitsOf u 22 2)) (Wid.ofCode (bitsOf u 20 1)) (BitVec.ofNat 8 (bitsOf u 8 8)) (BitVec.ofNat 8 (bitsOf u 0 8))) else
      if bitsOf u 21 1 = 0 ∧ bitsOf u 16 4 = 2 then some (.popc (Pm.ofCode (bitsOf u 22 2)) (Wid.ofCode (bitsOf u 20 1)) (BitVec.ofNat 8 (bitsOf u 8 8)) (BitVec.ofNat 8 (bitsOf u 0 8))) else
      if bitsOf u 16 6 = 19 then some (.sextB (Pm.ofCode (bitsOf u 22 2)) (BitVec.ofNat 8 (bitsOf u 8 8)) (BitVec.ofNat 8 (bitsOf u 0 8))) else
      if bitsOf u 16 6 = 20 then some (.sextH (Pm.ofCode (bitsOf u 22 2)) (BitVec.ofNat 8 (bitsOf u 8 8)) (BitVec.ofNat 8 (bitsOf u 0 8))) else
      if bitsOf u 16 6 = 21 then some (.sextW (Pm.ofCode (bitsOf u 22 2)) (BitVec.ofNat 8 (bitsOf u 8 8)) (BitVec.ofNat 8 (bitsOf u 0 8))) else
      if bitsOf u 16 6 = 22 then some (.zextB (Pm.ofCode (bitsOf u 22 2)) (BitVec.ofNat 8 (bitsOf u 8 8)) (BitVec.ofNat 8 (bitsOf u 0 8))) else
      if bitsOf u 16 6 = 23 then some (.zextH (Pm.ofCode (bitsOf u 22 2)) (BitVec.ofNat 8 (bitsOf u 8 8)) (BitVec.ofNat 8 (bitsOf u 0 8))) else
      if bitsOf u 16 6 = 24 then some (.zextW (Pm.ofCode (bitsOf u 22 2)) (BitVec.ofNat 8 (bitsOf u 8 8)) (BitVec.ofNat 8 (bitsOf u 0 8))) else
      if bitsOf u 21 1 = 0 ∧ bitsOf u 16 4 = 9 then some (.bswap (Pm.ofCode (bitsOf u 22 2)) (Wid.ofCode (bitsOf u 20 1)) (BitVec.ofNat 8 (bitsOf u 8 8)) (BitVec.ofNat 8 (bitsOf u 0 8))) else
      if bitsOf u 21 1 = 0 ∧ bitsOf u 16 4 = 10 then some (.not (Pm.ofCode (bitsOf u 22 2)) (Wid.ofCode (bitsOf u 20 1)) (BitVec.ofNat 8 (bitsOf u 8 8)) (BitVec.ofNat 8 (bitsOf u 0 8))) else
      if bitsOf u 21 1 = 0 ∧ bitsOf u 16 4 = 11 then some (.neg (Pm.ofCode (bitsOf u 22 2)) (Wid.ofCode (bitsOf u 20 1)) (BitVec.ofNat 8 (bitsOf u 8 8)) (BitVec.ofNat 8 (bitsOf u 0 8))) else none
  | 0x1A => if bitsOf u 21 1 = 0 ∧ bitsOf u 16 4 = 0 then some (.teq (Pm.ofCode (bitsOf u 22 2)) (Wid.ofCode (bitsOf u 20 1)) (BitVec.ofNat 8 (bitsOf u 8 8)) (BitVec.ofNat 8 (bitsOf u 0 8))) else
      if bitsOf u 21 1 = 0 ∧ bitsOf u 16 4 = 1 then some (.tne (Pm.ofCode (bitsOf u 22 2)) (Wid.ofCode (bitsOf u 20 1)) (BitVec.ofNat 8 (bitsOf u 8 8)) (BitVec.ofNat 8 (bitsOf u 0 8))) else
      if bitsOf u 21 1 = 0 ∧ bitsOf u 16 4 = 2 then some (.tlt (Pm.ofCode (bitsOf u 22 2)) (Wid.ofCode (bitsOf u 20 1)) (BitVec.ofNat 8 (bitsOf u 8 8)) (BitVec.ofNat 8 (bitsOf u 0 8))) else
      if bitsOf u 21 1 = 0 ∧ bitsOf u 16 4 = 3 then some (.tltu (Pm.ofCode (bitsOf u 22 2)) (Wid.ofCode (bitsOf u 20 1)) (BitVec.ofNat 8 (bitsOf u 8 8)) (BitVec.ofNat 8 (bitsOf u 0 8))) else
      if bitsOf u 21 1 = 0 ∧ bitsOf u 16 4 = 4 then some (.tle (Pm.ofCode (bitsOf u 22 2)) (Wid.ofCode (bitsOf u 20 1)) (BitVec.ofNat 8 (bitsOf u 8 8)) (BitVec.ofNat 8 (bitsOf u 0 8))) else
      if bitsOf u 21 1 = 0 ∧ bitsOf u 16 4 = 5 then some (.tleu (Pm.ofCode (bitsOf u 22 2)) (Wid.ofCode (bitsOf u 20 1)) (BitVec.ofNat 8 (bitsOf u 8 8)) (BitVec.ofNat 8 (bitsOf u 0 8))) else none
  | 0x1B => some (.tlti (Pm.ofCode (bitsOf u 22 2)) (BitVec.ofNat 14 (bitsOf u 8 14)) (BitVec.ofNat 8 (bitsOf u 0 8)))
  | 0x1C => some (.teqi (Pm.ofCode (bitsOf u 22 2)) (BitVec.ofNat 14 (bitsOf u 8 14)) (BitVec.ofNat 8 (bitsOf u 0 8)))
  | 0x1D => if bitsOf u 18 4 = 0 then some (.lea (Pm.ofCode (bitsOf u 22 2)) (BitVec.ofNat 2 (bitsOf u 16 2)) (BitVec.ofNat 8 (bitsOf u 8 8)) (BitVec.ofNat 8 (bitsOf u 0 8))) else none
  | 0x1E => if bitsOf u 16 6 = 0 then some (.mix (Pm.ofCode (bitsOf u 22 2)) (BitVec.ofNat 8 (bitsOf u 8 8)) (BitVec.ofNat 8 (bitsOf u 0 8))) else none
  | _ => none

/-- The W-form words with op7 0x30 to 0x4F, before the checks of field values. -/
def rawVector (u : Nat) : Option Instr :=
  match bitsOf u 24 7 with
  | 0x30 => if bitsOf u 19 3 = 0 then some (.vadd (Pm.ofCode (bitsOf u 22 2)) (Fmt.ofCode (bitsOf u 16 3)) (BitVec.ofNat 8 (bitsOf u 8 8)) (BitVec.ofNat 8 (bitsOf u 0 8))) else none
  | 0x31 => if bitsOf u 19 3 = 0 then some (.vsub (Pm.ofCode (bitsOf u 22 2)) (Fmt.ofCode (bitsOf u 16 3)) (BitVec.ofNat 8 (bitsOf u 8 8)) (BitVec.ofNat 8 (bitsOf u 0 8))) else none
  | 0x32 => if bitsOf u 19 3 = 0 then some (.vmul (Pm.ofCode (bitsOf u 22 2)) (Fmt.ofCode (bitsOf u 16 3)) (BitVec.ofNat 8 (bitsOf u 8 8)) (BitVec.ofNat 8 (bitsOf u 0 8))) else none
  | 0x33 => if bitsOf u 19 5 = 24 then some (.vfma (Fmt.ofCode (bitsOf u 16 3)) (BitVec.ofNat 8 (bitsOf u 8 8)) (BitVec.ofNat 8 (bitsOf u 0 8))) else none
  | 0x34 => if bitsOf u 19 5 = 24 then some (.vfnma (Fmt.ofCode (bitsOf u 16 3)) (BitVec.ofNat 8 (bitsOf u 8 8)) (BitVec.ofNat 8 (bitsOf u 0 8))) else none
  | 0x35 => if bitsOf u 19 3 = 0 then some (.vmin (Pm.ofCode (bitsOf u 22 2)) (Fmt.ofCode (bitsOf u 16 3)) (BitVec.ofNat 8 (bitsOf u 8 8)) (BitVec.ofNat 8 (bitsOf u 0 8))) else none
  | 0x36 => if bitsOf u 19 3 = 0 then some (.vmax (Pm.ofCode (bitsOf u 22 2)) (Fmt.ofCode (bitsOf u 16 3)) (BitVec.ofNat 8 (bitsOf u 8 8)) (BitVec.ofNat 8 (bitsOf u 0 8))) else none
  | 0x37 => if bitsOf u 19 3 = 0 then some (.vabs (Pm.ofCode (bitsOf u 22 2)) (Fmt.ofCode (bitsOf u 16 3)) (BitVec.ofNat 8 (bitsOf u 8 8)) (BitVec.ofNat 8 (bitsOf u 0 8))) else none
  | 0x38 => if bitsOf u 19 3 = 0 then some (.vneg (Pm.ofCode (bitsOf u 22 2)) (Fmt.ofCode (bitsOf u 16 3)) (BitVec.ofNat 8 (bitsOf u 8 8)) (BitVec.ofNat 8 (bitsOf u 0 8))) else none
  | 0x39 => if bitsOf u 19 3 = 0 then some (.vdiv (Pm.ofCode (bitsOf u 22 2)) (Fmt.ofCode (bitsOf u 16 3)) (BitVec.ofNat 8 (bitsOf u 8 8)) (BitVec.ofNat 8 (bitsOf u 0 8))) else none
  | 0x3A => if bitsOf u 19 3 = 0 then some (.vsqrt (Pm.ofCode (bitsOf u 22 2)) (Fmt.ofCode (bitsOf u 16 3)) (BitVec.ofNat 8 (bitsOf u 8 8)) (BitVec.ofNat 8 (bitsOf u 0 8))) else none
  | 0x3B => if bitsOf u 19 3 = 0 then some (.vrcp (Pm.ofCode (bitsOf u 22 2)) (Fmt.ofCode (bitsOf u 16 3)) (BitVec.ofNat 8 (bitsOf u 8 8)) (BitVec.ofNat 8 (bitsOf u 0 8))) else none
  | 0x3C => if bitsOf u 19 3 = 0 then some (.vrsq (Pm.ofCode (bitsOf u 22 2)) (Fmt.ofCode (bitsOf u 16 3)) (BitVec.ofNat 8 (bitsOf u 8 8)) (BitVec.ofNat 8 (bitsOf u 0 8))) else none
  | 0x3D => if bitsOf u 19 3 = 0 then some (.vexp2 (Pm.ofCode (bitsOf u 22 2)) (Fmt.ofCode (bitsOf u 16 3)) (BitVec.ofNat 8 (bitsOf u 8 8)) (BitVec.ofNat 8 (bitsOf u 0 8))) else none
  | 0x3E => if bitsOf u 19 3 = 0 then some (.vlog2 (Pm.ofCode (bitsOf u 22 2)) (Fmt.ofCode (bitsOf u 16 3)) (BitVec.ofNat 8 (bitsOf u 8 8)) (BitVec.ofNat 8 (bitsOf u 0 8))) else none
  | 0x3F => some (.vcmp (Pm.ofCode (bitsOf u 22 2)) (BitVec.ofNat 3 (bitsOf u 19 3)) (Fmt.ofCode (bitsOf u 16 3)) (BitVec.ofNat 8 (bitsOf u 8 8)) (BitVec.ofNat 8 (bitsOf u 0 8)))
  | 0x40 => if bitsOf u 16 6 = 0 then some (.vand (Pm.ofCode (bitsOf u 22 2)) (BitVec.ofNat 8 (bitsOf u 8 8)) (BitVec.ofNat 8 (bitsOf u 0 8))) else
      if bitsOf u 16 6 = 8 then some (.vor (Pm.ofCode (bitsOf u 22 2)) (BitVec.ofNat 8 (bitsOf u 8 8)) (BitVec.ofNat 8 (bitsOf u 0 8))) else
      if bitsOf u 16 6 = 16 then some (.vxor (Pm.ofCode (bitsOf u 22 2)) (BitVec.ofNat 8 (bitsOf u 8 8)) (BitVec.ofNat 8 (bitsOf u 0 8))) else
      if bitsOf u 16 6 = 24 then some (.vandn (Pm.ofCode (bitsOf u 22 2)) (BitVec.ofNat 8 (bitsOf u 8 8)) (BitVec.ofNat 8 (bitsOf u 0 8))) else none
  | 0x41 => if bitsOf u 19 3 = 0 then some (.vshl (Pm.ofCode (bitsOf u 22 2)) (Fmt.ofCode (bitsOf u 16 3)) (BitVec.ofNat 8 (bitsOf u 8 8)) (BitVec.ofNat 8 (bitsOf u 0 8))) else
      if bitsOf u 19 3 = 1 then some (.vshr (Pm.ofCode (bitsOf u 22 2)) (Fmt.ofCode (bitsOf u 16 3)) (BitVec.ofNat 8 (bitsOf u 8 8)) (BitVec.ofNat 8 (bitsOf u 0 8))) else
      if bitsOf u 19 3 = 2 then some (.vsra (Pm.ofCode (bitsOf u 22 2)) (Fmt.ofCode (bitsOf u 16 3)) (BitVec.ofNat 8 (bitsOf u 8 8)) (BitVec.ofNat 8 (bitsOf u 0 8))) else none
  | 0x42 => if bitsOf u 16 6 = 0 then some (.vrng (Pm.ofCode (bitsOf u 22 2)) (BitVec.ofNat 8 (bitsOf u 8 8)) (BitVec.ofNat 8 (bitsOf u 0 8))) else none
  | 0x43 => if bitsOf u 18 6 = 48 then some (.vdot4 (BitVec.ofNat 2 (bitsOf u 16 2)) (BitVec.ofNat 8 (bitsOf u 8 8)) (BitVec.ofNat 8 (bitsOf u 0 8))) else none
  | 0x44 => if bitsOf u 16 8 = 192 then some (.vsel (BitVec.ofNat 8 (bitsOf u 8 8)) (BitVec.ofNat 8 (bitsOf u 0 8))) else none
  | 0x45 => if bitsOf u 19 3 = 0 then some (.vbcast (Pm.ofCode (bitsOf u 22 2)) (Fmt.ofCode (bitsOf u 16 3)) (BitVec.ofNat 8 (bitsOf u 8 8)) (BitVec.ofNat 8 (bitsOf u 0 8))) else none
  | 0x46 => if bitsOf u 19 3 = 0 then some (.vextr (Pm.ofCode (bitsOf u 22 2)) (Fmt.ofCode (bitsOf u 16 3)) (BitVec.ofNat 8 (bitsOf u 8 8)) (BitVec.ofNat 8 (bitsOf u 0 8))) else none
  | 0x47 => if bitsOf u 19 5 = 24 then some (.vins (Fmt.ofCode (bitsOf u 16 3)) (BitVec.ofNat 8 (bitsOf u 8 8)) (BitVec.ofNat 8 (bitsOf u 0 8))) else none
  | 0x48 => if bitsOf u 16 6 = 0 then some (.vperm (Pm.ofCode (bitsOf u 22 2)) (BitVec.ofNat 8 (bitsOf u 8 8)) (BitVec.ofNat 8 (bitsOf u 0 8))) else none
  | 0x49 => if bitsOf u 18 4 = 0 then some (.vslide (Pm.ofCode (bitsOf u 22 2)) (bitOf u 17) (bitOf u 16) (BitVec.ofNat 8 (bitsOf u 8 8)) (BitVec.ofNat 8 (bitsOf u 0 8))) else none
  | 0x4A => some (.vred (Pm.ofCode (bitsOf u 22 2)) (BitVec.ofNat 3 (bitsOf u 19 3)) (Fmt.ofCode (bitsOf u 16 3)) (BitVec.ofNat 8 (bitsOf u 8 8)) (BitVec.ofNat 8 (bitsOf u 0 8)))
  | 0x4B => some (.vcvt (Pm.ofCode (bitsOf u 22 2)) (Fmt.ofCode (bitsOf u 19 3)) (Fmt.ofCode (bitsOf u 16 3)) (BitVec.ofNat 8 (bitsOf u 8 8)) (BitVec.ofNat 8 (bitsOf u 0 8)))
  | 0x4C => if bitsOf u 16 8 = 198 then some (.vqshr (BitVec.ofNat 8 (bitsOf u 8 8)) (BitVec.ofNat 8 (bitsOf u 0 8))) else none
  | 0x4D => if bitsOf u 17 5 = 0 then some (.vfkey (Pm.ofCode (bitsOf u 22 2)) (bitOf u 16) (BitVec.ofNat 8 (bitsOf u 8 8)) (BitVec.ofNat 8 (bitsOf u 0 8))) else none
  | 0x4E => if bitsOf u 19 3 = 0 ∧ bitsOf u 16 2 = 3 then some (.qbfx (Pm.ofCode (bitsOf u 22 2)) (bitOf u 18) (BitVec.ofNat 8 (bitsOf u 8 8)) (BitVec.ofNat 8 (bitsOf u 0 8))) else none
  | 0x4F => if bitsOf u 19 3 = 0 ∧ bitsOf u 16 2 = 3 then some (.dqbfx (Pm.ofCode (bitsOf u 22 2)) (bitOf u 18) (BitVec.ofNat 8 (bitsOf u 8 8)) (BitVec.ofNat 8 (bitsOf u 0 8))) else none
  | _ => none

/-- The W-form words with op7 0x50 to 0x5B, before the checks of field values. -/
def rawTile (u : Nat) : Option Instr :=
  match bitsOf u 24 7 with
  | 0x50 => if bitsOf u 0 18 = 0 then some (.tld (Pm.ofCode (bitsOf u 22 2)) (BitVec.ofNat 4 (bitsOf u 18 4))) else none
  | 0x51 => if bitsOf u 18 4 = 0 ∧ bitsOf u 0 14 = 0 then some (.tst (Pm.ofCode (bitsOf u 22 2)) (BitVec.ofNat 4 (bitsOf u 14 4))) else none
  | 0x52 => if bitsOf u 0 18 = 0 then some (.tzero (Pm.ofCode (bitsOf u 22 2)) (BitVec.ofNat 4 (bitsOf u 18 4))) else none
  | 0x53 => if bitsOf u 0 8 = 0 then some (.tmma (Pm.ofCode (bitsOf u 22 2)) (BitVec.ofNat 4 (bitsOf u 18 4)) (BitVec.ofNat 4 (bitsOf u 14 4)) (BitVec.ofNat 4 (bitsOf u 10 4)) (BitVec.ofNat 2 (bitsOf u 8 2))) else none
  | 0x54 => if bitsOf u 0 8 = 0 then some (.tmmas (Pm.ofCode (bitsOf u 22 2)) (BitVec.ofNat 4 (bitsOf u 18 4)) (BitVec.ofNat 4 (bitsOf u 14 4)) (BitVec.ofNat 4 (bitsOf u 10 4)) (BitVec.ofNat 2 (bitsOf u 8 2))) else none
  | 0x55 => if bitsOf u 0 8 = 0 then some (.tmmac (Pm.ofCode (bitsOf u 22 2)) (BitVec.ofNat 4 (bitsOf u 18 4)) (BitVec.ofNat 4 (bitsOf u 14 4)) (BitVec.ofNat 4 (bitsOf u 10 4)) (BitVec.ofNat 2 (bitsOf u 8 2))) else none
  | 0x56 => if bitsOf u 18 4 = 0 ∧ bitsOf u 6 8 = 0 then some (.tckv (Pm.ofCode (bitsOf u 22 2)) (BitVec.ofNat 4 (bitsOf u 14 4)) (BitVec.ofNat 6 (bitsOf u 0 6))) else none
  | 0x57 => if bitsOf u 0 10 = 0 then some (.tadd (Pm.ofCode (bitsOf u 22 2)) (BitVec.ofNat 4 (bitsOf u 18 4)) (BitVec.ofNat 4 (bitsOf u 14 4)) (BitVec.ofNat 4 (bitsOf u 10 4))) else none
  | 0x58 => if bitsOf u 0 14 = 0 then some (.tcvt (Pm.ofCode (bitsOf u 22 2)) (BitVec.ofNat 4 (bitsOf u 18 4)) (BitVec.ofNat 4 (bitsOf u 14 4))) else none
  | 0x59 => if bitsOf u 0 14 = 0 then some (.ttrn (Pm.ofCode (bitsOf u 22 2)) (BitVec.ofNat 4 (bitsOf u 18 4)) (BitVec.ofNat 4 (bitsOf u 14 4))) else none
  | 0x5A => if bitsOf u 18 4 = 0 ∧ bitsOf u 4 10 = 0 then some (.trow (Pm.ofCode (bitsOf u 22 2)) (BitVec.ofNat 4 (bitsOf u 14 4)) (BitVec.ofNat 4 (bitsOf u 0 4))) else none
  | 0x5B => if bitsOf u 0 18 = 0 then some (.tins (Pm.ofCode (bitsOf u 22 2)) (BitVec.ofNat 4 (bitsOf u 18 4))) else none
  | _ => none

/-- The W-form words with op7 0x5C to 0x6F, before the checks of field values. -/
def rawMemory (u : Nat) : Option Instr :=
  match bitsOf u 24 7 with
  | 0x5C => some (.ld (Pm.ofCode (bitsOf u 22 2)) (BitVec.ofNat 5 (bitsOf u 17 5)) (BitVec.ofNat 2 (bitsOf u 15 2)) (bitOf u 14) (BitVec.ofNat 6 (bitsOf u 8 6)) (BitVec.ofNat 8 (bitsOf u 0 8)))
  | 0x5D => some (.ldw (Pm.ofCode (bitsOf u 22 2)) (BitVec.ofNat 5 (bitsOf u 17 5)) (BitVec.ofNat 2 (bitsOf u 15 2)) (bitOf u 14) (BitVec.ofNat 6 (bitsOf u 8 6)) (BitVec.ofNat 8 (bitsOf u 0 8)))
  | 0x5E => if bitsOf u 0 8 = 0 then some (.st (Pm.ofCode (bitsOf u 22 2)) (BitVec.ofNat 5 (bitsOf u 17 5)) (BitVec.ofNat 2 (bitsOf u 15 2)) (bitOf u 14) (BitVec.ofNat 6 (bitsOf u 8 6))) else none
  | 0x5F => some (.vld (Pm.ofCode (bitsOf u 22 2)) (BitVec.ofNat 5 (bitsOf u 17 5)) (BitVec.ofNat 2 (bitsOf u 15 2)) (bitOf u 14) (BitVec.ofNat 6 (bitsOf u 8 6)) (BitVec.ofNat 8 (bitsOf u 0 8)))
  | 0x60 => if bitsOf u 0 8 = 0 then some (.vst (Pm.ofCode (bitsOf u 22 2)) (BitVec.ofNat 5 (bitsOf u 17 5)) (BitVec.ofNat 2 (bitsOf u 15 2)) (bitOf u 14) (BitVec.ofNat 6 (bitsOf u 8 6))) else none
  | 0x64 => if bitsOf u 0 8 = 0 then some (.join (Pm.ofCode (bitsOf u 22 2)) (BitVec.ofNat 5 (bitsOf u 17 5)) (BitVec.ofNat 2 (bitsOf u 15 2)) (bitOf u 14) (BitVec.ofNat 6 (bitsOf u 8 6))) else none
  | 0x65 => if bitsOf u 0 8 = 0 then some (.vjoin (Pm.ofCode (bitsOf u 22 2)) (BitVec.ofNat 5 (bitsOf u 17 5)) (BitVec.ofNat 2 (bitsOf u 15 2)) (bitOf u 14) (BitVec.ofNat 6 (bitsOf u 8 6))) else none
  | 0x66 => if bitsOf u 0 8 = 0 then some (.waitt (Pm.ofCode (bitsOf u 22 2)) (BitVec.ofNat 6 (bitsOf u 16 6)) (BitVec.ofNat 8 (bitsOf u 8 8))) else none
  | 0x67 => if bitsOf u 14 1 = 0 then some (.xld (Pm.ofCode (bitsOf u 22 2)) (BitVec.ofNat 5 (bitsOf u 17 5)) (BitVec.ofNat 2 (bitsOf u 15 2)) (BitVec.ofNat 6 (bitsOf u 8 6)) (BitVec.ofNat 8 (bitsOf u 0 8))) else none
  | 0x68 => if bitsOf u 14 1 = 0 then some (.vxld (Pm.ofCode (bitsOf u 22 2)) (BitVec.ofNat 5 (bitsOf u 17 5)) (BitVec.ofNat 2 (bitsOf u 15 2)) (BitVec.ofNat 6 (bitsOf u 8 6)) (BitVec.ofNat 8 (bitsOf u 0 8))) else none
  | 0x69 => if bitsOf u 0 22 = 0 then some (.freeze (Pm.ofCode (bitsOf u 22 2))) else
      if bitsOf u 0 22 = 65536 then some (.frzq (Pm.ofCode (bitsOf u 22 2))) else none
  | 0x6A => if bitsOf u 22 2 = 3 ∧ bitsOf u 0 16 = 0 then some (.faddb (BitVec.ofNat 6 (bitsOf u 16 6))) else none
  | 0x6B => if bitsOf u 0 16 = 0 then some (.incw (Pm.ofCode (bitsOf u 22 2)) (BitVec.ofNat 6 (bitsOf u 16 6))) else none
  | 0x6C => if bitsOf u 14 3 = 6 ∧ bitsOf u 0 8 = 0 then some (.fillD (Pm.ofCode (bitsOf u 22 2)) (BitVec.ofNat 5 (bitsOf u 17 5)) (BitVec.ofNat 6 (bitsOf u 8 6))) else
      if bitsOf u 14 3 = 1 ∧ bitsOf u 0 8 = 0 then some (.fillV (Pm.ofCode (bitsOf u 22 2)) (BitVec.ofNat 5 (bitsOf u 17 5)) (BitVec.ofNat 6 (bitsOf u 8 6))) else none
  | 0x6D => if bitsOf u 0 16 = 0 then some (.cpy (Pm.ofCode (bitsOf u 22 2)) (BitVec.ofNat 6 (bitsOf u 16 6))) else none
  | 0x6E => if bitsOf u 0 16 = 0 then some (.cpyw (Pm.ofCode (bitsOf u 22 2)) (BitVec.ofNat 6 (bitsOf u 16 6))) else none
  | _ => none

/-- The W-form words with op7 0x70 to 0x7D, before the checks of field values. -/
def rawSystem (u : Nat) : Option Instr :=
  match bitsOf u 24 7 with
  | 0x70 => if bitsOf u 18 4 = 0 then some (.pop (Pm.ofCode (bitsOf u 22 2)) (Dir.ofCode (bitsOf u 16 2)) (BitVec.ofNat 8 (bitsOf u 8 8)) (BitVec.ofNat 8 (bitsOf u 0 8))) else
      if bitsOf u 16 6 = 4 then some (.popMb (Pm.ofCode (bitsOf u 22 2)) (BitVec.ofNat 8 (bitsOf u 8 8)) (BitVec.ofNat 8 (bitsOf u 0 8))) else none
  | 0x71 => if bitsOf u 8 8 = 0 then some (.qstat (Pm.ofCode (bitsOf u 22 2)) (BitVec.ofNat 6 (bitsOf u 16 6)) (BitVec.ofNat 8 (bitsOf u 0 8))) else none
  | 0x72 => if bitsOf u 0 22 = 0 then some (.send (Pm.ofCode (bitsOf u 22 2))) else none
  | 0x73 => if bitsOf u 0 22 = 0 then some (.strm (Pm.ofCode (bitsOf u 22 2))) else
      if bitsOf u 0 22 = 65536 then some (.mark (Pm.ofCode (bitsOf u 22 2))) else none
  | 0x74 => if bitsOf u 0 22 = 0 then some (.mig (Pm.ofCode (bitsOf u 22 2))) else none
  | 0x75 => if bitsOf u 0 22 = 0 then some (.deleg (Pm.ofCode (bitsOf u 22 2))) else none
  | 0x76 => if bitsOf u 0 16 = 0 then some (.dcall (Pm.ofCode (bitsOf u 22 2)) (BitVec.ofNat 6 (bitsOf u 16 6))) else none
  | 0x77 => if bitsOf u 0 22 = 0 then some (.dret (Pm.ofCode (bitsOf u 22 2))) else none
  | 0x78 => if bitsOf u 0 22 = 0 then some (.binit (Pm.ofCode (bitsOf u 22 2))) else
      if bitsOf u 0 22 = 65536 then some (.arv (Pm.ofCode (bitsOf u 22 2))) else
      if bitsOf u 0 22 = 131072 then some (.arvd (Pm.ofCode (bitsOf u 22 2))) else
      if bitsOf u 0 22 = 196608 then some (.bwt (Pm.ofCode (bitsOf u 22 2))) else none
  | 0x79 => if bitsOf u 8 14 = 0 then some (.rcnt (Pm.ofCode (bitsOf u 22 2)) (BitVec.ofNat 8 (bitsOf u 0 8))) else
      if bitsOf u 0 22 = 65536 then some (.wcnt (Pm.ofCode (bitsOf u 22 2))) else
      if bitsOf u 0 22 = 131072 then some (.ecomb (Pm.ofCode (bitsOf u 22 2))) else
      if bitsOf u 0 22 = 196608 then some (.hbt (Pm.ofCode (bitsOf u 22 2))) else
      if bitsOf u 0 22 = 262144 then some (.trmk (Pm.ofCode (bitsOf u 22 2))) else
      if bitsOf u 8 14 = 1280 then some (.digr (Pm.ofCode (bitsOf u 22 2)) (BitVec.ofNat 8 (bitsOf u 0 8))) else none
  | 0x7A => if bitsOf u 20 2 = 0 then some (.rctl (Pm.ofCode (bitsOf u 22 2)) (BitVec.ofNat 12 (bitsOf u 8 12)) (BitVec.ofNat 8 (bitsOf u 0 8))) else
      if bitsOf u 20 2 = 1 ∧ bitsOf u 0 8 = 0 then some (.wctl (Pm.ofCode (bitsOf u 22 2)) (BitVec.ofNat 12 (bitsOf u 8 12))) else
      if bitsOf u 20 2 = 2 ∧ bitsOf u 0 8 = 0 then some (.sctl (Pm.ofCode (bitsOf u 22 2)) (BitVec.ofNat 12 (bitsOf u 8 12))) else
      if bitsOf u 20 2 = 3 ∧ bitsOf u 0 8 = 0 then some (.cctl (Pm.ofCode (bitsOf u 22 2)) (BitVec.ofNat 12 (bitsOf u 8 12))) else none
  | 0x7B => if bitsOf u 8 14 = 0 then some (.fork (Pm.ofCode (bitsOf u 22 2)) (BitVec.ofNat 8 (bitsOf u 0 8))) else
      if bitsOf u 6 16 = 1024 then some (.merge (Pm.ofCode (bitsOf u 22 2)) (BitVec.ofNat 6 (bitsOf u 0 6))) else
      if bitsOf u 0 22 = 131072 then some (.exit (Pm.ofCode (bitsOf u 22 2))) else
      if bitsOf u 0 22 = 196608 then some (.retain (Pm.ofCode (bitsOf u 22 2))) else none
  | 0x7C => if bitsOf u 0 22 = 0 then some (.start (Pm.ofCode (bitsOf u 22 2))) else
      if bitsOf u 0 22 = 65536 then some (.reapDump (Pm.ofCode (bitsOf u 22 2))) else
      if bitsOf u 0 22 = 131072 then some (.kill (Pm.ofCode (bitsOf u 22 2))) else
      if bitsOf u 0 22 = 196608 then some (.ackf (Pm.ofCode (bitsOf u 22 2))) else
      if bitsOf u 0 22 = 262144 then some (.eret (Pm.ofCode (bitsOf u 22 2))) else
      if bitsOf u 0 22 = 327680 then some (.tlbi (Pm.ofCode (bitsOf u 22 2))) else
      if bitsOf u 0 22 = 393216 then some (.genb (Pm.ofCode (bitsOf u 22 2))) else
      if bitsOf u 0 22 = 458752 then some (.tblwTranslation (Pm.ofCode (bitsOf u 22 2))) else
      if bitsOf u 0 22 = 524288 then some (.gstop (Pm.ofCode (bitsOf u 22 2))) else
      if bitsOf u 0 22 = 589824 then some (.gsw (Pm.ofCode (bitsOf u 22 2))) else none
  | 0x7D => if bitsOf u 0 16 = 0 then some (.trap (Pm.ofCode (bitsOf u 22 2)) (BitVec.ofNat 6 (bitsOf u 16 6))) else none
  | _ => none

/-- The W-form words, before the checks of field values (R39, R63). -/
def rawW (u : Nat) : Option Instr :=
  if bitsOf u 31 1 = 0 then none
  else if bitsOf u 24 7 ≤ 0x0F then rawControl u
  else if bitsOf u 24 7 ≤ 0x2F then rawScalar u
  else if bitsOf u 24 7 ≤ 0x4F then rawVector u
  else if bitsOf u 24 7 ≤ 0x5B then rawTile u
  else if bitsOf u 24 7 ≤ 0x6F then rawMemory u
  else if bitsOf u 24 7 ≤ 0x7D then rawSystem u
  else none

/-- The decoder of one instruction: an H-form halfword (`wide = false`) or a W-form word. A word that no row
lists, or whose fields a row does not list, raises ILLEG; NOP codes and the header mark raise BLKFMT (R37,
R63). -/
def decodeWord (wide : Bool) (u : Nat) : Except FaultCode Instr :=
  if wide then
    if bitsOf u 24 7 = 0x7F then .error .blkfmt
    else match rawW u with
      | some i => if i.wf then .ok i else .error .illeg
      | none => .error .illeg
  else if bitsOf u 15 1 = 1 then .error .blkfmt
  else if bitsOf u 10 5 = 0 then .error .blkfmt
  else match rawH u with
    | some i => if i.wf then .ok i else .error .illeg
    | none => .error .illeg

/-- The instruction that the decoder reads from the bits `w` of an instruction of `nbits` bits, numbered as
the opcode table numbers them: a row of at most 16 bits is an H-form halfword, a longer one a W-form word
whose bits [15:0] are the lower-addressed halfword (R2). -/
def decodeTableWord (nbits w : Nat) : Option Instr :=
  match decodeWord (decide (16 < nbits)) w with
  | .ok i => some i
  | .error _ => none

/-- The length of an instruction's word in bits; an event has none. -/
def Instr.nbits : Instr → Nat
  | .movh .. => 16
  | .noth .. => 16
  | .negh .. => 16
  | .inch .. => 16
  | .dech .. => 16
  | .nullh .. => 16
  | .teqz .. => 16
  | .tnez .. => 16
  | .tltz .. => 16
  | .tgez .. => 16
  | .sxb .. => 16
  | .sxh .. => 16
  | .sxw .. => 16
  | .zxb .. => 16
  | .zxh .. => 16
  | .zxw .. => 16
  | .hbtH .. => 16
  | .popn .. => 16
  | .pope .. => 16
  | .pops .. => 16
  | .popw .. => 16
  | .reth .. => 16
  | .rd .. => 32
  | .rdt .. => 32
  | .wr .. => 32
  | .movi .. => 32
  | .movhi .. => 32
  | .br .. => 32
  | .bri .. => 32
  | .call .. => 32
  | .calli .. => 32
  | .ret .. => 32
  | .null .. => 32
  | .sel .. => 32
  | .mov .. => 32
  | .add .. => 32
  | .sub .. => 32
  | .and .. => 32
  | .or .. => 32
  | .xor .. => 32
  | .andn .. => 32
  | .shl .. => 32
  | .shr .. => 32
  | .sra .. => 32
  | .rot .. => 32
  | .min .. => 32
  | .max .. => 32
  | .minu .. => 32
  | .maxu .. => 32
  | .addi .. => 32
  | .andi .. => 32
  | .ori .. => 32
  | .xori .. => 32
  | .shli .. => 32
  | .shri .. => 32
  | .srai .. => 32
  | .mul .. => 32
  | .mulh .. => 32
  | .mulhu .. => 32
  | .div .. => 32
  | .divu .. => 32
  | .rem .. => 32
  | .remu .. => 32
  | .clz .. => 32
  | .ctz .. => 32
  | .popc .. => 32
  | .sextB .. => 32
  | .sextH .. => 32
  | .sextW .. => 32
  | .zextB .. => 32
  | .zextH .. => 32
  | .zextW .. => 32
  | .bswap .. => 32
  | .not .. => 32
  | .neg .. => 32
  | .teq .. => 32
  | .tne .. => 32
  | .tlt .. => 32
  | .tltu .. => 32
  | .tle .. => 32
  | .tleu .. => 32
  | .tlti .. => 32
  | .teqi .. => 32
  | .lea .. => 32
  | .mix .. => 32
  | .vadd .. => 32
  | .vsub .. => 32
  | .vmul .. => 32
  | .vfma .. => 32
  | .vfnma .. => 32
  | .vmin .. => 32
  | .vmax .. => 32
  | .vabs .. => 32
  | .vneg .. => 32
  | .vdiv .. => 32
  | .vsqrt .. => 32
  | .vrcp .. => 32
  | .vrsq .. => 32
  | .vexp2 .. => 32
  | .vlog2 .. => 32
  | .vcmp .. => 32
  | .vand .. => 32
  | .vor .. => 32
  | .vxor .. => 32
  | .vandn .. => 32
  | .vshl .. => 32
  | .vshr .. => 32
  | .vsra .. => 32
  | .vrng .. => 32
  | .vdot4 .. => 32
  | .vsel .. => 32
  | .vbcast .. => 32
  | .vextr .. => 32
  | .vins .. => 32
  | .vperm .. => 32
  | .vslide .. => 32
  | .vred .. => 32
  | .vcvt .. => 32
  | .vqshr .. => 32
  | .vfkey .. => 32
  | .qbfx .. => 32
  | .dqbfx .. => 32
  | .tld .. => 32
  | .tst .. => 32
  | .tzero .. => 32
  | .tmma .. => 32
  | .tmmas .. => 32
  | .tmmac .. => 32
  | .tckv .. => 32
  | .tadd .. => 32
  | .tcvt .. => 32
  | .ttrn .. => 32
  | .trow .. => 32
  | .tins .. => 32
  | .ld .. => 32
  | .ldw .. => 32
  | .st .. => 32
  | .vld .. => 32
  | .vst .. => 32
  | .join .. => 32
  | .vjoin .. => 32
  | .waitt .. => 32
  | .xld .. => 32
  | .vxld .. => 32
  | .freeze .. => 32
  | .frzq .. => 32
  | .faddb .. => 32
  | .incw .. => 32
  | .fillD .. => 32
  | .fillV .. => 32
  | .cpy .. => 32
  | .cpyw .. => 32
  | .pop .. => 32
  | .popMb .. => 32
  | .qstat .. => 32
  | .send .. => 32
  | .strm .. => 32
  | .mark .. => 32
  | .mig .. => 32
  | .deleg .. => 32
  | .dcall .. => 32
  | .dret .. => 32
  | .binit .. => 32
  | .arv .. => 32
  | .arvd .. => 32
  | .bwt .. => 32
  | .rcnt .. => 32
  | .wcnt .. => 32
  | .ecomb .. => 32
  | .hbt .. => 32
  | .trmk .. => 32
  | .digr .. => 32
  | .rctl .. => 32
  | .wctl .. => 32
  | .sctl .. => 32
  | .cctl .. => 32
  | .fork .. => 32
  | .merge .. => 32
  | .exit .. => 32
  | .retain .. => 32
  | .start .. => 32
  | .startComm .. => 32
  | .reapDump .. => 32
  | .reapTrap .. => 32
  | .kill .. => 32
  | .ackf .. => 32
  | .eret .. => 32
  | .tlbi .. => 32
  | .genb .. => 32
  | .tblwTranslation .. => 32
  | .tblwAsidRoot .. => 32
  | .tblwStreamEntry .. => 32
  | .tblwContainment .. => 32
  | .tblwFormatWindow .. => 32
  | .tblwBreakpoint .. => 32
  | .tblwCorrectionHistory .. => 32
  | .tblwFrameState .. => 32
  | .gstop .. => 32
  | .gstopResume .. => 32
  | .gsw .. => 32
  | .trap .. => 32
  | .seinjWrite => 0
  | .ebudWrite => 0
  | .hbiWrite => 0
  | .tomWrite => 0
  | .blockFetch => 0
  | .blockCacheFill => 0
  | .translationWalk => 0
  | .blockCommit => 0
  | .blockStarved => 0
  | .rotationAccounting => 0
  | .producerCompletion => 0
  | .loadResult => 0
  | .acceptance => 0
  | .deferredFault => 0
  | .trapRecordQueued => 0
  | .trapHandlerEntry => 0
  | .taskAdmission => 0
  | .privStoreDrain => 0
  | .privStoreApply => 0
  | .privStoreAck => 0
  | .readServe => 0
  | .combineMerge => 0
  | .combineHoldEnd => 0
  | .joinApply => 0
  | .fillApply => 0
  | .waitServe => 0
  | .freezeApply => 0
  | .exactReadServe => 0
  | .schedApply => 0
  | .dramLineFill => 0
  | .overflowChainRead => 0
  | .faultQueueRepair => 0
  | .frameReassign => 0
  | .scrub => 0
  | .genbApply => 0
  | .systemOpComplete => 0
  | .tileOpBegin => 0
  | .tileOpComplete => 0
  | .copyCommandBegin => 0
  | .copyRun => 0
  | .copyCommandComplete => 0
  | .streamFlitForward => 0
  | .streamCombine => 0
  | .markerStep => 0
  | .continuationDepart => 0
  | .continuationArrival => 0
  | .continuationPlace => 0
  | .continuationAccept => 0
  | .continuationRefusal => 0
  | .continuationRetry => 0
  | .sendArrival => 0
  | .sendRefusal => 0
  | .sendRetry => 0
  | .delegationArrival => 0
  | .delegationRefusal => 0
  | .delegationRetry => 0
  | .delegationBegin => 0
  | .dcallReply => 0
  | .routineFaultReply => 0
  | .spawnArrival => 0
  | .spawnRefusal => 0
  | .spawnResend => 0
  | .exitMessageDepart => 0
  | .exitMessageApply => 0
  | .binitTakeEffect => 0
  | .barrierArrivalDepart => 0
  | .phaseComplete => 0
  | .phaseCompletionArrive => 0
  | .ecombAdd => 0
  | .heartbeatMiss => 0
  | .watchdogPreempt => 0
  | .watchdogKill => 0
  | .watchdogFence => 0
  | .energyWindowStart => 0
  | .energyEpochEnd => 0
  | .digestSnapshot => 0
  | .quiescenceSum => 0
  | .podSums => 0
  | .quiescenceFound => 0
  | .launchStart => 0
  | .launchEnd => 0
  | .twinCompare => 0
  | .fence => 0
  | .gangStop => 0
  | .gangStopResume => 0
  | .gangSwitchRequest => 0
  | .gangSwitch => 0
  | .switchImageWrite => 0
  | .resume => 0
  | .traceSample => 0
  | .traceFrameWrite => 0
  | .cxlMemWrite => 0
  | .cxlMemRead => 0
  | .submitLaunchRecord => 0
  | .readStatusRecord => 0
  | .managementRead => 0
  | .managementWrite => 0
  | .bringUpReport => 0
  | .hostErrorLog => 0
  | .boundaryScan => 0
  | .codeword => 0
  | .nak => 0
  | .timeSync => 0
  | .timeSyncInterval => 0
  | .capability => 0
  | .portDown => 0
  | .powerUp => 0
  | .cxlReset => 0
  | .gangSwitchComplete => 0
  | .retraining => 0

/-- The word of an instruction (R38 to R41, R65 to R75); 0 for an event, which has no word. -/
def Instr.encode : Instr → Nat
  | .movh pm t0 => 0x400 + pm.code * 256 + t0.toNat
  | .noth pm t0 => 0x800 + pm.code * 256 + t0.toNat
  | .negh pm t0 => 0xc00 + pm.code * 256 + t0.toNat
  | .inch pm t0 => 0x1000 + pm.code * 256 + t0.toNat
  | .dech pm t0 => 0x1400 + pm.code * 256 + t0.toNat
  | .nullh pm t0 => 0x1800 + pm.code * 256 + t0.toNat
  | .teqz pm t0 => 0x1c00 + pm.code * 256 + t0.toNat
  | .tnez pm t0 => 0x2000 + pm.code * 256 + t0.toNat
  | .tltz pm t0 => 0x2400 + pm.code * 256 + t0.toNat
  | .tgez pm t0 => 0x2800 + pm.code * 256 + t0.toNat
  | .sxb pm t0 => 0x2c00 + pm.code * 256 + t0.toNat
  | .sxh pm t0 => 0x3000 + pm.code * 256 + t0.toNat
  | .sxw pm t0 => 0x3400 + pm.code * 256 + t0.toNat
  | .zxb pm t0 => 0x3800 + pm.code * 256 + t0.toNat
  | .zxh pm t0 => 0x3c00 + pm.code * 256 + t0.toNat
  | .zxw pm t0 => 0x4000 + pm.code * 256 + t0.toNat
  | .hbtH pm => 0x4400 + pm.code * 256
  | .popn pm t0 => 0x4800 + pm.code * 256 + t0.toNat
  | .pope pm t0 => 0x4c00 + pm.code * 256 + t0.toNat
  | .pops pm t0 => 0x5000 + pm.code * 256 + t0.toNat
  | .popw pm t0 => 0x5400 + pm.code * 256 + t0.toNat
  | .reth pm => 0x5800 + pm.code * 256
  | .rd cls r t1 t0 => 0x80000000 + cls.code * 4194304 + r.toNat * 65536 + t1.toNat * 256 + t0.toNat
  | .rdt cls r t1 t0 => 0x81000000 + cls.code * 4194304 + r.toNat * 65536 + t1.toNat * 256 + t0.toNat
  | .wr cls r => 0x82000000 + cls.code * 4194304 + r.toNat * 65536
  | .movi pm imm t0 => 0x83000000 + pm.code * 4194304 + imm.toNat * 256 + t0.toNat
  | .movhi pm imm t0 => 0x84000000 + pm.code * 4194304 + imm.toNat * 256 + t0.toNat
  | .br pm off => 0x85000000 + pm.code * 4194304 + off.toNat
  | .bri pm => 0x86000000 + pm.code * 4194304
  | .call pm off => 0x87000000 + pm.code * 4194304 + off.toNat
  | .calli pm => 0x88000000 + pm.code * 4194304
  | .ret pm => 0x89000000 + pm.code * 4194304
  | .null pm n t1 t0 => 0x8a000000 + pm.code * 4194304 + n.toNat * 65536 + t1.toNat * 256 + t0.toNat
  | .sel t1 t0 => 0x8bc00000 + t1.toNat * 256 + t0.toNat
  | .mov pm t1 t0 => 0x8c000000 + pm.code * 4194304 + t1.toNat * 256 + t0.toNat
  | .add pm w t1 t0 => 0x90000000 + pm.code * 4194304 + w.code * 1048576 + t1.toNat * 256 + t0.toNat
  | .sub pm w t1 t0 => 0x90010000 + pm.code * 4194304 + w.code * 1048576 + t1.toNat * 256 + t0.toNat
  | .and pm w t1 t0 => 0x90020000 + pm.code * 4194304 + w.code * 1048576 + t1.toNat * 256 + t0.toNat
  | .or pm w t1 t0 => 0x90030000 + pm.code * 4194304 + w.code * 1048576 + t1.toNat * 256 + t0.toNat
  | .xor pm w t1 t0 => 0x90040000 + pm.code * 4194304 + w.code * 1048576 + t1.toNat * 256 + t0.toNat
  | .andn pm w t1 t0 => 0x90050000 + pm.code * 4194304 + w.code * 1048576 + t1.toNat * 256 + t0.toNat
  | .shl pm w t1 t0 => 0x90060000 + pm.code * 4194304 + w.code * 1048576 + t1.toNat * 256 + t0.toNat
  | .shr pm w t1 t0 => 0x90070000 + pm.code * 4194304 + w.code * 1048576 + t1.toNat * 256 + t0.toNat
  | .sra pm w t1 t0 => 0x90080000 + pm.code * 4194304 + w.code * 1048576 + t1.toNat * 256 + t0.toNat
  | .rot pm w t1 t0 => 0x90090000 + pm.code * 4194304 + w.code * 1048576 + t1.toNat * 256 + t0.toNat
  | .min pm w t1 t0 => 0x900a0000 + pm.code * 4194304 + w.code * 1048576 + t1.toNat * 256 + t0.toNat
  | .max pm w t1 t0 => 0x900b0000 + pm.code * 4194304 + w.code * 1048576 + t1.toNat * 256 + t0.toNat
  | .minu pm w t1 t0 => 0x900c0000 + pm.code * 4194304 + w.code * 1048576 + t1.toNat * 256 + t0.toNat
  | .maxu pm w t1 t0 => 0x900d0000 + pm.code * 4194304 + w.code * 1048576 + t1.toNat * 256 + t0.toNat
  | .addi pm imm t0 => 0x91000000 + pm.code * 4194304 + imm.toNat * 256 + t0.toNat
  | .andi pm imm t0 => 0x92000000 + pm.code * 4194304 + imm.toNat * 256 + t0.toNat
  | .ori pm imm t0 => 0x93000000 + pm.code * 4194304 + imm.toNat * 256 + t0.toNat
  | .xori pm imm t0 => 0x94000000 + pm.code * 4194304 + imm.toNat * 256 + t0.toNat
  | .shli pm imm t0 => 0x95000000 + pm.code * 4194304 + imm.toNat * 256 + t0.toNat
  | .shri pm imm t0 => 0x96000000 + pm.code * 4194304 + imm.toNat * 256 + t0.toNat
  | .srai pm imm t0 => 0x97000000 + pm.code * 4194304 + imm.toNat * 256 + t0.toNat
  | .mul pm w t1 t0 => 0x98000000 + pm.code * 4194304 + w.code * 1048576 + t1.toNat * 256 + t0.toNat
  | .mulh pm w t1 t0 => 0x98010000 + pm.code * 4194304 + w.code * 1048576 + t1.toNat * 256 + t0.toNat
  | .mulhu pm w t1 t0 => 0x98020000 + pm.code * 4194304 + w.code * 1048576 + t1.toNat * 256 + t0.toNat
  | .div pm w t1 t0 => 0x98030000 + pm.code * 4194304 + w.code * 1048576 + t1.toNat * 256 + t0.toNat
  | .divu pm w t1 t0 => 0x98040000 + pm.code * 4194304 + w.code * 1048576 + t1.toNat * 256 + t0.toNat
  | .rem pm w t1 t0 => 0x98050000 + pm.code * 4194304 + w.code * 1048576 + t1.toNat * 256 + t0.toNat
  | .remu pm w t1 t0 => 0x98060000 + pm.code * 4194304 + w.code * 1048576 + t1.toNat * 256 + t0.toNat
  | .clz pm w t1 t0 => 0x99000000 + pm.code * 4194304 + w.code * 1048576 + t1.toNat * 256 + t0.toNat
  | .ctz pm w t1 t0 => 0x99010000 + pm.code * 4194304 + w.code * 1048576 + t1.toNat * 256 + t0.toNat
  | .popc pm w t1 t0 => 0x99020000 + pm.code * 4194304 + w.code * 1048576 + t1.toNat * 256 + t0.toNat
  | .sextB pm t1 t0 => 0x99130000 + pm.code * 4194304 + t1.toNat * 256 + t0.toNat
  | .sextH pm t1 t0 => 0x99140000 + pm.code * 4194304 + t1.toNat * 256 + t0.toNat
  | .sextW pm t1 t0 => 0x99150000 + pm.code * 4194304 + t1.toNat * 256 + t0.toNat
  | .zextB pm t1 t0 => 0x99160000 + pm.code * 4194304 + t1.toNat * 256 + t0.toNat
  | .zextH pm t1 t0 => 0x99170000 + pm.code * 4194304 + t1.toNat * 256 + t0.toNat
  | .zextW pm t1 t0 => 0x99180000 + pm.code * 4194304 + t1.toNat * 256 + t0.toNat
  | .bswap pm w t1 t0 => 0x99090000 + pm.code * 4194304 + w.code * 1048576 + t1.toNat * 256 + t0.toNat
  | .not pm w t1 t0 => 0x990a0000 + pm.code * 4194304 + w.code * 1048576 + t1.toNat * 256 + t0.toNat
  | .neg pm w t1 t0 => 0x990b0000 + pm.code * 4194304 + w.code * 1048576 + t1.toNat * 256 + t0.toNat
  | .teq pm w t1 t0 => 0x9a000000 + pm.code * 4194304 + w.code * 1048576 + t1.toNat * 256 + t0.toNat
  | .tne pm w t1 t0 => 0x9a010000 + pm.code * 4194304 + w.code * 1048576 + t1.toNat * 256 + t0.toNat
  | .tlt pm w t1 t0 => 0x9a020000 + pm.code * 4194304 + w.code * 1048576 + t1.toNat * 256 + t0.toNat
  | .tltu pm w t1 t0 => 0x9a030000 + pm.code * 4194304 + w.code * 1048576 + t1.toNat * 256 + t0.toNat
  | .tle pm w t1 t0 => 0x9a040000 + pm.code * 4194304 + w.code * 1048576 + t1.toNat * 256 + t0.toNat
  | .tleu pm w t1 t0 => 0x9a050000 + pm.code * 4194304 + w.code * 1048576 + t1.toNat * 256 + t0.toNat
  | .tlti pm imm t0 => 0x9b000000 + pm.code * 4194304 + imm.toNat * 256 + t0.toNat
  | .teqi pm imm t0 => 0x9c000000 + pm.code * 4194304 + imm.toNat * 256 + t0.toNat
  | .lea pm h t1 t0 => 0x9d000000 + pm.code * 4194304 + h.toNat * 65536 + t1.toNat * 256 + t0.toNat
  | .mix pm t1 t0 => 0x9e000000 + pm.code * 4194304 + t1.toNat * 256 + t0.toNat
  | .vadd pm f t1 t0 => 0xb0000000 + pm.code * 4194304 + f.code * 65536 + t1.toNat * 256 + t0.toNat
  | .vsub pm f t1 t0 => 0xb1000000 + pm.code * 4194304 + f.code * 65536 + t1.toNat * 256 + t0.toNat
  | .vmul pm f t1 t0 => 0xb2000000 + pm.code * 4194304 + f.code * 65536 + t1.toNat * 256 + t0.toNat
  | .vfma f t1 t0 => 0xb3c00000 + f.code * 65536 + t1.toNat * 256 + t0.toNat
  | .vfnma f t1 t0 => 0xb4c00000 + f.code * 65536 + t1.toNat * 256 + t0.toNat
  | .vmin pm f t1 t0 => 0xb5000000 + pm.code * 4194304 + f.code * 65536 + t1.toNat * 256 + t0.toNat
  | .vmax pm f t1 t0 => 0xb6000000 + pm.code * 4194304 + f.code * 65536 + t1.toNat * 256 + t0.toNat
  | .vabs pm f t1 t0 => 0xb7000000 + pm.code * 4194304 + f.code * 65536 + t1.toNat * 256 + t0.toNat
  | .vneg pm f t1 t0 => 0xb8000000 + pm.code * 4194304 + f.code * 65536 + t1.toNat * 256 + t0.toNat
  | .vdiv pm f t1 t0 => 0xb9000000 + pm.code * 4194304 + f.code * 65536 + t1.toNat * 256 + t0.toNat
  | .vsqrt pm f t1 t0 => 0xba000000 + pm.code * 4194304 + f.code * 65536 + t1.toNat * 256 + t0.toNat
  | .vrcp pm f t1 t0 => 0xbb000000 + pm.code * 4194304 + f.code * 65536 + t1.toNat * 256 + t0.toNat
  | .vrsq pm f t1 t0 => 0xbc000000 + pm.code * 4194304 + f.code * 65536 + t1.toNat * 256 + t0.toNat
  | .vexp2 pm f t1 t0 => 0xbd000000 + pm.code * 4194304 + f.code * 65536 + t1.toNat * 256 + t0.toNat
  | .vlog2 pm f t1 t0 => 0xbe000000 + pm.code * 4194304 + f.code * 65536 + t1.toNat * 256 + t0.toNat
  | .vcmp pm c f t1 t0 => 0xbf000000 + pm.code * 4194304 + c.toNat * 524288 + f.code * 65536 + t1.toNat * 256 + t0.toNat
  | .vand pm t1 t0 => 0xc0000000 + pm.code * 4194304 + t1.toNat * 256 + t0.toNat
  | .vor pm t1 t0 => 0xc0080000 + pm.code * 4194304 + t1.toNat * 256 + t0.toNat
  | .vxor pm t1 t0 => 0xc0100000 + pm.code * 4194304 + t1.toNat * 256 + t0.toNat
  | .vandn pm t1 t0 => 0xc0180000 + pm.code * 4194304 + t1.toNat * 256 + t0.toNat
  | .vshl pm f t1 t0 => 0xc1000000 + pm.code * 4194304 + f.code * 65536 + t1.toNat * 256 + t0.toNat
  | .vshr pm f t1 t0 => 0xc1080000 + pm.code * 4194304 + f.code * 65536 + t1.toNat * 256 + t0.toNat
  | .vsra pm f t1 t0 => 0xc1100000 + pm.code * 4194304 + f.code * 65536 + t1.toNat * 256 + t0.toNat
  | .vrng pm t1 t0 => 0xc2000000 + pm.code * 4194304 + t1.toNat * 256 + t0.toNat
  | .vdot4 k t1 t0 => 0xc3c00000 + k.toNat * 65536 + t1.toNat * 256 + t0.toNat
  | .vsel t1 t0 => 0xc4c00000 + t1.toNat * 256 + t0.toNat
  | .vbcast pm f t1 t0 => 0xc5000000 + pm.code * 4194304 + f.code * 65536 + t1.toNat * 256 + t0.toNat
  | .vextr pm f t1 t0 => 0xc6000000 + pm.code * 4194304 + f.code * 65536 + t1.toNat * 256 + t0.toNat
  | .vins f t1 t0 => 0xc7c00000 + f.code * 65536 + t1.toNat * 256 + t0.toNat
  | .vperm pm t1 t0 => 0xc8000000 + pm.code * 4194304 + t1.toNat * 256 + t0.toNat
  | .vslide pm z d t1 t0 => 0xc9000000 + pm.code * 4194304 + z.toNat * 131072 + d.toNat * 65536 + t1.toNat * 256 + t0.toNat
  | .vred pm o f t1 t0 => 0xca000000 + pm.code * 4194304 + o.toNat * 524288 + f.code * 65536 + t1.toNat * 256 + t0.toNat
  | .vcvt pm fd fs t1 t0 => 0xcb000000 + pm.code * 4194304 + fd.code * 524288 + fs.code * 65536 + t1.toNat * 256 + t0.toNat
  | .vqshr t1 t0 => 0xccc60000 + t1.toNat * 256 + t0.toNat
  | .vfkey pm n t1 t0 => 0xcd000000 + pm.code * 4194304 + n.toNat * 65536 + t1.toNat * 256 + t0.toNat
  | .qbfx pm x t1 t0 => 0xce030000 + pm.code * 4194304 + x.toNat * 262144 + t1.toNat * 256 + t0.toNat
  | .dqbfx pm x t1 t0 => 0xcf030000 + pm.code * 4194304 + x.toNat * 262144 + t1.toNat * 256 + t0.toNat
  | .tld pm td => 0xd0000000 + pm.code * 4194304 + td.toNat * 262144
  | .tst pm ta => 0xd1000000 + pm.code * 4194304 + ta.toNat * 16384
  | .tzero pm td => 0xd2000000 + pm.code * 4194304 + td.toNat * 262144
  | .tmma pm td ta tb acc => 0xd3000000 + pm.code * 4194304 + td.toNat * 262144 + ta.toNat * 16384 + tb.toNat * 1024 + acc.toNat * 256
  | .tmmas pm td ta tb acc => 0xd4000000 + pm.code * 4194304 + td.toNat * 262144 + ta.toNat * 16384 + tb.toNat * 1024 + acc.toNat * 256
  | .tmmac pm td ta tb acc => 0xd5000000 + pm.code * 4194304 + td.toNat * 262144 + ta.toNat * 16384 + tb.toNat * 1024 + acc.toNat * 256
  | .tckv pm ta g => 0xd6000000 + pm.code * 4194304 + ta.toNat * 16384 + g.toNat
  | .tadd pm td ta tb => 0xd7000000 + pm.code * 4194304 + td.toNat * 262144 + ta.toNat * 16384 + tb.toNat * 1024
  | .tcvt pm td ta => 0xd8000000 + pm.code * 4194304 + td.toNat * 262144 + ta.toNat * 16384
  | .ttrn pm td ta => 0xd9000000 + pm.code * 4194304 + td.toNat * 262144 + ta.toNat * 16384
  | .trow pm ta v => 0xda000000 + pm.code * 4194304 + ta.toNat * 16384 + v.toNat
  | .tins pm td => 0xdb000000 + pm.code * 4194304 + td.toNat * 262144
  | .ld pm lsid size flag imm t0 => 0xdc000000 + pm.code * 4194304 + lsid.toNat * 131072 + size.toNat * 32768 + flag.toNat * 16384 + imm.toNat * 256 + t0.toNat
  | .ldw pm lsid size flag imm t0 => 0xdd000000 + pm.code * 4194304 + lsid.toNat * 131072 + size.toNat * 32768 + flag.toNat * 16384 + imm.toNat * 256 + t0.toNat
  | .st pm lsid size flag imm => 0xde000000 + pm.code * 4194304 + lsid.toNat * 131072 + size.toNat * 32768 + flag.toNat * 16384 + imm.toNat * 256
  | .vld pm lsid size flag imm t0 => 0xdf000000 + pm.code * 4194304 + lsid.toNat * 131072 + size.toNat * 32768 + flag.toNat * 16384 + imm.toNat * 256 + t0.toNat
  | .vst pm lsid size flag imm => 0xe0000000 + pm.code * 4194304 + lsid.toNat * 131072 + size.toNat * 32768 + flag.toNat * 16384 + imm.toNat * 256
  | .join pm lsid size flag imm => 0xe4000000 + pm.code * 4194304 + lsid.toNat * 131072 + size.toNat * 32768 + flag.toNat * 16384 + imm.toNat * 256
  | .vjoin pm lsid size flag imm => 0xe5000000 + pm.code * 4194304 + lsid.toNat * 131072 + size.toNat * 32768 + flag.toNat * 16384 + imm.toNat * 256
  | .waitt pm g c => 0xe6000000 + pm.code * 4194304 + g.toNat * 65536 + c.toNat * 256
  | .xld pm lsid size imm t0 => 0xe7000000 + pm.code * 4194304 + lsid.toNat * 131072 + size.toNat * 32768 + imm.toNat * 256 + t0.toNat
  | .vxld pm lsid size imm t0 => 0xe8000000 + pm.code * 4194304 + lsid.toNat * 131072 + size.toNat * 32768 + imm.toNat * 256 + t0.toNat
  | .freeze pm => 0xe9000000 + pm.code * 4194304
  | .frzq pm => 0xe9010000 + pm.code * 4194304
  | .faddb g => 0xeac00000 + g.toNat * 65536
  | .incw pm g => 0xeb000000 + pm.code * 4194304 + g.toNat * 65536
  | .fillD pm lsid imm => 0xec018000 + pm.code * 4194304 + lsid.toNat * 131072 + imm.toNat * 256
  | .fillV pm lsid imm => 0xec004000 + pm.code * 4194304 + lsid.toNat * 131072 + imm.toNat * 256
  | .cpy pm g => 0xed000000 + pm.code * 4194304 + g.toNat * 65536
  | .cpyw pm g => 0xee000000 + pm.code * 4194304 + g.toNat * 65536
  | .pop pm d t1 t0 => 0xf0000000 + pm.code * 4194304 + d.code * 65536 + t1.toNat * 256 + t0.toNat
  | .popMb pm t1 t0 => 0xf0040000 + pm.code * 4194304 + t1.toNat * 256 + t0.toNat
  | .qstat pm fn t0 => 0xf1000000 + pm.code * 4194304 + fn.toNat * 65536 + t0.toNat
  | .send pm => 0xf2000000 + pm.code * 4194304
  | .strm pm => 0xf3000000 + pm.code * 4194304
  | .mark pm => 0xf3010000 + pm.code * 4194304
  | .mig pm => 0xf4000000 + pm.code * 4194304
  | .deleg pm => 0xf5000000 + pm.code * 4194304
  | .dcall pm g => 0xf6000000 + pm.code * 4194304 + g.toNat * 65536
  | .dret pm => 0xf7000000 + pm.code * 4194304
  | .binit pm => 0xf8000000 + pm.code * 4194304
  | .arv pm => 0xf8010000 + pm.code * 4194304
  | .arvd pm => 0xf8020000 + pm.code * 4194304
  | .bwt pm => 0xf8030000 + pm.code * 4194304
  | .rcnt pm t0 => 0xf9000000 + pm.code * 4194304 + t0.toNat
  | .wcnt pm => 0xf9010000 + pm.code * 4194304
  | .ecomb pm => 0xf9020000 + pm.code * 4194304
  | .hbt pm => 0xf9030000 + pm.code * 4194304
  | .trmk pm => 0xf9040000 + pm.code * 4194304
  | .digr pm t0 => 0xf9050000 + pm.code * 4194304 + t0.toNat
  | .rctl pm cn t0 => 0xfa000000 + pm.code * 4194304 + cn.toNat * 256 + t0.toNat
  | .wctl pm cn => 0xfa100000 + pm.code * 4194304 + cn.toNat * 256
  | .sctl pm cn => 0xfa200000 + pm.code * 4194304 + cn.toNat * 256
  | .cctl pm cn => 0xfa300000 + pm.code * 4194304 + cn.toNat * 256
  | .fork pm t0 => 0xfb000000 + pm.code * 4194304 + t0.toNat
  | .merge pm g => 0xfb010000 + pm.code * 4194304 + g.toNat
  | .exit pm => 0xfb020000 + pm.code * 4194304
  | .retain pm => 0xfb030000 + pm.code * 4194304
  | .start pm => 0xfc000000 + pm.code * 4194304
  | .startComm pm => 0xfc000000 + pm.code * 4194304
  | .reapDump pm => 0xfc010000 + pm.code * 4194304
  | .reapTrap pm => 0xfc010000 + pm.code * 4194304
  | .kill pm => 0xfc020000 + pm.code * 4194304
  | .ackf pm => 0xfc030000 + pm.code * 4194304
  | .eret pm => 0xfc040000 + pm.code * 4194304
  | .tlbi pm => 0xfc050000 + pm.code * 4194304
  | .genb pm => 0xfc060000 + pm.code * 4194304
  | .tblwTranslation pm => 0xfc070000 + pm.code * 4194304
  | .tblwAsidRoot pm => 0xfc070000 + pm.code * 4194304
  | .tblwStreamEntry pm => 0xfc070000 + pm.code * 4194304
  | .tblwContainment pm => 0xfc070000 + pm.code * 4194304
  | .tblwFormatWindow pm => 0xfc070000 + pm.code * 4194304
  | .tblwBreakpoint pm => 0xfc070000 + pm.code * 4194304
  | .tblwCorrectionHistory pm => 0xfc070000 + pm.code * 4194304
  | .tblwFrameState pm => 0xfc070000 + pm.code * 4194304
  | .gstop pm => 0xfc080000 + pm.code * 4194304
  | .gstopResume pm => 0xfc080000 + pm.code * 4194304
  | .gsw pm => 0xfc090000 + pm.code * 4194304
  | .trap pm c => 0xfd000000 + pm.code * 4194304 + c.toNat * 65536
  | .seinjWrite => 0
  | .ebudWrite => 0
  | .hbiWrite => 0
  | .tomWrite => 0
  | .blockFetch => 0
  | .blockCacheFill => 0
  | .translationWalk => 0
  | .blockCommit => 0
  | .blockStarved => 0
  | .rotationAccounting => 0
  | .producerCompletion => 0
  | .loadResult => 0
  | .acceptance => 0
  | .deferredFault => 0
  | .trapRecordQueued => 0
  | .trapHandlerEntry => 0
  | .taskAdmission => 0
  | .privStoreDrain => 0
  | .privStoreApply => 0
  | .privStoreAck => 0
  | .readServe => 0
  | .combineMerge => 0
  | .combineHoldEnd => 0
  | .joinApply => 0
  | .fillApply => 0
  | .waitServe => 0
  | .freezeApply => 0
  | .exactReadServe => 0
  | .schedApply => 0
  | .dramLineFill => 0
  | .overflowChainRead => 0
  | .faultQueueRepair => 0
  | .frameReassign => 0
  | .scrub => 0
  | .genbApply => 0
  | .systemOpComplete => 0
  | .tileOpBegin => 0
  | .tileOpComplete => 0
  | .copyCommandBegin => 0
  | .copyRun => 0
  | .copyCommandComplete => 0
  | .streamFlitForward => 0
  | .streamCombine => 0
  | .markerStep => 0
  | .continuationDepart => 0
  | .continuationArrival => 0
  | .continuationPlace => 0
  | .continuationAccept => 0
  | .continuationRefusal => 0
  | .continuationRetry => 0
  | .sendArrival => 0
  | .sendRefusal => 0
  | .sendRetry => 0
  | .delegationArrival => 0
  | .delegationRefusal => 0
  | .delegationRetry => 0
  | .delegationBegin => 0
  | .dcallReply => 0
  | .routineFaultReply => 0
  | .spawnArrival => 0
  | .spawnRefusal => 0
  | .spawnResend => 0
  | .exitMessageDepart => 0
  | .exitMessageApply => 0
  | .binitTakeEffect => 0
  | .barrierArrivalDepart => 0
  | .phaseComplete => 0
  | .phaseCompletionArrive => 0
  | .ecombAdd => 0
  | .heartbeatMiss => 0
  | .watchdogPreempt => 0
  | .watchdogKill => 0
  | .watchdogFence => 0
  | .energyWindowStart => 0
  | .energyEpochEnd => 0
  | .digestSnapshot => 0
  | .quiescenceSum => 0
  | .podSums => 0
  | .quiescenceFound => 0
  | .launchStart => 0
  | .launchEnd => 0
  | .twinCompare => 0
  | .fence => 0
  | .gangStop => 0
  | .gangStopResume => 0
  | .gangSwitchRequest => 0
  | .gangSwitch => 0
  | .switchImageWrite => 0
  | .resume => 0
  | .traceSample => 0
  | .traceFrameWrite => 0
  | .cxlMemWrite => 0
  | .cxlMemRead => 0
  | .submitLaunchRecord => 0
  | .readStatusRecord => 0
  | .managementRead => 0
  | .managementWrite => 0
  | .bringUpReport => 0
  | .hostErrorLog => 0
  | .boundaryScan => 0
  | .codeword => 0
  | .nak => 0
  | .timeSync => 0
  | .timeSyncInterval => 0
  | .capability => 0
  | .portDown => 0
  | .powerUp => 0
  | .cxlReset => 0
  | .gangSwitchComplete => 0
  | .retraining => 0

/-- The row that the decoder gives for a word that several rows share: START and START_COMM, the two REAP
rows, the eight TBLW rows and the two GSTOP rows differ by an operand, not by their word (R289, R290, R352,
R353). Every other instruction is its own base. -/
def Instr.base : Instr → Instr
  | .startComm pm => .start pm
  | .reapTrap pm => .reapDump pm
  | .tblwAsidRoot pm => .tblwTranslation pm
  | .tblwStreamEntry pm => .tblwTranslation pm
  | .tblwContainment pm => .tblwTranslation pm
  | .tblwFormatWindow pm => .tblwTranslation pm
  | .tblwBreakpoint pm => .tblwTranslation pm
  | .tblwCorrectionHistory pm => .tblwTranslation pm
  | .tblwFrameState pm => .tblwTranslation pm
  | .gstopResume pm => .gstop pm
  | i => i

/-- The row of an event. -/
def Machine.Event.instr : Event → Instr
  | .seinjWrite _ _ => .seinjWrite
  | .ebudWrite _ _ => .ebudWrite
  | .hbiWrite _ _ => .hbiWrite
  | .tomWrite _ _ => .tomWrite
  | .blockFetch _ _ => .blockFetch
  | .blockCacheFill _ _ _ _ _ => .blockCacheFill
  | .translationWalk _ _ _ _ _ _ _ => .translationWalk
  | .blockCommit _ _ => .blockCommit
  | .blockStarved _ _ => .blockStarved
  | .rotationAccounting => .rotationAccounting
  | .producerCompletion _ _ _ _ _ _ _ => .producerCompletion
  | .loadResult _ _ _ _ _ _ _ => .loadResult
  | .acceptance _ _ => .acceptance
  | .deferredFault _ _ _ _ => .deferredFault
  | .trapRecordQueued _ _ => .trapRecordQueued
  | .trapHandlerEntry _ => .trapHandlerEntry
  | .taskAdmission _ => .taskAdmission
  | .privStoreDrain _ => .privStoreDrain
  | .privStoreApply _ _ => .privStoreApply
  | .privStoreAck _ _ => .privStoreAck
  | .readServe _ _ => .readServe
  | .combineMerge _ _ _ => .combineMerge
  | .combineHoldEnd _ _ => .combineHoldEnd
  | .joinApply _ _ => .joinApply
  | .fillApply _ _ => .fillApply
  | .waitServe _ _ => .waitServe
  | .freezeApply _ _ => .freezeApply
  | .exactReadServe _ _ => .exactReadServe
  | .schedApply _ _ => .schedApply
  | .dramLineFill _ _ => .dramLineFill
  | .overflowChainRead _ _ _ => .overflowChainRead
  | .faultQueueRepair _ => .faultQueueRepair
  | .frameReassign _ _ _ => .frameReassign
  | .scrub _ _ _ _ => .scrub
  | .genbApply _ _ => .genbApply
  | .systemOpComplete _ => .systemOpComplete
  | .tileOpBegin _ => .tileOpBegin
  | .tileOpComplete _ => .tileOpComplete
  | .copyCommandBegin _ => .copyCommandBegin
  | .copyRun _ => .copyRun
  | .copyCommandComplete _ => .copyCommandComplete
  | .streamFlitForward _ _ _ => .streamFlitForward
  | .streamCombine _ _ => .streamCombine
  | .markerStep _ _ => .markerStep
  | .continuationDepart _ _ => .continuationDepart
  | .continuationArrival _ => .continuationArrival
  | .continuationPlace _ => .continuationPlace
  | .continuationAccept _ _ => .continuationAccept
  | .continuationRefusal _ _ _ _ => .continuationRefusal
  | .continuationRetry _ _ => .continuationRetry
  | .sendArrival _ => .sendArrival
  | .sendRefusal _ _ => .sendRefusal
  | .sendRetry _ => .sendRetry
  | .delegationArrival _ => .delegationArrival
  | .delegationRefusal _ _ => .delegationRefusal
  | .delegationRetry _ => .delegationRetry
  | .delegationBegin _ => .delegationBegin
  | .dcallReply _ _ _ _ => .dcallReply
  | .routineFaultReply _ _ => .routineFaultReply
  | .spawnArrival _ _ => .spawnArrival
  | .spawnRefusal _ _ => .spawnRefusal
  | .spawnResend _ _ => .spawnResend
  | .exitMessageDepart _ _ => .exitMessageDepart
  | .exitMessageApply _ => .exitMessageApply
  | .binitTakeEffect _ _ _ _ _ => .binitTakeEffect
  | .barrierArrivalDepart _ _ _ _ _ => .barrierArrivalDepart
  | .phaseComplete _ => .phaseComplete
  | .phaseCompletionArrive _ _ => .phaseCompletionArrive
  | .ecombAdd _ _ _ => .ecombAdd
  | .heartbeatMiss _ => .heartbeatMiss
  | .watchdogPreempt _ _ => .watchdogPreempt
  | .watchdogKill _ _ => .watchdogKill
  | .watchdogFence _ _ => .watchdogFence
  | .energyWindowStart _ => .energyWindowStart
  | .energyEpochEnd _ => .energyEpochEnd
  | .digestSnapshot _ => .digestSnapshot
  | .quiescenceSum _ _ => .quiescenceSum
  | .podSums _ _ _ => .podSums
  | .quiescenceFound _ _ => .quiescenceFound
  | .launchStart _ => .launchStart
  | .launchEnd _ _ _ => .launchEnd
  | .twinCompare _ _ => .twinCompare
  | .fence _ _ _ => .fence
  | .gangStop _ _ => .gangStop
  | .gangStopResume _ _ => .gangStopResume
  | .gangSwitchRequest _ _ => .gangSwitchRequest
  | .gangSwitch _ _ => .gangSwitch
  | .switchImageWrite _ _ => .switchImageWrite
  | .resume _ _ => .resume
  | .traceSample _ => .traceSample
  | .traceFrameWrite _ => .traceFrameWrite
  | .cxlMemWrite _ _ _ => .cxlMemWrite
  | .cxlMemRead _ _ => .cxlMemRead
  | .submitLaunchRecord _ _ _ => .submitLaunchRecord
  | .readStatusRecord _ _ => .readStatusRecord
  | .managementRead _ _ _ => .managementRead
  | .managementWrite _ _ _ _ => .managementWrite
  | .bringUpReport _ => .bringUpReport
  | .hostErrorLog _ => .hostErrorLog
  | .boundaryScan _ _ => .boundaryScan
  | .codeword _ _ _ _ => .codeword
  | .nak _ _ _ => .nak
  | .timeSync _ _ _ _ => .timeSync
  | .timeSyncInterval _ _ => .timeSyncInterval
  | .capability _ _ _ _ _ _ => .capability
  | .portDown _ _ => .portDown
  | .powerUp _ _ => .powerUp
  | .cxlReset _ => .cxlReset
  | .gangSwitchComplete _ _ => .gangSwitchComplete
  | .retraining _ _ _ => .retraining

end Sys2Proof
end

