-- ==== Sys2Proof/Machine/Operands.lean ====
section
/-!
DEFINITION. The operands and targets of the instruction at the firing position (R38 to R53): tokens and their
nulls, predicates, the delivery of a result to its targets, and what a slot records for the commit.
-/

namespace Sys2Proof.Machine

/-! ### The window (R43 to R53) -/

/-- The slot at the current position. -/
def State.slot (s : State) : Slot :=
  match (s.ctx s.cur.core s.cur.ctx).blk with
  | some b => b.slots.getD s.cur.slot {}
  | none => {}

/-- The context at the current position. -/
def State.cctx (s : State) : Ctx := s.ctx s.cur.core s.cur.ctx
/-- The core at the current position. -/
def State.ccore (s : State) : Core := s.core s.cur.core
/-- The block at the current position. -/
def State.cblk (s : State) : Block := s.cctx.blk.getD ⟨0, 0, 0, 0, [], 0, none, [], [], [], none⟩

/-- An operand's token: its value, or null (R45). -/
def Operand.tok (o : Operand) : Tok := o.val.getD .null
/-- An operand is present (R45). -/
def Operand.present (o : Operand) : Bool := o.val.isSome || decide (0 < o.fan ∧ o.fan ≤ o.nulls)
/-- An operand is present and null. -/
def Operand.isNull (o : Operand) : Bool := decide (0 < o.fan) && o.val.isNone
/-- The scalar value of a token, 0 for another. -/
def Tok.scal : Tok → W64
  | .scalar v => v
  | _ => 0
/-- The lanes and validity of a token; a null token has no valid lane. -/
def Tok.vec : Tok → V1024 × W32
  | .vector x m => (x, m)
  | _ => (0, 0)
/-- A token counts as null: it is null, or none of its lanes is valid (R45). -/
def Tok.isNull : Tok → Bool
  | .null => true
  | .scalar _ => false
  | .vector _ m => m == 0

/-- Changes a slot of a block. -/
def Block.modSlot (b : Block) (k : Nat) (f : Slot → Slot) : Block := { b with slots := b.slots.modify k f }

/-- Sends a token to the targets of a slot: operand positions receive it in the cycle `due`, link queues
reserve an entry (R41, R264). -/
def State.emitAt (s : State) (c x slot due : Nat) (ts : List (BitVec 8)) (k : Tok) : State :=
  ts.foldl (fun s t =>
    if t = 0 then s
    else if t.toNat / 64 = 3 then
      let d := dirOf (t.toNat % 4)
      let v := if k.isNull then none else some k
      (s.modBlock c x fun b => b.modSlot slot fun q => { q with push := q.push ++ [(d, v)] }).modCore c fun q =>
        { q with reserved := q.reserved.put d.num (q.reserved.get 0 d.num + 1) }
    else
      s.modBlock c x fun b => { b with flights := b.flights ++ [⟨due, t.toNat % 64, t.toNat / 64, k⟩] }) s

/-- Sends the result of the current slot, present 16 cycles after issue (R21). -/
def State.emit (s : State) (ts : List (BitVec 8)) (k : Tok) : State :=
  s.emitAt s.cur.core s.cur.ctx s.cur.slot (s.now + 16) ts k

/-- The current slot has fired, null or not, with an effect for the commit. -/
def State.fired (s : State) (isNull : Bool := false) (e : Eff := .none) : State :=
  s.modBlock s.cur.core s.cur.ctx fun b => b.modSlot s.cur.slot fun q =>
    { q with fired := true, walking := false, isNull := isNull, eff := e }

/-- The current slot counts exception events at commit (R140). -/
def State.events (s : State) (ev : List (Nat × Nat)) : State :=
  s.modBlock s.cur.core s.cur.ctx fun b => b.modSlot s.cur.slot fun q => { q with ex := q.ex ++ ev }

/-- The current slot fires null: null to every target, no other effect (R46). -/
def State.fireNull (s : State) (ts : List (BitVec 8)) : State := (s.fired true).emit ts .null

/-- A slot's scalar instruction fires null: its predicate turns it off, or an operand is null (R43, R46). DESIGN CHOICE (log entry
80): a vector token whose lanes are all null counts, that of a TINS among them. -/
def Slot.off (q : Slot) (pm : Pm) : Bool :=
  q.l.isNull || q.r.isNull || q.p.isNull ||
    (match pm with
      | .onTrue => q.p.tok.scal == 0
      | .onFalse => q.p.tok.scal != 0
      | _ => false)

/-- The scalar instruction at the current slot fires null (R43, R46). -/
def State.offScalar (s : State) (pm : Pm) : Bool := s.slot.off pm

/-- The lane mask that predicates the vector instruction at the current slot is null: it fires null (R43, R46). A null vector operand only
makes its lanes null (R143). -/
def State.offVector (s : State) (pm : Pm) : Bool :=
  match pm with
  | .onTrue | .onFalse => s.slot.p.isNull
  | _ => false

/-- The lanes that a vector instruction's predicate leaves in (R43). -/
def State.laneMask (s : State) (pm : Pm) : W32 :=
  let m := s.slot.p.tok.scal.setWidth 32
  match pm with
  | .onTrue => m
  | .onFalse => ~~~ m
  | _ => 0xFFFFFFFF

/-- An instruction that fires with an effect for the commit and no token (class C, R66). -/
def State.fireEff (s : State) (pm : Pm) (f : State → Except Cause Eff) : State :=
  if s.offScalar pm then s.fired true
  else
    match f s with
    | .ok e => s.fired false e
    | .error k => s.raise k

/-- The exit of a block fires (R52): a second non-null exit raises BLKFMT. -/
def State.fireExit (s : State) (e : BlkExit) : State :=
  if s.cblk.exit.isSome then s.raise { code := .blkfmt }
  else (s.fired).modBlock s.cur.core s.cur.ctx fun b => { b with exit := some e }

end Sys2Proof.Machine
end

