-- ==== Sys2Proof/Machine/Info.lean ====
section
/-!
DEFINITION. What the opcode map says of each instruction beside its effect (R64 to R75): the operand positions it
takes, its targets, its class, the register it produces asynchronously. The fetcher's checks and the choice of the
instruction to issue read these.
-/

namespace Sys2Proof

open Sys2Proof.Machine

/-- What an operand position takes (R64). -/
inductive Need where
  | none | scal | vec
deriving DecidableEq, Repr, Inhabited

/-- The predicate mode of an instruction; RD, RDT and WR have none (R42, R67). -/
def Instr.pmode : Instr → Pm
  | .movh p .. | .noth p .. | .negh p .. | .inch p .. | .dech p .. | .nullh p .. | .teqz p .. | .tnez p ..
  | .tltz p .. | .tgez p .. | .sxb p .. | .sxh p .. | .sxw p .. | .zxb p .. | .zxh p .. | .zxw p .. | .hbtH p
  | .popn p .. | .pope p .. | .pops p .. | .popw p .. | .reth p | .movi p .. | .movhi p .. | .br p .. | .bri p
  | .call p .. | .calli p | .ret p | .null p .. | .mov p .. | .add p .. | .sub p .. | .and p .. | .or p ..
  | .xor p .. | .andn p .. | .shl p .. | .shr p .. | .sra p .. | .rot p .. | .min p .. | .max p .. | .minu p ..
  | .maxu p .. | .addi p .. | .andi p .. | .ori p .. | .xori p .. | .shli p .. | .shri p .. | .srai p ..
  | .mul p .. | .mulh p .. | .mulhu p .. | .div p .. | .divu p .. | .rem p .. | .remu p .. | .clz p .. | .ctz p ..
  | .popc p .. | .sextB p .. | .sextH p .. | .sextW p .. | .zextB p .. | .zextH p .. | .zextW p .. | .bswap p ..
  | .not p .. | .neg p .. | .teq p .. | .tne p .. | .tlt p .. | .tltu p .. | .tle p .. | .tleu p .. | .tlti p ..
  | .teqi p .. | .lea p .. | .mix p .. | .vadd p .. | .vsub p .. | .vmul p .. | .vmin p .. | .vmax p ..
  | .vabs p .. | .vneg p .. | .vdiv p .. | .vsqrt p .. | .vrcp p .. | .vrsq p .. | .vexp2 p .. | .vlog2 p ..
  | .vcmp p .. | .vand p .. | .vor p .. | .vxor p .. | .vandn p .. | .vshl p .. | .vshr p .. | .vsra p ..
  | .vrng p .. | .vbcast p .. | .vextr p .. | .vperm p .. | .vslide p .. | .vred p .. | .vcvt p .. | .vfkey p ..
  | .qbfx p .. | .dqbfx p .. | .tld p .. | .tst p .. | .tzero p .. | .tmma p .. | .tmmas p .. | .tmmac p ..
  | .tckv p .. | .tadd p .. | .tcvt p .. | .ttrn p .. | .trow p .. | .tins p .. | .ld p .. | .ldw p .. | .st p ..
  | .vld p .. | .vst p .. | .join p .. | .vjoin p .. | .waitt p .. | .xld p .. | .vxld p .. | .freeze p
  | .frzq p | .incw p .. | .fillD p .. | .fillV p .. | .cpy p .. | .cpyw p .. | .pop p .. | .popMb p ..
  | .qstat p .. | .send p | .strm p | .mark p | .mig p | .deleg p | .dcall p .. | .dret p | .binit p | .arv p
  | .arvd p | .bwt p | .rcnt p .. | .wcnt p | .ecomb p | .hbt p | .trmk p | .digr p .. | .rctl p .. | .wctl p ..
  | .sctl p .. | .cctl p .. | .fork p .. | .merge p .. | .exit p | .retain p | .start p | .startComm p
  | .reapDump p | .reapTrap p | .kill p | .ackf p | .eret p | .tlbi p | .genb p | .tblwTranslation p
  | .tblwAsidRoot p | .tblwStreamEntry p | .tblwContainment p | .tblwFormatWindow p | .tblwBreakpoint p
  | .tblwCorrectionHistory p | .tblwFrameState p | .gstop p | .gstopResume p | .gsw p | .trap p .. => p
  | .sel .. | .vfma .. | .vfnma .. | .vdot4 .. | .vsel .. | .vins .. | .vqshr .. | .faddb .. => .ternary
  | _ => .always

/-- The left and right operands, and the third operand of a ternary form (R64 to R75). -/
def Instr.dataNeeds : Instr → Need × Need × Need
  | .movh .. | .noth .. | .negh .. | .inch .. | .dech .. | .nullh .. | .teqz .. | .tnez .. | .tltz .. | .tgez ..
  | .sxb .. | .sxh .. | .sxw .. | .zxb .. | .zxh .. | .zxw .. | .reth .. | .movhi .. | .bri .. | .calli .. | .ret ..
  | .mov .. | .addi .. | .andi .. | .ori .. | .xori .. | .shli .. | .shri .. | .srai .. | .clz .. | .ctz ..
  | .popc .. | .sextB .. | .sextH .. | .sextW .. | .zextB .. | .zextH .. | .zextW .. | .bswap .. | .not ..
  | .neg .. | .tlti .. | .teqi .. | .vbcast .. | .tld .. | .tst .. | .tckv .. | .trow .. | .ld .. | .ldw ..
  | .xld .. | .vxld .. | .strm .. | .mark .. | .mig .. | .dret .. | .arv .. | .arvd .. | .bwt .. | .rcnt ..
  | .ecomb .. | .trmk .. | .wctl .. | .sctl .. | .cctl .. | .exit .. | .start .. | .startComm .. | .kill ..
  | .genb .. | .tblwTranslation .. | .tblwAsidRoot .. | .tblwStreamEntry .. | .tblwContainment ..
  | .tblwFormatWindow .. | .tblwBreakpoint .. | .tblwCorrectionHistory .. | .tblwFrameState .. | .gstop ..
  | .gstopResume .. => (.scal, .none, .none)
  | .add .. | .sub .. | .and .. | .or .. | .xor .. | .andn .. | .shl .. | .shr .. | .sra .. | .rot .. | .min ..
  | .max .. | .minu .. | .maxu .. | .mul .. | .mulh .. | .mulhu .. | .div .. | .divu .. | .rem .. | .remu ..
  | .teq .. | .tne .. | .tlt .. | .tltu .. | .tle .. | .tleu .. | .lea .. | .mix .. | .st .. | .join ..
  | .freeze .. | .frzq .. | .incw .. | .fillD .. | .send .. | .deleg .. | .dcall .. | .binit .. | .wcnt ..
  | .fork .. | .reapDump .. | .reapTrap .. | .ackf .. | .tlbi .. => (.scal, .scal, .none)
  | .sel .. | .faddb .. => (.scal, .scal, .scal)
  | .null _ n .. => (if n then .none else .scal, .none, .none)
  | .wr c _ => (if c = .vr then .vec else .scal, .none, .none)
  | .vadd .. | .vsub .. | .vmul .. | .vmin .. | .vmax .. | .vdiv .. | .vcmp .. | .vand .. | .vor .. | .vxor ..
  | .vandn .. | .vperm .. => (.vec, .vec, .none)
  | .vfma .. | .vfnma .. | .vdot4 .. => (.vec, .vec, .vec)
  | .vabs .. | .vneg .. | .vsqrt .. | .vrcp .. | .vrsq .. | .vexp2 .. | .vlog2 .. | .vred .. | .vfkey ..
  | .qbfx .. => (.vec, .none, .none)
  | .vshl .. | .vshr .. | .vsra .. | .vrng .. | .vextr .. | .vslide .. | .dqbfx .. | .tins .. => (.vec, .scal, .none)
  | .vsel .. => (.vec, .vec, .scal)
  | .vins .. | .vqshr .. => (.vec, .scal, .scal)
  | .vcvt _ fd fs .. => (.vec, if fd.isInt && fs.isFloat then .scal else .none, .none)
  | .vld _ _ size .. => (.scal, if size = 1 then .scal else if size = 2 then .vec else .none, .none)
  | .vst _ _ size .. => (.scal, .vec, if size = 1 then .scal else if size = 2 then .vec else .none)
  | .vjoin .. | .fillV .. => (.scal, .vec, .none)
  | .waitt _ _ c => (.scal, if c = 0 then .none else .scal, .none)
  | _ => (.none, .none, .none)

/-- What each operand position of an instruction takes: pm 01 and 10 add a scalar predicate (R38, R43). -/
def Instr.needs (i : Instr) : Need × Need × Need :=
  let n := i.dataNeeds
  match i.pmode with
  | .onTrue | .onFalse => (n.1, n.2.1, .scal)
  | _ => n

/-- The target bytes, T0 before T1 (R42, R64). -/
def Instr.targets : Instr → List (BitVec 8)
  | .movh _ t | .noth _ t | .negh _ t | .inch _ t | .dech _ t | .nullh _ t | .teqz _ t | .tnez _ t | .tltz _ t
  | .tgez _ t | .sxb _ t | .sxh _ t | .sxw _ t | .zxb _ t | .zxh _ t | .zxw _ t | .popn _ t | .pope _ t | .pops _ t
  | .popw _ t | .movi _ _ t | .movhi _ _ t | .addi _ _ t | .andi _ _ t | .ori _ _ t | .xori _ _ t | .shli _ _ t
  | .shri _ _ t | .srai _ _ t | .tlti _ _ t | .teqi _ _ t | .qstat _ _ t | .rcnt _ t | .digr _ t | .rctl _ _ t
  | .fork _ t => [t]
  | .ld _ _ _ _ _ t | .ldw _ _ _ _ _ t | .vld _ _ _ _ _ t => [t]
  | .xld _ _ _ _ t | .vxld _ _ _ _ t => [t]
  | .rd _ _ u t | .rdt _ _ u t | .null _ _ u t | .vrng _ u t | .vperm _ u t | .mov _ u t | .sextB _ u t
  | .sextH _ u t | .sextW _ u t | .zextB _ u t | .zextH _ u t | .zextW _ u t | .mix _ u t | .vand _ u t
  | .vor _ u t | .vxor _ u t | .vandn _ u t | .popMb _ u t => [t, u]
  | .sel u t | .vsel u t | .vqshr u t => [t, u]
  | .add _ _ u t | .sub _ _ u t | .and _ _ u t | .or _ _ u t | .xor _ _ u t | .andn _ _ u t | .shl _ _ u t
  | .shr _ _ u t | .sra _ _ u t | .rot _ _ u t | .min _ _ u t | .max _ _ u t | .minu _ _ u t | .maxu _ _ u t
  | .mul _ _ u t | .mulh _ _ u t | .mulhu _ _ u t | .div _ _ u t | .divu _ _ u t | .rem _ _ u t | .remu _ _ u t
  | .clz _ _ u t | .ctz _ _ u t | .popc _ _ u t | .bswap _ _ u t | .not _ _ u t | .neg _ _ u t | .teq _ _ u t
  | .tne _ _ u t | .tlt _ _ u t | .tltu _ _ u t | .tle _ _ u t | .tleu _ _ u t | .lea _ _ u t => [t, u]
  | .vadd _ _ u t | .vsub _ _ u t | .vmul _ _ u t | .vmin _ _ u t | .vmax _ _ u t | .vabs _ _ u t | .vneg _ _ u t
  | .vdiv _ _ u t | .vsqrt _ _ u t | .vrcp _ _ u t | .vrsq _ _ u t | .vexp2 _ _ u t | .vlog2 _ _ u t
  | .vshl _ _ u t | .vshr _ _ u t | .vsra _ _ u t | .vbcast _ _ u t | .vextr _ _ u t => [t, u]
  | .vfma _ u t | .vfnma _ u t | .vdot4 _ u t | .vins _ u t => [t, u]
  | .vcmp _ _ _ u t | .vslide _ _ _ u t | .vred _ _ _ u t | .vcvt _ _ _ u t => [t, u]
  | .vfkey _ _ u t | .qbfx _ _ u t | .dqbfx _ _ u t => [t, u]
  | .pop _ _ u t => [t, u]
  | _ => []

/-- The result is a vector token (R44, R69); QBFX sends one at T0 only. -/
def Instr.vecOut : Instr → Bool
  | .rd c .. | .rdt c .. => c == .vr
  | .vadd .. | .vsub .. | .vmul .. | .vfma .. | .vfnma .. | .vmin .. | .vmax .. | .vabs .. | .vneg .. | .vdiv ..
  | .vsqrt .. | .vrcp .. | .vrsq .. | .vexp2 .. | .vlog2 .. | .vand .. | .vor .. | .vxor .. | .vandn .. | .vshl ..
  | .vshr .. | .vsra .. | .vrng .. | .vdot4 .. | .vsel .. | .vbcast .. | .vins .. | .vperm .. | .vslide ..
  | .vcvt .. | .vqshr .. | .vfkey .. | .qbfx .. | .dqbfx .. | .vld .. | .vxld .. => true
  | _ => false

/-- The token at target `k` (0 T0, 1 T1) is a vector (R69, R101); a NULL's is a scalar. -/
def Instr.targetVec (i : Instr) (k : Nat) : Bool :=
  match i with
  | .qbfx .. => k == 0
  | i => i.vecOut

/-- The LSID an instruction carries (R49). -/
def Instr.lsid? : Instr → Option Nat
  | .ld _ l .. | .ldw _ l .. | .st _ l .. | .vld _ l .. | .vst _ l .. | .join _ l .. | .vjoin _ l .. | .xld _ l ..
  | .vxld _ l .. | .fillD _ l .. | .fillV _ l .. => some l.toNat
  | _ => none

/-- An exit (class X, R52). -/
def Instr.isExit : Instr → Bool
  | .br .. | .bri .. | .call .. | .calli .. | .ret .. | .reth .. | .mig .. | .exit .. | .dret .. | .eret ..
  | .trap .. => true
  | _ => false

/-- RCTL of a control number marked O (R90). -/
def ctlOrdered (n : Nat) : Bool :=
  n == 7 || (decide (0x030 ≤ n) && decide (n ≤ 0x160)) || n == 0x181 || n == 0x182

/-- Order-sensitive by opcode (class O, R29). -/
def Instr.ordered : Instr → Bool
  | .faddb .. | .incw .. | .deleg .. | .dcall .. | .dret .. | .popMb .. | .send .. | .rcnt .. | .digr .. | .qstat .. => true
  | .rctl _ cn _ => ctlOrdered cn.toNat
  | _ => false

/-- Head context only (class H, R76). -/
def Instr.headOnly : Instr → Bool
  | .start .. | .startComm .. | .reapDump .. | .reapTrap .. | .kill .. | .ackf .. | .eret .. | .tlbi .. | .genb ..
  | .tblwTranslation .. | .tblwAsidRoot .. | .tblwStreamEntry .. | .tblwContainment .. | .tblwFormatWindow ..
  | .tblwBreakpoint .. | .tblwCorrectionHistory .. | .tblwFrameState .. | .gstop .. | .gstopResume .. | .gsw .. => true
  | _ => false

/-- A tile instruction (R70). -/
def Instr.isTile : Instr → Bool
  | .tld .. | .tst .. | .tzero .. | .tmma .. | .tmmas .. | .tmmac .. | .tckv .. | .tadd .. | .tcvt .. | .ttrn ..
  | .trow .. | .tins .. => true
  | _ => false

/-- Commit-relevant (R53): a WR, an LSID carrier, an exit, a link push, or an instruction of class C. -/
def Instr.commitRelevant (i : Instr) : Bool :=
  i.lsid?.isSome || i.isExit || i.isTile || i.headOnly || i.targets.any (fun t => t.toNat / 64 == 3) ||
    (match i with
      | .wr .. | .waitt .. | .freeze .. | .frzq .. | .faddb .. | .incw .. | .cpy .. | .cpyw .. | .send .. | .strm ..
      | .mark .. | .deleg .. | .dcall .. | .binit .. | .arv .. | .arvd .. | .bwt .. | .wcnt .. | .ecomb .. | .hbt ..
      | .hbtH .. | .trmk .. | .wctl .. | .sctl .. | .cctl .. | .fork .. | .merge .. | .retain .. => true
      | _ => false)

/-- An instruction that writes memory and carries an LSID (R50). -/
def Instr.writesMem : Instr → Bool
  | .st .. | .vst .. | .join .. | .vjoin .. | .fillD .. | .fillV .. => true
  | _ => false

/-- A load (R50). -/
def Instr.isLoad : Instr → Bool
  | .ld .. | .ldw .. | .vld .. => true
  | _ => false

/-- An instruction whose value the leading context of a pair passes on (R364). -/
def Instr.passesValue : Instr → Bool
  | .ld .. | .ldw .. | .vld .. | .xld .. | .vxld .. | .pop .. | .popMb .. | .popn .. | .pope .. | .pops .. | .popw ..
  | .qstat .. | .rcnt .. | .digr .. => true
  | .rctl _ cn _ => ctlOrdered cn.toNat && cn != 7
  | _ => false

/-- The register an asynchronous producer names (R82). -/
def Instr.dest? : Instr → Option (RegFile × Nat)
  | .waitt _ g _ => some (.gr, g.toNat)
  | .faddb g => some (.gr, g.toNat)
  | .incw _ g => some (.gr, g.toNat)
  | .cpy _ g | .cpyw _ g => if g = 0 then none else some (.gr, g.toNat)
  | .tckv _ _ g => some (.gr, g.toNat)
  | .trow _ _ v => some (.vr, v.toNat)
  | .dcall _ g => some (.gr, g.toNat)
  | .merge _ g => some (.gr, g.toNat)
  | _ => none

/-- The queue a POP takes from: N 0, E 1, S 2, W 3, mailbox 4 (R268). -/
def Instr.popQueue? : Instr → Option Nat
  | .popn .. => some 0
  | .pope .. => some 1
  | .pops .. => some 2
  | .popw .. => some 3
  | .pop _ d .. => some d.num
  | .popMb .. => some 4
  | _ => none

/-- The instruction an operand selects among those that share its word (R289, R290, R352, R353): bit 4 of L,
bit 0 of L, or the table code L[59:56]. -/
def Instr.refine (i : Instr) (l : W64) : Instr :=
  match i with
  | .start p => if l.getLsbD 4 then .startComm p else i
  | .reapDump p => if l.getLsbD 4 then .reapTrap p else i
  | .gstop p => if l.getLsbD 0 then .gstopResume p else i
  | .tblwTranslation p =>
    match bitsOf l.toNat 56 4 with
    | 1 => .tblwAsidRoot p
    | 2 => .tblwStreamEntry p
    | 3 => .tblwContainment p
    | 4 => .tblwFormatWindow p
    | 5 => .tblwBreakpoint p
    | 6 => .tblwCorrectionHistory p
    | 7 => .tblwFrameState p
    | _ => i
  | i => i

/-- The instruction in a slot. -/
def Machine.Slot.instr? (k : Slot) : Option Instr :=
  match decodeWord (!k.half) k.word with
  | .ok i => some i
  | .error _ => none

end Sys2Proof
end

