-- ==== Sys2Proof/Machine/Bits.lean ====
section
/-!
DEFINITION. The integer functions of the scalar unit (R103, R111 to R118) on natural numbers: an operand is read
to `n` bits, the result formed exactly and narrowed at the end.
-/

namespace Sys2Proof.Machine

/-- The width in bits of `.w` and `.d` (R103). -/
def Wid.bits : Wid → Nat
  | .w32 => 32
  | .w64 => 64

/-- An n-bit result sent sign-extended to 64 bits (R103). -/
def sext64 (n : Nat) (y : Nat) : W64 := BitVec.ofInt 64 (signedOf y n)

/-- MIX (R118). -/
def mix (l r : Nat) : Nat :=
  let x := (l % 2 ^ 32) ^^^ (r % 2 ^ 32)
  let x := x * 0x2C1B3C6D % 2 ^ 32
  let x := x ^^^ (x / 2 ^ 16)
  let x := x * 0x297A2D39 % 2 ^ 32
  x ^^^ (x / 2 ^ 15)

/-- Left shift of n bits by a whole count (R111). -/
def shlN (n a c : Nat) : Nat := if n ≤ c then 0 else a * 2 ^ c % 2 ^ n
/-- Logical right shift (R111). -/
def shrN (n a c : Nat) : Nat := if n ≤ c then 0 else a / 2 ^ c
/-- Arithmetic right shift: a count of n or more gives n copies of the sign (R111). -/
def sraN (n a c : Nat) : Nat := wrapU (signedOf a n / (2 ^ (if n ≤ c then n - 1 else c) : Nat)) n
/-- Left rotation by the count modulo n (R111). -/
def rotN (n a c : Nat) : Nat :=
  let c := c % n
  (a * 2 ^ c + a / 2 ^ (n - c)) % 2 ^ n

/-- Leading zero bits of an n-bit value (R115). -/
def clzN (n a : Nat) : Nat := if a = 0 then n else n - 1 - Nat.log2 a
/-- Trailing zero bits, searched in the lowest `k` bits. -/
def ctzFrom (a : Nat) : Nat → Nat
  | 0 => 0
  | k + 1 => if a % 2 = 1 then 0 else 1 + ctzFrom (a / 2) k
/-- Trailing zero bits of an n-bit value (R115). -/
def ctzN (n a : Nat) : Nat := ctzFrom a n
/-- One bits among the lowest `k` bits of `a` (R115). -/
def popcN (a : Nat) : Nat → Nat
  | 0 => 0
  | k + 1 => a % 2 + popcN (a / 2) k
/-- The bytes of a value in reverse order (R115). -/
def bswapN (a : Nat) : Nat → Nat
  | 0 => 0
  | k + 1 => (a % 256) * 2 ^ (8 * k) + bswapN (a / 256) k

/-- The two-operand operations of op7 0x10 (R111); `c` is the whole right operand. -/
inductive AluOp where
  | add | sub | and | or | xor | andn | shl | shr | sra | rot | min | max | minu | maxu
deriving DecidableEq, Repr, Inhabited

/-- The n-bit result of an operation of op7 0x10 (R111). -/
def AluOp.result (o : AluOp) (n a b c : Nat) : Nat :=
  match o with
  | .add => (a + b) % 2 ^ n
  | .sub => wrapU ((a : Int) - b) n
  | .and => a &&& b
  | .or => a ||| b
  | .xor => a ^^^ b
  | .andn => a &&& (2 ^ n - 1 - b)
  | .shl => shlN n a c
  | .shr => shrN n a c
  | .sra => sraN n a c
  | .rot => rotN n a c
  | .min => if signedOf a n ≤ signedOf b n then a else b
  | .max => if signedOf b n ≤ signedOf a n then a else b
  | .minu => if a ≤ b then a else b
  | .maxu => if b ≤ a then a else b

/-- The operations of op7 0x18 (R113). -/
inductive MulOp where
  | mul | mulh | mulhu | div | divu | rem | remu
deriving DecidableEq, Repr, Inhabited

/-- The n-bit result of an operation of op7 0x18, divisions by zero included (R113). -/
def MulOp.result (o : MulOp) (n a b : Nat) : Nat :=
  let sa := signedOf a n
  let sb := signedOf b n
  match o with
  | .mul => a * b % 2 ^ n
  | .mulh => wrapU (sa * sb / (2 ^ n : Nat)) n
  | .mulhu => a * b / 2 ^ n
  | .div => if b = 0 then 2 ^ n - 1 else wrapU (Int.tdiv sa sb) n
  | .divu => if b = 0 then 2 ^ n - 1 else a / b
  | .rem => if b = 0 then a else wrapU (Int.tmod sa sb) n
  | .remu => if b = 0 then a else a % b

/-- A division (R114). -/
def MulOp.divides : MulOp → Bool
  | .div | .divu | .rem | .remu => true
  | _ => false

/-- The one-operand operations with a width of op7 0x19 (R115). -/
inductive UnOp where
  | clz | ctz | popc | bswap | not | neg
deriving DecidableEq, Repr, Inhabited

/-- The n-bit result of an operation of op7 0x19 (R115). -/
def UnOp.result (o : UnOp) (n a : Nat) : Nat :=
  match o with
  | .clz => clzN n a
  | .ctz => ctzN n a
  | .popc => popcN a n
  | .bswap => bswapN a (n / 8)
  | .not => 2 ^ n - 1 - a
  | .neg => (2 ^ n - a) % 2 ^ n

/-- The tests of op7 0x1A (R116). -/
inductive TestOp where
  | teq | tne | tlt | tltu | tle | tleu
deriving DecidableEq, Repr, Inhabited

/-- Whether a test of op7 0x1A holds (R116). -/
def TestOp.holds (o : TestOp) (n a b : Nat) : Bool :=
  match o with
  | .teq => a == b
  | .tne => a != b
  | .tlt => decide (signedOf a n < signedOf b n)
  | .tltu => decide (a < b)
  | .tle => decide (signedOf a n ≤ signedOf b n)
  | .tleu => decide (a ≤ b)

/-- 1 or 0 as a 64-bit value. -/
def flag64 (b : Bool) : W64 := if b then 1 else 0

end Sys2Proof.Machine
end

