-- ==== Sys2Proof/Machine/Scalar.lean ====
section
/-!
DEFINITION. The scalar instructions (R65, R67, R68, R101 to R118): one shared operation fires a scalar instruction
of class S at the firing position; each instruction gives it its function of L, R and P.
-/

namespace Sys2Proof.Machine

/-- The outcome of a meaning. -/
abbrev Outcome := Host.Outcome State Fault Refusal

/-- A scalar instruction of class S fires (R43, R46, R101): null, or `f L R P` to every target. -/
def State.fireScalar (s : State) (pm : Pm) (ts : List (BitVec 8)) (f : W64 → W64 → W64 → W64) : State :=
  if s.offScalar pm then s.fireNull ts
  else s.fired.emit ts (.scalar (f s.slot.l.tok.scal s.slot.r.tok.scal s.slot.p.tok.scal))

/-- The value an operation of op7 0x10 sends (R103, R111). -/
def aluToken (o : AluOp) (w : Wid) (l r _p : W64) : W64 :=
  let n := w.bits
  sext64 n (o.result n (l.toNat % 2 ^ n) (r.toNat % 2 ^ n) r.toNat)

/-- The value an operation of op7 0x18 sends (R103, R113). -/
def mulToken (o : MulOp) (w : Wid) (l r _p : W64) : W64 :=
  let n := w.bits
  sext64 n (o.result n (l.toNat % 2 ^ n) (r.toNat % 2 ^ n))

/-- The value a one-operand operation of op7 0x19 sends (R103, R115). -/
def unToken (o : UnOp) (w : Wid) (l _r _p : W64) : W64 :=
  let n := w.bits
  sext64 n (o.result n (l.toNat % 2 ^ n))

/-- The value a test of op7 0x1A sends (R103, R116). -/
def testToken (o : TestOp) (w : Wid) (l r _p : W64) : W64 :=
  let n := w.bits
  flag64 (o.holds n (l.toNat % 2 ^ n) (r.toNat % 2 ^ n))

/-- A multiplication or division fires; a division by zero that fires non-null counts in ex8 at commit (R114). -/
def State.fireMul (s : State) (o : MulOp) (pm : Pm) (w : Wid) (ts : List (BitVec 8)) : State :=
  let zero := o.divides && s.slot.r.tok.scal.toNat % 2 ^ w.bits == 0
  let t := s.fireScalar pm ts (mulToken o w)
  if zero && !s.offScalar pm then t.events [(8, 1)] else t

/-- MOVH: T0 := L (R65, R107). -/
def execMovh (pm : Pm) (t0 : BitVec 8) (s : State) : Outcome :=
  .next (s.fireScalar pm [t0] fun l _ _ => l)

/-- NOTH: the bitwise complement (R65, R115). -/
def execNoth (pm : Pm) (t0 : BitVec 8) (s : State) : Outcome :=
  .next (s.fireScalar pm [t0] fun l _ _ => sext64 64 (UnOp.not.result 64 l.toNat))

/-- NEGH: the two's-complement negation, wrapping (R65, R115). -/
def execNegh (pm : Pm) (t0 : BitVec 8) (s : State) : Outcome :=
  .next (s.fireScalar pm [t0] fun l _ _ => sext64 64 (UnOp.neg.result 64 l.toNat))

/-- INCH: L + 1, wrapping (R65, R112). -/
def execInch (pm : Pm) (t0 : BitVec 8) (s : State) : Outcome :=
  .next (s.fireScalar pm [t0] fun l _ _ => sext64 64 (AluOp.add.result 64 l.toNat 1 1))

/-- DECH: L - 1, wrapping (R65, R112). -/
def execDech (pm : Pm) (t0 : BitVec 8) (s : State) : Outcome :=
  .next (s.fireScalar pm [t0] fun l _ _ => sext64 64 (AluOp.sub.result 64 l.toNat 1 1))

/-- NULLH: null to T0 when L is present (R65, R109). -/
def execNullh (pm : Pm) (t0 : BitVec 8) (s : State) : Outcome :=
  .next (s.fireNull [t0])

/-- TEQZ: 1 if L = 0, else 0 (R65, R116). -/
def execTeqz (pm : Pm) (t0 : BitVec 8) (s : State) : Outcome :=
  .next (s.fireScalar pm [t0] fun l _ _ => flag64 (TestOp.teq.holds 64 l.toNat 0))

/-- TNEZ: 1 if L is not 0, else 0 (R65, R116). -/
def execTnez (pm : Pm) (t0 : BitVec 8) (s : State) : Outcome :=
  .next (s.fireScalar pm [t0] fun l _ _ => flag64 (TestOp.tne.holds 64 l.toNat 0))

/-- TLTZ: 1 if L < 0 signed, else 0 (R65, R116). -/
def execTltz (pm : Pm) (t0 : BitVec 8) (s : State) : Outcome :=
  .next (s.fireScalar pm [t0] fun l _ _ => flag64 (TestOp.tlt.holds 64 l.toNat 0))

/-- TGEZ: 1 if L >= 0 signed, else 0 (R65, R116). -/
def execTgez (pm : Pm) (t0 : BitVec 8) (s : State) : Outcome :=
  .next (s.fireScalar pm [t0] fun l _ _ => flag64 (TestOp.tle.holds 64 0 l.toNat))

/-- SXB: bits [7:0] of L, sign-extended (R65, R115). -/
def execSxb (pm : Pm) (t0 : BitVec 8) (s : State) : Outcome :=
  .next (s.fireScalar pm [t0] fun l _ _ => sext64 8 l.toNat)

/-- SXH: bits [15:0] of L, sign-extended (R65, R115). -/
def execSxh (pm : Pm) (t0 : BitVec 8) (s : State) : Outcome :=
  .next (s.fireScalar pm [t0] fun l _ _ => sext64 16 l.toNat)

/-- SXW: bits [31:0] of L, sign-extended (R65, R115). -/
def execSxw (pm : Pm) (t0 : BitVec 8) (s : State) : Outcome :=
  .next (s.fireScalar pm [t0] fun l _ _ => sext64 32 l.toNat)

/-- ZXB: bits [7:0] of L, zero-extended (R65, R115). -/
def execZxb (pm : Pm) (t0 : BitVec 8) (s : State) : Outcome :=
  .next (s.fireScalar pm [t0] fun l _ _ => BitVec.ofNat 64 (l.toNat % 2 ^ 8))

/-- ZXH: bits [15:0] of L, zero-extended (R65, R115). -/
def execZxh (pm : Pm) (t0 : BitVec 8) (s : State) : Outcome :=
  .next (s.fireScalar pm [t0] fun l _ _ => BitVec.ofNat 64 (l.toNat % 2 ^ 16))

/-- ZXW: bits [31:0] of L, zero-extended (R65, R115). -/
def execZxw (pm : Pm) (t0 : BitVec 8) (s : State) : Outcome :=
  .next (s.fireScalar pm [t0] fun l _ _ => BitVec.ofNat 64 (l.toNat % 2 ^ 32))

/-- MOVI: imm14 sign-extended (R108). -/
def execMovi (pm : Pm) (imm : BitVec 14) (t0 : BitVec 8) (s : State) : Outcome :=
  .next (s.fireScalar pm [t0] fun _ _ _ => imm.signExtend 64)

/-- MOVHI: (L * 2^14 + imm14) mod 2^64, imm14 unsigned (R108). -/
def execMovhi (pm : Pm) (imm : BitVec 14) (t0 : BitVec 8) (s : State) : Outcome :=
  .next (s.fireScalar pm [t0] fun l _ _ => BitVec.ofNat 64 (l.toNat * 2 ^ 14 + imm.toNat))

/-- NULL: null to T0 and T1; fn 0 takes L, fn 1 is operand-free (R109). -/
def execNull (pm : Pm) (_n : Bool) (t1 t0 : BitVec 8) (s : State) : Outcome :=
  .next (s.fireNull [t0, t1])

/-- SEL: L if P is not 0, else R; null if any of the three is null (R110). -/
def execSel (t1 t0 : BitVec 8) (s : State) : Outcome :=
  .next (s.fireScalar .ternary [t0, t1] fun l r p => if p ≠ 0 then l else r)

/-- MOV: L to T0 and T1 (R107). -/
def execMov (pm : Pm) (t1 t0 : BitVec 8) (s : State) : Outcome :=
  .next (s.fireScalar pm [t0, t1] fun l _ _ => l)

/-- ADD (R103, R111). -/
def execAdd (pm : Pm) (w : Wid) (t1 t0 : BitVec 8) (s : State) : Outcome :=
  .next (s.fireScalar pm [t0, t1] (aluToken .add w))

/-- SUB (R103, R111). -/
def execSub (pm : Pm) (w : Wid) (t1 t0 : BitVec 8) (s : State) : Outcome :=
  .next (s.fireScalar pm [t0, t1] (aluToken .sub w))

/-- AND (R103, R111). -/
def execAnd (pm : Pm) (w : Wid) (t1 t0 : BitVec 8) (s : State) : Outcome :=
  .next (s.fireScalar pm [t0, t1] (aluToken .and w))

/-- OR (R103, R111). -/
def execOr (pm : Pm) (w : Wid) (t1 t0 : BitVec 8) (s : State) : Outcome :=
  .next (s.fireScalar pm [t0, t1] (aluToken .or w))

/-- XOR (R103, R111). -/
def execXor (pm : Pm) (w : Wid) (t1 t0 : BitVec 8) (s : State) : Outcome :=
  .next (s.fireScalar pm [t0, t1] (aluToken .xor w))

/-- ANDN (R103, R111). -/
def execAndn (pm : Pm) (w : Wid) (t1 t0 : BitVec 8) (s : State) : Outcome :=
  .next (s.fireScalar pm [t0, t1] (aluToken .andn w))

/-- SHL (R103, R111). -/
def execShl (pm : Pm) (w : Wid) (t1 t0 : BitVec 8) (s : State) : Outcome :=
  .next (s.fireScalar pm [t0, t1] (aluToken .shl w))

/-- SHR (R103, R111). -/
def execShr (pm : Pm) (w : Wid) (t1 t0 : BitVec 8) (s : State) : Outcome :=
  .next (s.fireScalar pm [t0, t1] (aluToken .shr w))

/-- SRA (R103, R111). -/
def execSra (pm : Pm) (w : Wid) (t1 t0 : BitVec 8) (s : State) : Outcome :=
  .next (s.fireScalar pm [t0, t1] (aluToken .sra w))

/-- ROT (R103, R111). -/
def execRot (pm : Pm) (w : Wid) (t1 t0 : BitVec 8) (s : State) : Outcome :=
  .next (s.fireScalar pm [t0, t1] (aluToken .rot w))

/-- MIN (R103, R111). -/
def execMin (pm : Pm) (w : Wid) (t1 t0 : BitVec 8) (s : State) : Outcome :=
  .next (s.fireScalar pm [t0, t1] (aluToken .min w))

/-- MAX (R103, R111). -/
def execMax (pm : Pm) (w : Wid) (t1 t0 : BitVec 8) (s : State) : Outcome :=
  .next (s.fireScalar pm [t0, t1] (aluToken .max w))

/-- MINU (R103, R111). -/
def execMinu (pm : Pm) (w : Wid) (t1 t0 : BitVec 8) (s : State) : Outcome :=
  .next (s.fireScalar pm [t0, t1] (aluToken .minu w))

/-- MAXU (R103, R111). -/
def execMaxu (pm : Pm) (w : Wid) (t1 t0 : BitVec 8) (s : State) : Outcome :=
  .next (s.fireScalar pm [t0, t1] (aluToken .maxu w))

/-- ADDI: on 64 bits with imm14 sign-extended (R112). -/
def execAddi (pm : Pm) (imm : BitVec 14) (t0 : BitVec 8) (s : State) : Outcome :=
  .next (s.fireScalar pm [t0] fun l _ p => aluToken .add .w64 l (imm.signExtend 64) p)

/-- ANDI: on 64 bits with imm14 sign-extended (R112). -/
def execAndi (pm : Pm) (imm : BitVec 14) (t0 : BitVec 8) (s : State) : Outcome :=
  .next (s.fireScalar pm [t0] fun l _ p => aluToken .and .w64 l (imm.signExtend 64) p)

/-- ORI: on 64 bits with imm14 sign-extended (R112). -/
def execOri (pm : Pm) (imm : BitVec 14) (t0 : BitVec 8) (s : State) : Outcome :=
  .next (s.fireScalar pm [t0] fun l _ p => aluToken .or .w64 l (imm.signExtend 64) p)

/-- XORI: on 64 bits with imm14 sign-extended (R112). -/
def execXori (pm : Pm) (imm : BitVec 14) (t0 : BitVec 8) (s : State) : Outcome :=
  .next (s.fireScalar pm [t0] fun l _ p => aluToken .xor .w64 l (imm.signExtend 64) p)

/-- SHLI: on 64 bits with imm14 sign-extended (R112). -/
def execShli (pm : Pm) (imm : BitVec 14) (t0 : BitVec 8) (s : State) : Outcome :=
  .next (s.fireScalar pm [t0] fun l _ p => aluToken .shl .w64 l (imm.signExtend 64) p)

/-- SHRI: on 64 bits with imm14 sign-extended (R112). -/
def execShri (pm : Pm) (imm : BitVec 14) (t0 : BitVec 8) (s : State) : Outcome :=
  .next (s.fireScalar pm [t0] fun l _ p => aluToken .shr .w64 l (imm.signExtend 64) p)

/-- SRAI: on 64 bits with imm14 sign-extended (R112). -/
def execSrai (pm : Pm) (imm : BitVec 14) (t0 : BitVec 8) (s : State) : Outcome :=
  .next (s.fireScalar pm [t0] fun l _ p => aluToken .sra .w64 l (imm.signExtend 64) p)

/-- MUL (R103, R113). -/
def execMul (pm : Pm) (w : Wid) (t1 t0 : BitVec 8) (s : State) : Outcome :=
  .next (s.fireMul .mul pm w [t0, t1])

/-- MULH (R103, R113). -/
def execMulh (pm : Pm) (w : Wid) (t1 t0 : BitVec 8) (s : State) : Outcome :=
  .next (s.fireMul .mulh pm w [t0, t1])

/-- MULHU (R103, R113). -/
def execMulhu (pm : Pm) (w : Wid) (t1 t0 : BitVec 8) (s : State) : Outcome :=
  .next (s.fireMul .mulhu pm w [t0, t1])

/-- DIV (R103, R113, R114). -/
def execDiv (pm : Pm) (w : Wid) (t1 t0 : BitVec 8) (s : State) : Outcome :=
  .next (s.fireMul .div pm w [t0, t1])

/-- DIVU (R103, R113, R114). -/
def execDivu (pm : Pm) (w : Wid) (t1 t0 : BitVec 8) (s : State) : Outcome :=
  .next (s.fireMul .divu pm w [t0, t1])

/-- REM (R103, R113, R114). -/
def execRem (pm : Pm) (w : Wid) (t1 t0 : BitVec 8) (s : State) : Outcome :=
  .next (s.fireMul .rem pm w [t0, t1])

/-- REMU (R103, R113, R114). -/
def execRemu (pm : Pm) (w : Wid) (t1 t0 : BitVec 8) (s : State) : Outcome :=
  .next (s.fireMul .remu pm w [t0, t1])

/-- CLZ (R103, R115). -/
def execClz (pm : Pm) (w : Wid) (t1 t0 : BitVec 8) (s : State) : Outcome :=
  .next (s.fireScalar pm [t0, t1] (unToken .clz w))

/-- CTZ (R103, R115). -/
def execCtz (pm : Pm) (w : Wid) (t1 t0 : BitVec 8) (s : State) : Outcome :=
  .next (s.fireScalar pm [t0, t1] (unToken .ctz w))

/-- POPC (R103, R115). -/
def execPopc (pm : Pm) (w : Wid) (t1 t0 : BitVec 8) (s : State) : Outcome :=
  .next (s.fireScalar pm [t0, t1] (unToken .popc w))

/-- SEXT.b: bits [7:0] of L, sign-extended (R115). -/
def execSextB (pm : Pm) (t1 t0 : BitVec 8) (s : State) : Outcome :=
  .next (s.fireScalar pm [t0, t1] fun l _ _ => sext64 8 l.toNat)

/-- SEXT.h: bits [15:0] of L, sign-extended (R115). -/
def execSextH (pm : Pm) (t1 t0 : BitVec 8) (s : State) : Outcome :=
  .next (s.fireScalar pm [t0, t1] fun l _ _ => sext64 16 l.toNat)

/-- SEXT.w: bits [31:0] of L, sign-extended (R115). -/
def execSextW (pm : Pm) (t1 t0 : BitVec 8) (s : State) : Outcome :=
  .next (s.fireScalar pm [t0, t1] fun l _ _ => sext64 32 l.toNat)

/-- ZEXT.b: bits [7:0] of L, zero-extended (R115). -/
def execZextB (pm : Pm) (t1 t0 : BitVec 8) (s : State) : Outcome :=
  .next (s.fireScalar pm [t0, t1] fun l _ _ => BitVec.ofNat 64 (l.toNat % 2 ^ 8))

/-- ZEXT.h: bits [15:0] of L, zero-extended (R115). -/
def execZextH (pm : Pm) (t1 t0 : BitVec 8) (s : State) : Outcome :=
  .next (s.fireScalar pm [t0, t1] fun l _ _ => BitVec.ofNat 64 (l.toNat % 2 ^ 16))

/-- ZEXT.w: bits [31:0] of L, zero-extended (R115). -/
def execZextW (pm : Pm) (t1 t0 : BitVec 8) (s : State) : Outcome :=
  .next (s.fireScalar pm [t0, t1] fun l _ _ => BitVec.ofNat 64 (l.toNat % 2 ^ 32))

/-- BSWAP (R103, R115). -/
def execBswap (pm : Pm) (w : Wid) (t1 t0 : BitVec 8) (s : State) : Outcome :=
  .next (s.fireScalar pm [t0, t1] (unToken .bswap w))

/-- NOT (R103, R115). -/
def execNot (pm : Pm) (w : Wid) (t1 t0 : BitVec 8) (s : State) : Outcome :=
  .next (s.fireScalar pm [t0, t1] (unToken .not w))

/-- NEG (R103, R115). -/
def execNeg (pm : Pm) (w : Wid) (t1 t0 : BitVec 8) (s : State) : Outcome :=
  .next (s.fireScalar pm [t0, t1] (unToken .neg w))

/-- TEQ (R103, R116). -/
def execTeq (pm : Pm) (w : Wid) (t1 t0 : BitVec 8) (s : State) : Outcome :=
  .next (s.fireScalar pm [t0, t1] (testToken .teq w))

/-- TNE (R103, R116). -/
def execTne (pm : Pm) (w : Wid) (t1 t0 : BitVec 8) (s : State) : Outcome :=
  .next (s.fireScalar pm [t0, t1] (testToken .tne w))

/-- TLT (R103, R116). -/
def execTlt (pm : Pm) (w : Wid) (t1 t0 : BitVec 8) (s : State) : Outcome :=
  .next (s.fireScalar pm [t0, t1] (testToken .tlt w))

/-- TLTU (R103, R116). -/
def execTltu (pm : Pm) (w : Wid) (t1 t0 : BitVec 8) (s : State) : Outcome :=
  .next (s.fireScalar pm [t0, t1] (testToken .tltu w))

/-- TLE (R103, R116). -/
def execTle (pm : Pm) (w : Wid) (t1 t0 : BitVec 8) (s : State) : Outcome :=
  .next (s.fireScalar pm [t0, t1] (testToken .tle w))

/-- TLEU (R103, R116). -/
def execTleu (pm : Pm) (w : Wid) (t1 t0 : BitVec 8) (s : State) : Outcome :=
  .next (s.fireScalar pm [t0, t1] (testToken .tleu w))

/-- TLTI: 1 if L < imm14 sign-extended, signed (R116). -/
def execTlti (pm : Pm) (imm : BitVec 14) (t0 : BitVec 8) (s : State) : Outcome :=
  .next (s.fireScalar pm [t0] fun l _ p => testToken .tlt .w64 l (imm.signExtend 64) p)

/-- TEQI: 1 if L = imm14 sign-extended (R116). -/
def execTeqi (pm : Pm) (imm : BitVec 14) (t0 : BitVec 8) (s : State) : Outcome :=
  .next (s.fireScalar pm [t0] fun l _ p => testToken .teq .w64 l (imm.signExtend 64) p)

/-- LEA: (L + R * 2^h) mod 2^64 (R117). -/
def execLea (pm : Pm) (h : BitVec 2) (t1 t0 : BitVec 8) (s : State) : Outcome :=
  .next (s.fireScalar pm [t0, t1] fun l r _ => BitVec.ofNat 64 (l.toNat + r.toNat * 2 ^ h.toNat))

/-- MIX of counter L[31:0] and key R[31:0], zero-extended (R118). -/
def execMix (pm : Pm) (t1 t0 : BitVec 8) (s : State) : Outcome :=
  .next (s.fireScalar pm [t0, t1] fun l r _ => BitVec.ofNat 64 (mix l.toNat r.toNat))

end Sys2Proof.Machine
end

