-- ==== Sys2Proof/Machine/BlockControl.lean ====
section
/-!
DEFINITION. Reading and writing registers by RD, RDT and WR (R85, R104, R105), and the exits of the scalar
chapter (R119, R120).
-/

namespace Sys2Proof.Machine

/-- The number of a register file in a trap record (R359). -/
def RegFile.num : RegFile → Nat
  | .gr => 0 | .pr => 1 | .vr => 2 | .ox => 3

/-- VUNDEF of a register that is EMPTY or INVALID (R85). -/
def vundef (f : RegFile) (r : Nat) (st : RegState) : Cause :=
  { code := .vundef, sub := r, file := f.num, emp := st == .empty }

/-- RD (R85, R104): the value of a FULL register to T0 and T1; an EMPTY one parks the context, so nothing fires;
an INVALID one raises VUNDEF. -/
def execRd (cls : RegFile) (r : BitVec 6) (t1 t0 : BitVec 8) (s : State) : Outcome :=
  match s.cctx.regState cls r.toNat with
  | .full => .next (s.fired.emit [t0, t1] (s.cctx.regTok cls r.toNat))
  | .empty => .next s
  | .invalid => .next (s.raise (vundef cls r.toNat .invalid))

/-- RDT (R85, R104): the value of a FULL register to T0 and T1; any other raises VUNDEF. -/
def execRdt (cls : RegFile) (r : BitVec 6) (t1 t0 : BitVec 8) (s : State) : Outcome :=
  match s.cctx.regState cls r.toNat with
  | .full => .next (s.fired.emit [t0, t1] (s.cctx.regTok cls r.toNat))
  | st => .next (s.raise (vundef cls r.toNat st))

/-- WR (R48, R86, R105): records the write for the commit; a null scalar or an all-null vector writes nothing. -/
def execWr (cls : RegFile) (r : BitVec 6) (s : State) : Outcome :=
  let k := s.slot.l.tok
  .next (if k.isNull then s.fired true else s.fired false (.wr cls r.toNat k))

/-- The target of a WB-form exit: block start + off22 * 8, modulo 2^48 (R40, R120). -/
def wbTarget (addr : Nat) (off : BitVec 22) : Nat := wrapU ((addr : Int) + off.toInt * 8) 48

/-- The first 8-byte boundary after the block's last byte (R67, R120). -/
def Block.link (b : Block) : Nat := (b.addr + b.bytes) % 2 ^ 48

/-- A WB-form exit fires (R120). -/
def State.fireBranch (s : State) (pm : Pm) (k : ExitKind) (off : BitVec 22) : State :=
  if s.offScalar pm then s.fired true
  else s.fireExit { kind := k, target := wbTarget s.cblk.addr off }

/-- An exit to the address L fires: ALIGN if L is not a multiple of 8, XLAT if L[63:48] is not 0 (R120). DESIGN CHOICE (log entry 65): of a
second non-null exit with such an address this fault is raised, not BLKFMT. -/
def State.fireJump (s : State) (pm : Pm) (k : ExitKind) : State :=
  if s.offScalar pm then s.fired true
  else
    let l := s.slot.l.tok.scal.toNat
    if l % 8 ≠ 0 then s.raise { code := .align, va := l }
    else if 2 ^ 48 ≤ l then s.raise { code := .xlat, va := l }
    else s.fireExit { kind := k, target := l }

/-- RETH (R119, R120). -/
def execReth (pm : Pm) (s : State) : Outcome := .next (s.fireJump pm .ret)
/-- BR (R119, R120). -/
def execBr (pm : Pm) (off : BitVec 22) (s : State) : Outcome := .next (s.fireBranch pm .br off)
/-- BRI (R119, R120). -/
def execBri (pm : Pm) (s : State) : Outcome := .next (s.fireJump pm .bri)
/-- CALL: the link goes to g1 at commit (R119, R120). -/
def execCall (pm : Pm) (off : BitVec 22) (s : State) : Outcome := .next (s.fireBranch pm .call off)
/-- CALLI: the link goes to g1 at commit (R119, R120). -/
def execCalli (pm : Pm) (s : State) : Outcome := .next (s.fireJump pm .calli)
/-- RET (R119, R120). -/
def execRet (pm : Pm) (s : State) : Outcome := .next (s.fireJump pm .ret)

end Sys2Proof.Machine
end

