-- ==== Sys2Proof/Machine/Translate.lean ====
section
/-!
DEFINITION. Translation (R192, R197, R199, R202, R204, R209, R291 to R293): the translation buffers, the table walk
with its checks, the time of a miss, and how an instruction at the firing position looks up an address.
-/

namespace Sys2Proof.Machine

/-- The class of a code (R27); codes 5 to 7 are reserved. -/
def PageClass.ofCode (n : Nat) : Option PageClass :=
  match n with
  | 0 => some .priv | 1 => some .lat | 2 => some .sched | 3 => some .hostm | 4 => some .code
  | _ => none

/-- The lattice type of a code (R210); code 7 is none. -/
def LType.ofCode (n : Nat) : Option LType :=
  match n with
  | 0 => some .max | 1 => some .min | 2 => some .or | 3 => some .cnt | 4 => some .sum | 5 => some .once
  | 6 => some .fill | _ => none

/-- The combinations of a LAT page or frame that R209 allows. -/
def latAttr? (ty width sgn fsz : Nat) : Option LatAttr :=
  match LType.ofCode ty with
  | none => none
  | some t =>
    let bad := (sgn == 1 && !(t == .max || t == .min)) || (t == .sum && width != 3)
      || (t == .fill && (width != 0 || decide (10 < fsz))) || (t != .fill && fsz != 0)
    if bad then none else some ⟨t, width, sgn == 1, fsz⟩

/-- A leaf entry as a walk accepts it (R291, R292), or none where it raises XLAT. -/
def leafOf (e : Nat) (big : Bool) : Option Leaf :=
  let fr := bitsOf e 20 36
  if bitOf e 0 == false || bitsOf e 87 41 != 0 || bitsOf e 56 8 != 0 || bitOf e 17 then none
  else if big && fr % 4096 != 0 then none
  else if !paOk (fr * 65536) then none
  else
    match PageClass.ofCode (bitsOf e 3 3) with
    | none => none
    | some k =>
      let oc := bitsOf e 64 15
      let la := latAttr? (bitsOf e 6 3) (bitsOf e 9 2) (bitsOf e 11 1) (bitsOf e 12 4)
      if k == .lat && la.isNone then none
      else if k == .priv && decide (26112 ≤ oc) then none
      else if k == .hostm && !(decide (26112 ≤ oc) && decide (oc < 26116)) then none
      else some { cls := k, lat := la.getD {}, wr := bitOf e 16, isAlias := bitOf e 19, shadow := bitOf e 18
                  opkg := bitsOf e 79 8, ocore := oc, frame := fr, big := big }

/-- The frame a pointer entry names (R292), or none where it raises XLAT. -/
def pointerOf (e : Nat) : Option Nat :=
  if bitOf e 0 && bitsOf e 1 2 == 2 && bitsOf e 87 41 == 0 && bitsOf e 56 8 == 0 && !bitOf e 17
      && paOk (bitsOf e 20 36 * 65536) then some (bitsOf e 20 36) else none

/-- A walk (R292): the addresses of the entries it reads, in order, and the leaf it finds. -/
def State.walk (s : State) (p asid va : Nat) : List Nat × Option Leaf :=
  let root := ((s.pkg p).roots.get 0 asid).toNat
  if !bitOf root 0 then ([], none)
  else
    let a1 := bitsOf root 12 40 * 4096 + bitsOf va 40 8 * 16
    match pointerOf (s.readN a1 16) with
    | none => ([a1], none)
    | some f1 =>
      let a2 := f1 * 65536 + bitsOf va 28 12 * 16
      let e2 := s.readN a2 16
      if bitsOf e2 1 2 == 1 then ([a1, a2], leafOf e2 true)
      else
        match pointerOf e2 with
        | none => ([a1, a2], none)
        | some f2 =>
          let a3 := f2 * 65536 + bitsOf va 16 12 * 16
          let e3 := s.readN a3 16
          ([a1, a2, a3], if bitsOf e3 1 2 == 0 then leafOf e3 false else none)

/-- The virtual page of an address, by the size of its leaf. -/
def vpageOf (big : Bool) (va : Nat) : Nat := if big then va / 2 ^ 28 else va / 2 ^ 16

/-- A translation buffer's entry for an address (R204). -/
def TlbEntry.maps (e : TlbEntry) (asid gen va : Nat) : Bool :=
  e.asid == asid && e.gen == gen && e.vpage == vpageOf e.leaf.big va

/-- The leaf a buffer holds for an address. -/
def tlbFind (l : List TlbEntry) (asid gen va : Nat) : Option Leaf := (l.find? fun e => e.maps asid gen va).map (·.leaf)

/-- A buffer with an entry made most recently used, at most `n` entries, the least recently used replaced (R204). -/
def tlbPut (l : List TlbEntry) (n : Nat) (e : TlbEntry) : List TlbEntry :=
  (e :: l.filter fun f => !(f.asid == e.asid && f.gen == e.gen && f.vpage == e.vpage && f.leaf.big == e.leaf.big)).take n

/-- The physical address of a virtual one under a leaf. -/
def Leaf.pa (l : Leaf) (va : Nat) : Nat := if l.big then l.frame * 65536 + va % 2 ^ 28 else l.frame * 65536 + va % 65536

/-- The owner core of a leaf (R197). -/
def Leaf.owner (l : Leaf) : Nat := coreKey l.opkg l.ocore

/-- The first-level buffer's leaf for an address of a context. -/
def State.leaf? (s : State) (c asid gen va : Nat) : Option Leaf := tlbFind (s.core c).tlb asid gen va

/-- Marks a first-level entry most recently used (R204). -/
def State.touchTlb (s : State) (c asid gen va : Nat) : State :=
  match s.leaf? c asid gen va with
  | none => s
  | some l => s.modCore c fun k => { k with tlb := tlbPut k.tlb 64 ⟨asid, gen, vpageOf l.big va, l⟩ }

/-- The time of a line that is not in the slice (R199, R221; log entry 5): an open row, a closed one, or one behind refresh. -/
def State.dramTime (s : State) : Nat × State :=
  let (n, s) := s.draw
  let k := Config.lineCase n % 3
  (if k = 0 then 96 else if k = 1 then 160 else 160 + Config.refreshWait n % 281, s)

/-- The cycle in which a line that a crystalliser wants in cycle `t` is in its slice (R199, R219, R221): that cycle; the one in which it
comes if it is on its way; else after its time from DRAM, and the line is on its way. -/
def State.lineRead (s : State) (h line t : Nat) : Nat × State :=
  if (s.xtal h).slice.contains line then (t, s)
  else match s.agenda.find? fun e => e.2 == .dramLineFill h line with
  | some e => (max t e.1, s)
  | none =>
    let (x, s) := s.dramTime
    if ((s.xtal h).lineWait.get? line).isSome then (t + x, s)
    else (t + x, (s.modXtal h fun k => { k with lineWait := k.lineWait.put line [] }).sched (t + x) (.dramLineFill h line))

/-- The end of the reads of a walk that leave the die's buffer from cycle `t` on, one after another (R204). -/
def State.walkEnd (s : State) (d : Nat) : Nat → List Nat → Nat × State
  | t, [] => (t, s)
  | t, a :: as =>
    let m := meshTime (dieRouter d) (xtalRouter (homeOf a))
    let (u, s) := s.lineRead (homeOf a) (a / 64) (t + 2 + m)
    State.walkEnd s d (u + 14 + m) as

/-- Starts the translation of an address after a first-level miss (R204): a walk that ends when the last-level
buffer or the table has answered. -/
def State.startWalk (s : State) (c x serial asid gen va : Nat) (slot : Option Nat) : State :=
  let d := dieOf c
  let base := 2 * meshTime (routerOf c) (dieRouter d) + 6
  let (t, s) := match tlbFind (s.die d).tlb asid gen va with
    | some _ => (s.now + base, s)
    | none => s.walkEnd d (s.now + base) (s.walk (pkgOf c) asid va).1
  s.sched t (.translationWalk c x serial asid gen va slot)

/-- What an instruction finds at an address (R192, R202, R240): local memory, the guard range, no translation, a leaf,
or a first-level miss. -/
inductive Area where
  | local
  | guard
  | high
  | leaf (l : Leaf)
  | miss
deriving DecidableEq, Repr, Inhabited

/-- The area of an address for the context at the firing position. -/
def State.area (s : State) (va : Nat) : Area :=
  if va < 0x60000 then .local
  else if va < 0x100000 then .guard
  else if 2 ^ 48 ≤ va then .high
  else
    match s.leaf? s.cur.core s.cctx.asid s.cctx.gen va with
    | some l => .leaf l
    | none => .miss

/-- The current slot waits for the translation of an address; it fires again when the walk ends (R240). -/
def State.awaitWalk (s : State) (va : Nat) : State :=
  (s.modBlock s.cur.core s.cur.ctx fun b => b.modSlot s.cur.slot fun q => { q with walking := true }).startWalk
    s.cur.core s.cur.ctx s.cctx.serial s.cctx.asid s.cctx.gen va (some s.cur.slot)

/-- Looks up an address for the current instruction: the leaf goes on to `k`; the guard raises LBOUND, an address
without translation XLAT, local memory what `loc` says; a miss waits for the walk. -/
def State.withLeaf (s : State) (va : Nat) (loc : State → State) (k : Leaf → State → State) : State :=
  match s.area va with
  | .local => loc s
  | .guard => s.raise { code := .lbound, va := va }
  | .high => s.raise { code := .xlat, va := va }
  | .miss => s.awaitWalk va
  | .leaf l => k l (s.touchTlb s.cur.core s.cctx.asid s.cctx.gen va)

/-- The access of a lattice instruction, as R240 orders its checks: rows 1 and 2, then what `k` says of the leaf. -/
def State.withPage (s : State) (va : Nat) (k : Leaf → State → State) : State :=
  s.withLeaf va (fun s => s.raise { code := .prot, va := va }) fun l s =>
    if l.isAlias then s.raise { code := .prot, va := va } else k l s

/-- The walk of a page inside a freeze range ends (R249): the slot keeps what was found. -/
def Slot.answered (q : Slot) (va : Nat) (l : Option Leaf) : Slot :=
  if q.probe = some va then { q with probe := none, probed := q.probed ++ [(va, l)] } else q

/-- The slot's walk is for a page inside a freeze range. -/
def State.probing (s : State) (c x k va : Nat) : Bool :=
  match (s.ctx c x).blk with
  | some b => (b.slots.getD k {}).probe == some va
  | none => false

/-- TRANSLATION_WALK (R204, R292): the walk of a first-level miss ends. Both buffers take the leaf and the instruction,
fetch, copy run or check of a copy command that waited goes on; without a leaf it raises XLAT, but for a page inside a freeze range. A
fenced core's buffer takes nothing (R369). -/
def execTranslationWalk (s : State) : Outcome :=
  match s.ev with
  | .translationWalk c x serial asid gen va slot =>
    let d := dieOf c
    let found := match tlbFind (s.die d).tlb asid gen va with
      | some l => some l
      | none => (s.walk (pkgOf c) asid va).2
    let s := match found with
      | none => s
      | some l =>
        let e : TlbEntry := ⟨asid, gen, vpageOf l.big va, l⟩
        (s.modDie d fun k => { k with tlb := tlbPut k.tlb 2048 e }).modCore c fun k =>
          if k.fenced then k else { k with tlb := tlbPut k.tlb 64 e }
    if x = 16 then
      if serial % 2 = 1 then
        let s := s.modCore c fun k => { k with copying := k.copying.map fun r =>
          if r.cmd.id = serial / 2 then { r with walking := false, noMap := if found.isSome then r.noMap else va :: r.noMap } else r }
        .next (s.sched s.now (.copyRun c))
      else
        let s := s.modCore c fun k => { k with copyq := k.copyq.map fun m =>
          if m.id = serial / 2 then { m with walking := false, pages := (va / 65536, found) :: m.pages } else m }
        .next (s.sched s.now (.copyCommandBegin c))
    else if (s.ctx c x).serial ≠ serial then .next s
    else
      match slot, found with
      | some k, _ =>
        if found.isSome || s.probing c x k va then
          let s := s.modBlock c x fun b => b.modSlot k fun q => q.answered va found
          .next { s with replay := s.replay ++ [(c, x, serial, k)] }
        else .next (s.doom c x k { code := .xlat, va := va })
      | none, some _ => .next (s.sched s.now (.blockFetch c x))
      | none, none =>
        .next (s.modCtx c x fun t =>
          { t with blk := some ⟨va, 0, 0, 0, [], s.nextRot c, none, [], [], [], some ({ code := .xlat, va := va }, 0)⟩
                   fetch := none })
  | _ => .next s

end Sys2Proof.Machine
end

