-- ==== Sys2Proof/Machine/Fetch.lean ====
section
/-!
DEFINITION. Block fetch (R34 to R42, R121, R206, R304): the block cache, the decoding of a block's units, the fetch
checks, and the two steps that bring a block into a context's window.
-/

namespace Sys2Proof.Machine

/-- The cached line with a base address (R206). -/
def cacheLine? (l : List CacheLine) (asid gen va : Nat) : Option CacheLine :=
  l.find? fun e => e.asid == asid && e.gen == gen && e.va == va

/-- A line brought into its set of 8 ways, the least recently used way replaced (R206). -/
def cachePut (l : List CacheLine) (e : CacheLine) : List CacheLine :=
  let rest := l.filter fun f => !(f.asid == e.asid && f.gen == e.gen && f.va == e.va)
  let set := rest.filter fun f => f.va / 64 % 64 == e.va / 64 % 64
  let keep := match set.drop 7 with
    | [] => rest
    | dead => rest.filter fun f => !dead.contains f
  e :: keep

/-- The lines that `n` bytes from an address on span made most recently used, in ascending address (R206). -/
def cacheTouch (l : List CacheLine) (asid gen a n : Nat) : List CacheLine :=
  (List.range ((a % 64 + n + 63) / 64)).foldl (fun l i =>
    match cacheLine? l asid gen ((a / 64 + i) * 64) with
    | some e => cachePut l e
    | none => l) l

/-- What the decoding of a block comes to. -/
inductive Parsed where
  | wait (line : Nat)                        -- a line it needs is not present
  | bad (c : FaultCode)
  | ok (slots : List Slot) (bytes : Nat)
deriving DecidableEq, Repr, Inhabited

/-- A byte of the block, if its line is present. -/
def lineByte (l : List CacheLine) (asid gen a : Nat) : Option Byte :=
  (cacheLine? l asid gen (a / 64 * 64)).map fun e => e.bytes.getD (a % 64) 0

/-- `n` bytes as a little-endian value (R2). -/
def lineBytes (l : List CacheLine) (asid gen a : Nat) : Nat → Option Nat
  | 0 => some 0
  | n + 1 =>
    match lineByte l asid gen a, lineBytes l asid gen (a + 1) n with
    | some b, some v => some (b.toNat + 256 * v)
    | _, _ => none

/-- The slots that one 4-byte unit holds (R37), at most `left` of them; the halfword after the last must be zero. DESIGN CHOICE (log entry
54): of two halfwords the lower one is decoded in full before R37 is applied to the upper one. -/
def unitSlots (u left : Nat) : Except FaultCode (List Slot) :=
  if 2 ^ 31 ≤ u then
    match decodeWord true u with
    | .ok _ => .ok [{ word := u, half := false }]
    | .error c => .error c
  else
    let half (h : Nat) : Except FaultCode (List Slot) :=
      if h = 0 then .ok []
      else match decodeWord false h with
        | .ok _ => .ok [{ word := h, half := true }]
        | .error c => .error c
    match half (u % 65536) with
    | .error c => .error c
    | .ok a =>
      if left ≤ a.length then (if u / 65536 = 0 then .ok a else .error .blkfmt)
      else match half (u / 65536) with
        | .error c => .error c
        | .ok b => .ok (a ++ b)

/-- Decodes the body from the address `a` on until `left` instructions are read (R37); the fuel is the units of a
64 KiB page. -/
def parseBody (l : List CacheLine) (asid gen base : Nat) : Nat → Nat → Nat → List Slot → Parsed
  | 0, _, _, _ => .bad .blkfmt
  | fuel + 1, a, left, acc =>
    if left = 0 then
      -- the rest up to the 8-byte boundary is zero
      if a % 8 = 0 then .ok acc (a - base)
      else match lineBytes l asid gen a 4 with
        | none => .wait (a / 64 * 64)
        | some u => if u = 0 then .ok acc (a + 4 - base) else .bad .blkfmt
    else if a / 65536 ≠ base / 65536 then .bad .blkfmt
    else match lineBytes l asid gen a 4 with
      | none => .wait (a / 64 * 64)
      | some u =>
        match unitSlots u left with
        | .error c => .bad c
        | .ok ks => parseBody l asid gen base fuel (a + 4) (left - ks.length) (acc ++ ks)

/-- The header checks of R42's first row. -/
def headerOk (h : Nat) : Bool :=
  bitsOf h 24 8 == 0xFF && bitsOf h 4 4 == 0 && (bitOf h 3 || bitsOf h 13 5 == 0) && decide (bitsOf h 8 5 ≤ 16)

/-- The need of the position a target byte names (R41). -/
def needAt (n : Need × Need × Need) (kind : Nat) : Need := if kind = 0 then n.1 else if kind = 1 then n.2.1 else n.2.2

/-- The target checks of one slot (R41, R42). DESIGN CHOICE (log entry 54): two targets that name one link queue fail as two that name one
operand do. -/
def targetsOk (is : List Instr) (x k : Nat) (i : Instr) : Bool :=
  let ts := i.targets
  (ts.zip (List.range 2)).all (fun (t, j) =>
    let b := t.toNat
    if b = 0 then true
    else if b / 64 = 3 then decide (b % 64 < 4) && x == 1 && !i.targetVec j
    else
      decide (k < b % 64) && decide (b % 64 < is.length) &&
        (match needAt ((is.getD (b % 64) .hbiWrite).needs) (b / 64) with
          | .none => false
          | .scal => !i.targetVec j
          | .vec => i.targetVec j)) &&
  (match ts with
    | [a, b] => a == 0 || a != b
    | _ => true)

/-- The number of producers of an operand position (R45). -/
def fanIn (is : List Instr) (k kind : Nat) : Nat :=
  (is.map fun i => (i.targets.filter fun t => t.toNat == kind * 64 + k && t != 0).length).sum

/-- The registers that WRs of a block name. -/
def wrRegs (is : List Instr) : List (RegFile × Nat) :=
  is.filterMap fun i => match i with
    | .wr c r => some (c, r.toNat)
    | _ => none

/-- The elements of a list are different. -/
def distinct {α : Type} [DecidableEq α] : List α → Bool
  | [] => true
  | a :: l => !l.contains a && distinct l

/-- The checks of the slots and of the whole block (R42 steps 3 and 4, R92, R106, R172, R177, R346): every one of them
raises BLKFMT. DESIGN CHOICE (log entry 75): two calls of one block are not two writers of g1. -/
def blockOk (hdr : Nat) (x : Nat) (is : List Instr) : Bool :=
  let lsv := bitOf hdr 3
  let lsids := is.filterMap (·.lsid?)
  let pro := is.takeWhile fun i => match i with
    | .rd .. | .rdt .. => true
    | _ => false
  let wrs := wrRegs is
  let dests := is.filterMap (·.dest?)
  let tiled := is.filterMap fun i => match i with
    | .tckv .. | .trow .. => i.dest?
    | _ => none
  (is.zip (List.range 64)).all (fun (i, k) => targetsOk is x k i)
    && (is.drop pro.length).all (fun i => match i with
      | .rd .. | .rdt .. => false
      | _ => true)
    && (lsv || lsids.isEmpty)
    && (is.zip (List.range 64)).all (fun (i, k) =>
      [0, 1, 2].all fun kind => needAt i.needs kind == .none || decide (0 < fanIn is k kind))
    && distinct wrs && wrs.all (fun w => !dests.contains w)
    && (!lsv || lsids == List.range (bitsOf hdr 13 5 + 1))
    && decide ((is.filter (·.vecOut)).length ≤ bitsOf hdr 8 5)
    && is.any (·.isExit)
    && (bitOf hdr 2 || is.all fun i => !i.ordered)
    && (bitOf hdr 1 || is.all fun i => match i with
      | .wctl _ cn | .sctl _ cn | .cctl _ cn => !(decide (0x010 ≤ cn.toNat) && decide (cn.toNat ≤ 0x013))
      | _ => true)
    && (!(wrs ++ dests).contains (.gr, 1) || is.all fun i => match i with
      | .call .. | .calli .. => false
      | _ => true)
    && decide ((is.filter (·.isTile)).length ≤ 8) && distinct tiled
    && (!wrs.contains (.ox, 7) || is.all fun i => match i with
      | .fork .. => false
      | _ => true)

/-- The slots with the fan-ins of their positions. -/
def withFanIn (is : List Instr) (ks : List Slot) : List Slot :=
  (ks.zip (List.range 64)).map fun (q, k) =>
    { q with l := { fan := fanIn is k 0 }, r := { fan := fanIn is k 1 }, p := { fan := fanIn is k 2 } }

/-- A block whose fetch failed: nothing fires, and the fault is raised in the context's first slot of it (R42). -/
def badBlock (addr firstAt : Nat) (k : Cause) : Block := ⟨addr, 0, 0, 0, [], firstAt, none, [], [], [], some (k, 0)⟩

/-- Puts a block into a context's window (R55). -/
def State.install (s : State) (c x : Nat) (b : Block) : State :=
  s.modCtx c x fun t => { t with blk := some b, fetch := none, serial := t.serial + 1, lvq := [] }

/-- A breakpoint that matches the block (R304), with its action. -/
def State.bkptMatch (s : State) (c x addr : Nat) : Option Nat :=
  if x = 0 then none
  else ((s.pkg (pkgOf c)).bkpts.find? fun e =>
    e.2.v && e.2.blk == addr && (e.2.any || e.2.gtid == (s.ctx c x).gtid)).map (·.2.act)

/-- The lines of a miss: the header's and the next four of its page that are not present (R206). -/
def missLines (l : List CacheLine) (asid gen line pageEnd : Nat) : List Nat :=
  ((List.range 5).map fun i => line + 64 * i).filter fun a =>
    decide (a < pageEnd) && (cacheLine? l asid gen a).isNone

/-- Requests lines from their homes, in consecutive cycles, in ascending address (R206). -/
def State.requestLines (s : State) (c x : Nat) (leaf : Leaf) : Nat → List Nat → State
  | _, [] => s
  | e, a :: as =>
    let t := s.ctx c x
    let (id, s) := s.freshId
    let s := s.modCtx c x fun t => { t with fetch := t.fetch.map fun f => { f with reqs := f.reqs ++ [id] } }
    let pa := leaf.pa a
    let r : Req := { kind := .read, pa := pa, va := a, code := true, n := 64, asid := t.asid, gen := t.gen
                     lid := lidOf t.gtid, ret := .line a }
    State.requestLines (s.sendCounted e c (.req (homeOf pa) (r.by c x id))) c x leaf (e + 1) as

/-- BLOCK_FETCH (R42, R55, R121, R206): the fetcher takes the context's next block: it translates the address, brings
the lines it misses, decodes the units and makes the checks. A failed check stands in the window and is
raised in the first slot; one that finds all it needs fires from this cycle on, another from the next rotation; the record of one that concerns no
address holds 0 (log entry 22). DESIGN CHOICE (log entry 72): a block that units of padding make longer than five lines requests each further line
when it comes to it. -/
def State.fetchBlock (s : State) (c x : Nat) : State :=
  let t := s.ctx c x
  match t.fetch with
  | none => s
  | some f =>
    if s.now < f.begins then s else
    let first := if f.waited then s.nextRot c else s.now
    let fail (k : FaultCode) (s : State) : State :=
      s.install c x (badBlock f.addr first { code := k, va := if k = .illeg ∨ k = .blkfmt ∨ k = .bkpt then 0 else f.addr })
    match if f.noBkpt then none else s.bkptMatch c x f.addr with
    | some act =>
      let s := fail .bkpt s
      match act, s.runOf c x with
      | 1, some r => s.sched first (.gangStop (pkgOf c) r.rc.rect)
      | _, _ => s
    | none =>
      if f.addr % 8 ≠ 0 then fail .align s
      else if f.addr < 0x60000 then fail .prot s
      else if f.addr < 0x100000 then fail .lbound s
      else if 2 ^ 48 ≤ f.addr then fail .xlat s
      else match s.leaf? c t.asid t.gen f.addr with
      | none =>
        (s.modCtx c x fun t => { t with fetch := some { f with walking := true, waited := true } }).startWalk
          c x t.serial t.asid t.gen f.addr none
      | some leaf =>
        if leaf.cls != .code || leaf.isAlias then fail .prot s
        else
          let s := s.touchTlb c t.asid t.gen f.addr
          let l := (s.core c).bcache
          let need (a : Nat) : State :=
            if f.lines.contains a then s
            else
              let pageEnd := if leaf.big then (a / 2 ^ 28 + 1) * 2 ^ 28 else (a / 2 ^ 16 + 1) * 2 ^ 16
              let line := f.addr / 64 * 64
              let ls := ((missLines l t.asid t.gen line pageEnd).filter fun b => !f.lines.contains b) ++ if line + 320 ≤ a then [a] else []
              (s.modCtx c x fun t => { t with fetch := some { f with walking := false, waited := true, lines := f.lines ++ ls } }).requestLines
                c x leaf (s.now + 2) ls
          match lineBytes l t.asid t.gen f.addr 8 with
          | none => need (f.addr / 64 * 64)
          | some h =>
            let hdr := h % 2 ^ 32
            if !headerOk hdr then fail .blkfmt s
            else match parseBody l t.asid t.gen f.addr 16385 (f.addr + 8) (bitsOf hdr 18 6 + 1) [] with
              | .wait a => need a
              | .bad k => fail k s
              | .ok ks bytes =>
                let is := ks.filterMap Slot.instr?
                if !blockOk hdr x is then fail .blkfmt s
                else (s.modCore c fun k => { k with bcache := cacheTouch k.bcache t.asid t.gen f.addr bytes }).install c x
                  ⟨f.addr, bytes, hdr, BitVec.ofNat 32 (h / 2 ^ 32), withFanIn is ks, first, none, [], [], [], none⟩

/-- BLOCK_FETCH. -/
def execBlockFetch (s : State) : Outcome :=
  match s.ev with
  | .blockFetch c x => .next (s.fetchBlock c x)
  | _ => .next s

/-- A context turns to a block: its fetch begins in the cycle `at_` (R55, R121). -/
def State.enterBlock (s : State) (c x addr at_ : Nat) (noBkpt : Bool := false) : State :=
  (s.modCtx c x fun t => { t with blk := none, fetch := some { addr := addr, begins := at_, noBkpt := noBkpt }, serial := t.serial + 1
                                  lvq := [] }).sched at_ (.blockFetch c x)

/-- BLOCK_CACHE_FILL (R206, R207, R369): a line arrives and fills its set; every context that waits for it looks again. What comes to a fenced
core is discarded. -/
def execBlockCacheFill (s : State) : Outcome :=
  match s.ev with
  | .blockCacheFill c va asid gen bs =>
    let s := s.countRecv c
    let waiting := (List.range 16).filter fun x =>
      match (s.ctx c x).fetch with
      | some f => (s.ctx c x).asid == asid && f.lines.contains va
      | none => false
    if (s.core c).fenced then .next s
    else .next (waiting.foldl (fun s x =>
      (s.modCtx c x fun t => { t with fetch := t.fetch.map fun f => { f with lines := f.lines.filter (· != va) } }).sched
        s.now (.blockFetch c x)) (s.modCore c fun k => { k with bcache := cachePut k.bcache ⟨asid, gen, va, bs⟩ }))
  | _ => .next s

end Sys2Proof.Machine
end

