-- ==== Sys2Proof/Machine/Issue.lean ====
section
/-!
DEFINITION. How a core uses a cycle (R18 to R21, R43 to R51, R56): the arrival of tokens at their operand
positions, which slot of a window may issue, which context the cycle's slot goes to, and starvation.
-/

namespace Sys2Proof.Machine

/-- A token arrives at an operand (R45): a null is counted, the first value is kept; a second value is an error. -/
def Operand.arrive (o : Operand) (k : Tok) : Option Operand :=
  if k.isNull then some { o with nulls := o.nulls + 1 }
  else if o.val.isSome then none
  else some { o with val := some k }

/-- A token arrives at a position of a slot: 0 left, 1 right, 2 predicate. -/
def Slot.arrive (q : Slot) (pos : Nat) (k : Tok) : Option Slot :=
  if pos = 0 then (q.l.arrive k).map fun o => { q with l := o }
  else if pos = 1 then (q.r.arrive k).map fun o => { q with r := o }
  else (q.p.arrive k).map fun o => { q with p := o }

/-- Delivers tokens to a block's slots; the slots at which an operand receives a second value are listed (R45). -/
def Block.deliver (b : Block) : List Flight → Block × List Nat
  | [] => (b, [])
  | f :: fs =>
    match b.slots[f.slot]? with
    | none => Block.deliver b fs
    | some q =>
      match q.arrive f.pos f.tok with
      | none =>
        let (b, bad) := Block.deliver b fs
        (b, f.slot :: bad)
      | some q' => Block.deliver { b with slots := b.slots.set f.slot q' } fs

/-- The tokens due by the cycle `now` arrive; a second value at one operand raises BLKFMT in its slot (R45, R57). -/
def State.deliver (s : State) (c x : Nat) : State :=
  match (s.ctx c x).blk with
  | none => s
  | some b =>
    match b.flights.filter fun f => decide (f.due ≤ s.now) with
    | [] => s
    | due =>
      let (b, bad) := { b with flights := b.flights.filter fun f => decide (s.now < f.due) }.deliver due
      bad.foldl (fun s k => s.doom c x k { code := .blkfmt }) (s.modCtx c x fun t => { t with blk := some b })

/-- Every position an instruction requires is present (R51). -/
def operandsPresent (q : Slot) (n : Need × Need × Need) : Bool :=
  (n.1 == .none || q.l.present) && (n.2.1 == .none || q.r.present) && (n.2.2 == .none || q.p.present)

/-- A link output queue has a free entry, occupied and reserved ones counted (R264). -/
def Core.queueRoom (k : Core) (d : Nat) : Bool :=
  decide ((k.linkOut.get [] d).length + k.reserved.get 0 d < 8)

/-- The link queues that an instruction's targets name (R264). -/
def pushQueues (i : Instr) : List Nat :=
  (i.targets.filter fun t => t.toNat / 64 == 3).map fun t => t.toNat % 4

/-- The words of a queue a POP may take (R268): a link input queue, or the context's mailbox. -/
def State.popWords (s : State) (c x q : Nat) : List W64 :=
  if q = 4 then (s.ctx c x).mbox else ((s.core c).linkIn.get [] q).map (·.word)

/-- A scalar operand that an instruction takes is null (R46): its predicate is one. -/
def nullScalar (i : Instr) (q : Slot) : Bool :=
  let n := i.needs
  (n.1 == .scal && q.l.isNull) || (n.2.1 == .scal && q.r.isNull) || (n.2.2 == .scal && q.p.isNull)

/-- The instruction would fire null with its present operands (R43, R46): a scalar operand is null, or a scalar instruction's predicate
turns it off. -/
def firesNull (i : Instr) (q : Slot) : Bool := nullScalar i q || (!i.vecOut && q.off i.pmode)

/-- The room that an instruction with its operands present may still wait for (R51, R264, R268, R270, R345, R348,
R364): output entries, a word to take (a link POP outside context 1 can take none and raises PRIV, R65), the lower
FORKs, the load-value queue of a pair, where a leading load that has not returned has its entry. -/
def State.roomFor (s : State) (c x : Nat) (b : Block) (k : Nat) (q : Slot) (i : Instr) : Bool :=
  let t := s.ctx c x
  let kc := s.core c
  let trailing := t.pair && x % 2 == 1
  let lead := s.ctx c (leader x)
  (pushQueues i).all kc.queueRoom
    && (match i.popQueue? with
      | some d => (trailing && i.passesValue) || (d < 4 && x != 1) || decide (b.taken.get 0 d < (s.popWords c x d).length)
      | none => true)
    && (match i with
      | .mark _ =>
        let w := q.l.tok.scal
        q.l.isNull || (List.range 4).all fun d => !w.getLsbD d || kc.queueRoom d
      | .fork .. =>
        ((b.slots.take k).all fun r => r.fired || match r.instr? with
          | some (.fork ..) => false
          | _ => true) && !t.spawns.any (·.2.2)
      | _ => true)
    && (!(t.pair && i.passesValue) ||
      (if firesNull i q then true else if trailing then lead.lvq.any (fun e => e.1 == k)
        else decide (lead.lvq.length + (match lead.blk with | some d => d.loads.length | none => 0) < 32)))

/-- A load fires only when every memory-writing instruction with a lower LSID has resolved (R50). -/
def loadOrder (b : Block) (k : Nat) (i : Instr) : Bool :=
  !i.isLoad || (b.slots.take k).all fun r => r.fired || match r.instr? with
    | some j => !j.writesMem
    | none => true

/-- What a scan of the window finds: a slot to issue, or none, and whether something waits for room. -/
structure Scan where
  slot : Option Nat := none
  parked : Bool := false                     -- at an RD of an EMPTY register (R47)
  room : Bool := false                       -- an instruction waits for room (R56)
deriving DecidableEq, Repr, Inhabited

/-- The lowest-numbered slot that may issue (R47, R51), from slot `k` on: none behind an RD or RDT that has not fired (R104). -/
def State.scan (s : State) (c x : Nat) (b : Block) : Nat → List Slot → Scan → Scan
  | _, [], r => r
  | k, q :: qs, r =>
    if q.fired then State.scan s c x b (k + 1) qs r
    else
      match q.instr? with
      | none => State.scan s c x b (k + 1) qs r
      | some i =>
        match i with
        | .rd cls n _ _ =>
          if (s.ctx c x).regState cls n.toNat = .empty then { r with parked := true }
          else if s.roomFor c x b k q i then { r with slot := some k }
          else { r with room := true }
        | .rdt .. => if s.roomFor c x b k q i then { r with slot := some k } else { r with room := true }
        | i =>
          if q.walking || !operandsPresent q i.needs then State.scan s c x b (k + 1) qs r
          else if !loadOrder b k i then State.scan s c x b (k + 1) qs r
          else if s.roomFor c x b k q i then { r with slot := some k }
          else State.scan s c x b (k + 1) qs { r with room := true }

/-- What a context could do with a slot in this cycle (R19, R42, R242). -/
inductive Turn where
  | none
  | issue (slot : Nat)
  | bad (k : Cause)                          -- a failed fetch check, in its own slot
  | deferred (r : TrapRec)
deriving DecidableEq, Repr, Inhabited

/-- The context stands in its commit rotation (R54). -/
def Ctx.committing (t : Ctx) (now : Nat) : Bool :=
  match t.commitAt with
  | some c0 => decide (c0 ≤ now) && decide (now < c0 + 16)
  | none => false

/-- The scan of a context's window. -/
def State.scanCtx (s : State) (c x : Nat) : Scan :=
  match (s.ctx c x).blk with
  | some b => if b.bad.isSome || decide (s.now < b.firstAt) then {} else s.scan c x b 0 b.slots {}
  | none => {}

/-- Whether and how a context is ready in this cycle (R19). -/
def State.turnOf (s : State) (c x : Nat) : Turn :=
  let t := s.ctx c x
  if t.st ≠ .active || t.committing s.now || s.stopped c then .none
  else match t.pend with
    | some r => .deferred r
    | none =>
      if !t.after.isEmpty then .none
      else match t.blk with
        | none => .none
        | some b =>
          match b.bad with
          | some (k, _) => if b.firstAt ≤ s.now ∧ s.slotNow c = x then .bad k else .none
          | none =>
            match (s.scanCtx c x).slot with
            | some k => .issue k
            | none => .none

/-- The order in which the slot of the cycle numbered `now` is lent (R19): the offset is drawn from arbseed when that is not 0. -/
def lendOrder (seed now : Nat) : List Nat :=
  let o := if seed = 0 then 0 else mix (now / 16 % 2 ^ 32) seed % 15
  (List.range 15).map fun j => (now % 16 + 1 + (j + o) % 15) % 16

/-- The context that uses this cycle's slot of a core, and what it does (R18 to R20). A slot whose owner is in its
commit rotation issues nothing and is not lent (R54). -/
def State.chooseCtx (s : State) (c : Nat) : Option (Nat × Turn) :=
  let owner := s.slotNow c
  if (s.ctx c owner).committing s.now then none
  else (owner :: lendOrder (s.core c).arbseed.toNat (s.tbase (pkgOf c))).findSome? fun x =>
    match s.turnOf c x with
    | .none => none
    | t => some (x, t)

/-- The block has every commit-relevant instruction fired and its exit (R53); a load that pushes its result to a link queue has returned
(log entry 21). -/
def Block.complete (b : Block) : Bool :=
  b.exit.isSome && b.loads.all (fun r => r.targets.all fun t => t.toNat / 64 != 3) && b.slots.all fun q => q.fired || match q.instr? with
    | some i => !i.commitRelevant
    | none => true

/-- A block has work outstanding (R56): results not yet present, loads, translations, a parked RD, an instruction that
waits for room. -/
def State.outstanding (s : State) (c x : Nat) (b : Block) : Bool :=
  let r := s.scanCtx c x
  !b.flights.isEmpty || !b.loads.isEmpty || r.parked || r.room || b.slots.any (·.walking)

/-- The context's block is starved (R56). -/
def State.starved (s : State) (c x : Nat) : Bool :=
  let t := s.ctx c x
  match t.blk with
  | some b =>
    t.st == .active && t.after.isEmpty && t.pend.isNone && b.bad.isNone && decide (b.firstAt ≤ s.now) && !b.complete
      && (s.scanCtx c x).slot.isNone && !s.outstanding c x b
  | none => false

/-- BLOCK_STARVED (R56): a starved block raises BLKFMT in the context's own slot. -/
def execBlockStarved (s : State) : Outcome :=
  match s.ev with
  | .blockStarved c x => .next (if s.starved c x then s.takeFault c x { code := .blkfmt } else s)
  | _ => .next s

end Sys2Proof.Machine
end

