-- ==== Sys2Proof/Machine/Migrate.lean ====
section
/-!
DEFINITION. Migration (R197, R273 to R281): the begin of a migration and its refusals at the origin, MIG, the
departure, arrival, placement, acceptance, refusal and retry of a continuation; and what vacates a context.
-/

namespace Sys2Proof.Machine

/-- The context owns a tile (R95). -/
def Core.ownsTile (k : Core) (z : Nat) : Bool :=
  let x := if (k.ctx z).pair then leader z else z
  x != 0 && (List.range 16).any fun i => bitsOf k.tom.toNat (4 * i) 4 == x

/-- The scope of a barrier identifier, as seen from core `c`, contains core `d` (R26, R319). -/
def scopeHas (bar c d : Nat) : Bool :=
  match bar / 256 with
  | 1 => c == d
  | 2 => pkgOf c == pkgOf d && quadOf c == quadOf d
  | 3 => dieOf c == dieOf d
  | 4 => pkgOf c == pkgOf d
  | _ => true

/-- The context is enrolled, and not dropped, in an object whose scope does not contain a core (R319). -/
def Core.enrolledOutside (k : Core) (c z d : Nat) : Bool :=
  let x := if (k.ctx z).pair then leader z else z
  k.enrol.any fun e => e.ctx == x && !e.dropped && !scopeHas e.bar c d

/-- The least containment rectangle around a core, or its quad (R301). -/
def State.fenceRect (s : State) (c : Nat) : Rect :=
  let p := posOf c
  let area (r : Rect) : Nat := (r.col1 + 1 - r.col0) * (r.row1 + 1 - r.row0)
  let best := (s.pkg (pkgOf c)).rects.foldl (fun (b : Option Rect) e =>
    if e.2.v && e.2.rect.has c then
      match b with
      | some r => if area e.2.rect < area r then some e.2.rect else b
      | none => some e.2.rect
    else b) none
  best.getD ⟨p.1 / 2 * 2, p.2 / 2 * 2, p.1 / 2 * 2 + 1, p.2 / 2 * 2 + 1⟩

/-- A disagreement of a pair (R366): both blocks are discarded and executed again once; a second disagreement on the
same block is SDC, which fences the smallest enclosing rectangle. -/
def State.pairMismatch (s : State) (c x blk : Nat) : State :=
  if (s.ctx c (leader x)).mism = some blk then s.sched s.now (.fence (pkgOf c) (s.fenceRect c) .sdc)
  else [leader x, leader x + 1].foldl (fun s y =>
    ((s.dropBlock c y).modCtx c y fun t => { t with mism := some blk, st := .active, depart := none }).enterBlock c y blk
      (s.now + 16)) s

/-- A context becomes VACANT: its registers and mailbox are discarded (R87, R272); queues of refused messages that
left it stay. The core may place a waiting thread. -/
def State.vacate (s : State) (c x : Nat) : State :=
  let t := s.ctx c x
  let s := (s.dropBlock c x).modCtx c x fun u =>
    { serial := u.serial, hb := t.hb, sends := t.sends, delegs := t.delegs, spawns := t.spawns, issued := t.issued
      readyRot := t.readyRot, commitAt := t.commitAt }
  (s.sched s.now (.continuationPlace c)).sched s.now (.taskAdmission c)

/-- The registers of a migrating thread are settled and its requests accepted (R88, R274). -/
def Ctx.settled (t : Ctx) : Bool :=
  t.outs.isEmpty && t.prods.isEmpty
    && t.g.all (fun e => e.2.st != .empty) && t.v.all (fun e => e.2.st != .empty)

/-- A departing thread is looked at again in this cycle (R274). -/
def State.tryDepart (s : State) (c x : Nat) : State :=
  match (s.ctx c x).depart with
  | some d => if d.sent || d.waiting then s else s.sched s.now (.continuationDepart c (if (s.ctx c x).pair then leader x else x))
  | none => s

/-- The g registers a block's read prologue names, its carry mask, and its WRs (R36, R276). -/
def Block.carried (b : Block) (withWr : Bool) : List Nat :=
  let is := b.slots.filterMap Slot.instr?
  (List.range 32).filter fun r => r != 0 &&
    (b.carry.getLsbD r || is.any fun i => match i with
      | .rd .gr n .. | .rdt .gr n .. => n.toNat == r
      | .wr .gr n => withWr && n.toNat == r
      | _ => false)

/-- The read prologue names a v register or a g register above g31 (R273). -/
def Block.highPrologue (b : Block) : Bool :=
  (b.slots.filterMap Slot.instr?).any fun i => match i with
    | .rd .vr .. | .rdt .vr .. => true
    | .rd .gr n .. | .rdt .gr n .. => decide (31 < n.toNat)
    | _ => false

/-- A thread begins to depart: its block has ended, and it resumes at `blk` on core `dst` (R274). A deferred fault that it has not taken
latches it with that address (R242). -/
def State.beginDepart (s : State) (c x dst blk : Nat) (expl : Bool) (regs : List Nat) : State :=
  let late := (s.ctx c x).pend
  let s := (s.team c x).foldl (fun s y => (s.dropBlock c y).modCtx c y fun t =>
    { t with st := .departing, depart := some ⟨dst, blk, expl, regs, false, false, 0⟩, after := [], pend := none }) s
  match late with
  | some r => s.latchCtx c x { r with blk := blk, gtid := (s.ctx c x).gtid, tb := s.tbase (pkgOf c) }
  | none => s.tryDepart c x

/-- The current block ends without effect and its thread migrates to the owner of a PRIV page, or MREF says why it
cannot (R197, R273, R284). DESIGN CHOICE (log entry 64): of several causes the first in the order of R273's list is named, and the head
context's MREF has sub 0. -/
def State.migrate (s : State) (dst va : Nat) : State :=
  let c := s.cur.core
  let x := s.cur.ctx
  let b := s.cblk
  let mref (n : Nat) : State := s.raise { code := .mref, sub := n, va := va }
  if x = 0 then mref 0
  else if bitOf b.hdr 0 then mref 0
  else if b.highPrologue then mref 1
  else if (s.core c).ownsTile x then mref 2
  else if (s.core c).enrolledOutside c x dst then mref 5
  else s.beginDepart c x dst b.addr false (b.carried false)

/-- MIG (R281): LBOUND for a malformed destination, MREF for a thread that cannot leave, PRIV in the head context
(R284, R339); else the block's exit. -/
def execMig (pm : Pm) (s : State) : Outcome :=
  if s.offScalar pm then .next (s.fired true)
  else
    let l := s.slot.l.tok.scal.toNat
    let dst := coreKey (bitsOf l 19 8) (bitsOf l 4 15)
    if s.cur.ctx = 0 then .next (s.raise { code := .priv })
    else if 2 ^ 27 ≤ l ∨ l % 16 ≠ 0 ∨ 26112 ≤ idxOf dst then .next (s.raise { code := .lbound, va := l })
    else if s.ccore.ownsTile s.cur.ctx then .next (s.raise { code := .mref, sub := 2 })
    else if s.ccore.enrolledOutside s.cur.core s.cur.ctx dst then .next (s.raise { code := .mref, sub := 5 })
    else .next (s.fireExit { kind := .mig, target := dst })

/-- The continuation of a departing thread (R275, R276, R280, R281), built from the leading context of a pair: it carries what its last block
wrote, and no enrolment in an object of core scope. -/
def State.buildCont (s : State) (c x : Nat) (d : Depart) : Cont :=
  let t := s.ctxNow c x
  let gs := d.regs.filterMap fun r => if (t.gReg r).st = .full then some (r, (t.gReg r).val) else none
  let enr := ((s.core c).enrol.filter fun e => e.ctx == (if t.pair then leader x else x) && e.bar / 256 != 1).map fun e => (⟨e.bar, e.dropped, e.next⟩ : EnrolWord)
  { gtid := t.gtid, blk := d.blk, asid := t.asid, gen := t.gen, dst := d.dst, src := c, sctx := x, expl := d.expl
    ret := t.retained, pair := t.pair, rnd := t.fpm.toNat % 4, gs := gs
    ps := (List.range 8).filterMap fun r => if (t.pReg r).st = .full then some (r, (t.pReg r).val) else none
    oxs := (List.range 8).filterMap fun r => if (t.oxReg r).st = .full then some (r, (t.oxReg r).val) else none
    cwb0 := bitsOf t.cwb0.toNat 3 16, cwl0 := bitsOf t.cwl0.toNat 3 16
    cwb1 := bitsOf t.cwb1.toNat 3 16, cwl1 := bitsOf t.cwl1.toNat 3 16, enr := enr
    flits := 4 + (gs.length + 1 + 3) / 4 + (if enr.isEmpty then 0 else 1 + (enr.length + 3) / 4) }

/-- Sends a departing thread's continuation: flit i enters the router at now + 2 + i (R277). -/
def State.sendCont (s : State) (c x : Nat) (d : Depart) : State :=
  let s := (s.team c x).foldl (fun s y => s.modCtx c y fun t =>
    { t with depart := some { d with sent := true, waiting := false } }) s
  s.sendCounted (s.now + 2) c (.cont (s.buildCont c x d))

/-- The registers a continuation carries agree in both contexts of a pair (R279). -/
def State.imagesAgree (s : State) (c x : Nat) (d : Depart) : Bool :=
  !(s.ctx c x).pair ||
    { s.buildCont c (leader x) d with sctx := 0 } == { s.buildCont c (leader x + 1) d with sctx := 0 }

/-- CONTINUATION_DEPART (R274): the continuation leaves once no register is EMPTY and every request is accepted. -/
def execContinuationDepart (s : State) : Outcome :=
  match s.ev with
  | .continuationDepart c x =>
    let t := s.ctx c x
    match t.depart with
    | some d =>
      if t.st != .departing || d.sent || d.waiting || !(s.team c x).all (fun y => (s.ctx c y).settled) then .next s
      else if !s.imagesAgree c x d then .next (s.pairMismatch c x d.blk)
      else .next ((s.trace c x 2 0 d.blk (some (pkgOf d.dst * 2 ^ 15 + idxOf d.dst))).sendCont c x d)
    | none => .next s
  | _ => .next s

/-- Why a destination refuses a continuation, the first cause of R278's table: a fence, no launch record, a stale
generation; then a full arrival queue, which has no lasting cause. -/
def State.contRefusal (s : State) (k : Cont) : Option (Option FaultCode × Nat) :=
  let p := s.pkg (pkgOf k.dst)
  if (s.core k.dst).fenced then some (some .fenced, 0)
  else if (p.run? (lidOf k.gtid)).isNone then some (some .mref, 4)
  else if k.gen ≠ p.genOf k.asid then some (some .stalegen, 0)
  else if 8 ≤ (s.core k.dst).arrq.length then some (none, 0)
  else none

/-- CONTINUATION_ARRIVAL (R277, R278). -/
def execContinuationArrival (s : State) : Outcome :=
  match s.ev with
  | .continuationArrival k =>
    let s := s.countRecv k.dst
    match s.contRefusal k with
    | some (cause, sub) =>
      let m : NetMsg := .contRefused k.src k.sctx cause sub
      .next (if cause = some .fenced then s.answerFenced k.src k.dst m else s.sendCounted (s.now + 2) k.dst m)
    | none =>
      let s := s.modCore k.dst fun q => { q with arrq := q.arrq ++ [k] }
      .next ((s.sendCounted (s.now + 2) k.dst (.contAccepted k.src k.sctx)).sched s.now (.continuationPlace k.dst))
  | _ => .next s

/-- The lowest-numbered vacant worker context, or vacant pair, that a thread fits (R261). -/
def Core.placeFor (k : Core) (pair : Bool) : Option Nat :=
  let vac (x : Nat) : Bool := (k.ctx x).st == .vacant
  (List.range 16).find? fun x => decide (2 ≤ x) && vac x && (!pair || (x % 2 == 0 && vac (x + 1)))

/-- The registers of a context that a continuation is placed in (R87, R277). -/
def placedCtx (u : Ctx) (k : Cont) : Ctx :=
  { st := .active, serial := u.serial, hb := u.hb, sends := u.sends, delegs := u.delegs, spawns := u.spawns
    issued := u.issued, readyRot := u.readyRot
    g := k.gs.map fun e => (e.1, ⟨.full, e.2⟩), p := k.ps.map fun e => (e.1, ⟨.full, e.2⟩)
    ox := k.oxs.map fun e => (e.1, ⟨.full, e.2⟩)
    gtid := k.gtid, asid := k.asid, gen := k.gen, pair := k.pair, retained := k.ret
    fpm := BitVec.ofNat 32 k.rnd, cwb0 := BitVec.ofNat 32 (k.cwb0 * 8), cwl0 := BitVec.ofNat 32 (k.cwl0 * 8)
    cwb1 := BitVec.ofNat 32 (k.cwb1 * 8), cwl1 := BitVec.ofNat 32 (k.cwl1 * 8) }

/-- CONTINUATION_PLACE (R261, R277): the core places the oldest continuation that fits a vacant context; one in each
cycle, and none during a stop (R287). -/
def execContinuationPlace (s : State) : Outcome :=
  match s.ev with
  | .continuationPlace c =>
    let q := s.core c
    let others := s.agenda.any fun e => decide (e.1 ≤ s.now + 1) && e.2 == s.ev
    if s.stopped c || others then .next s
    else match q.arrq.find? fun k => (q.placeFor k.pair).isSome with
    | none => .next s
    | some k =>
      match q.placeFor k.pair with
      | none => .next s
      | some x =>
        let xs := if k.pair then [x, x + 1] else [x]
        let s := s.modCore c fun q => { q with arrq := q.arrq.erase k }
        let s := xs.foldl (fun s y => (s.modCtx c y fun u => placedCtx u k).enterBlock c y k.blk (s.nextRot c)) s
        let s := s.modCore c fun q =>
          { q with enrol := q.enrol.filter (fun e => !xs.contains e.ctx) ++ k.enr.map fun e => ⟨e.bar, x, e.dropped, e.next⟩ }
        .next ((s.trace c x 3 0 k.blk (some (pkgOf k.src * 2 ^ 15 + idxOf k.src))).sched (s.now + 1) (.continuationPlace c))
  | _ => .next s

/-- CONTINUATION_ACCEPT (R277, R280): the origin's context becomes vacant and its enrolment entries go, without a
drop. -/
def execContinuationAccept (s : State) : Outcome :=
  match s.ev with
  | .continuationAccept c x =>
    let s := s.countRecv c
    if (s.ctx c x).st ≠ .departing then .next s
    else .next ((s.team c x).foldl (fun s y =>
      (s.modCore c fun q => { q with enrol := q.enrol.filter fun e => e.ctx != y }).vacate c y) s)
  | _ => .next s

/-- A departing context enters its retry latch with the block its continuation names (R278). -/
def State.latchDepart (s : State) (c x : Nat) (d : Depart) (k : Cause) : State :=
  s.latchCtx c x { s.trapRec c x k with blk := d.blk }

/-- CONTINUATION_REFUSAL (R278, R354): a lasting cause latches the origin; a full queue is retried after 64
rotations, at most 16 times; a context that a KILL has marked exits instead. -/
def execContinuationRefusal (s : State) : Outcome :=
  match s.ev with
  | .continuationRefusal c x cause sub =>
    let s := s.countRecv c
    let t := s.ctx c x
    match t.depart with
    | none => .next s
    | some d =>
      if t.kill then
        .next ((s.team c x).foldl (fun s y => (s.modCtx c y fun t =>
          { t with st := .exiting, depart := none, kill := false, retained := false, exitKill := true, exitAt := s.now }).sched
            s.now (.exitMessageDepart c y)) s)
      else match cause with
        | some f => .next (s.latchDepart c x d { code := f, sub := sub })
        | none =>
          if 15 ≤ d.tries then .next (s.latchDepart c x d { code := .mref, sub := 3 })
          else
            let s := (s.team c x).foldl (fun s y => s.modCtx c y fun t =>
              { t with depart := some { d with sent := false, waiting := true, tries := d.tries + 1 } }) s
            .next (s.sched (s.now + 1024) (.continuationRetry c x))
  | _ => .next s

/-- CONTINUATION_RETRY (R278). -/
def execContinuationRetry (s : State) : Outcome :=
  match s.ev with
  | .continuationRetry c x =>
    match (s.ctx c x).depart with
    | some d => .next (if d.waiting && (s.ctx c x).st == .departing then s.sendCont c x d else s)
    | none => .next s
  | _ => .next s

end Sys2Proof.Machine
end

