-- ==== Sys2Proof/Machine/LoadStore.lean ====
section
/-!
DEFINITION. Loads and stores (R192 to R203, R50, R77): the addresses and checks of LD, LDW, ST, VLD and VST, the
bytes a load sees, the requests it sends, and the arrival of its result.
-/

namespace Sys2Proof.Machine

/-! ### Windows and addresses -/

/-- Base and length of circular window `j` of a context, in bytes (R196). -/
def Ctx.window (t : Ctx) (j : Nat) : Nat × Nat :=
  if j = 0 then (bitsOf t.cwb0.toNat 3 16 * 8, bitsOf t.cwl0.toNat 3 16 * 8)
  else (bitsOf t.cwb1.toNat 3 16 * 8, bitsOf t.cwl1.toNat 3 16 * 8)

/-- The window can be used (R196). -/
def windowOk (w : Nat × Nat) : Bool := w.2 != 0 && decide (w.1 + w.2 ≤ 0x60000)

/-- The local offset of a window offset, read signed (R196). -/
def windowAddr (w : Nat × Nat) (o : Int) : Nat := w.1 + (o % (w.2 : Int)).toNat

/-- The local offsets of `n` bytes through a window; each byte is mapped separately (R196). -/
def windowBytes (w : Nat × Nat) (o : Int) (n : Nat) : List Nat := (List.range n).map fun (i : Nat) => windowAddr w (o + (i : Int))

/-! ### What a load sees (R50) -/

/-- The kinds of space a store writes and a load reads. -/
inductive Space where
  | local | priv | host
deriving DecidableEq, Repr, Inhabited

/-- The cells a recorded store writes in a space. -/
def Eff.cells (e : Eff) (sp : Space) : List Host.Cell :=
  match e, sp with
  | .localStore bs, .local => bs
  | .privStore bs, .priv => bs
  | .hostStore _ bs, .host => bs
  | _, _ => []

/-- The byte that the latest store of the lower slots writes at an address (R50). -/
def Block.ownByte (b : Block) (k : Nat) (sp : Space) (a : Nat) : Option Byte :=
  (b.slots.take k).foldl (fun r q => (q.eff.cells sp).foldl (fun r e => if e.1 == a then some e.2 else r) r) none

/-- The byte of a PRIV page that the youngest store-buffer entry holds (R198). -/
def Core.psbByte (k : Core) (pa : Nat) : Option Byte :=
  k.psb.foldl (fun r e => if e.pa == pa / 32 * 32 then ((e.bytes.getD (pa % 32) none).or r) else r) none

/-- A byte of local memory as a load fired now sees it. -/
def State.localByte (s : State) (a : Nat) : Byte :=
  (s.cblk.ownByte s.cur.slot .local a).getD (s.ccore.lmem.readByte zeroBg a)

/-- What a PRIV byte held before a commit whose rotation has not ended by the cycle `now` (R54, R198). -/
def Core.oldByte (k : Core) (now pa : Nat) : Option Byte :=
  (k.privOld.filter fun e => decide (now < e.1)).findSome? fun e => e.2.lookup pa

/-- A byte of a PRIV or CODE page as every load of a core sees it in this cycle (R54, R198). -/
def State.privByte (s : State) (c pa : Nat) : Byte :=
  ((s.core c).oldByte s.now pa).getD (((s.core c).psbByte pa).getD (s.readByte pa))

/-- A byte of a PRIV or CODE page as a load fired now sees it (R50, R198). -/
def State.globalByte (s : State) (pa : Nat) : Byte := (s.cblk.ownByte s.cur.slot .priv pa).getD (s.privByte s.cur.core pa)

/-- The requests that an event of the agenda carries. -/
def Event.carried : Event → List (Nat × Req)
  | .privStoreApply h r => [(h, r)]
  | .codeword _ _ w _ => w.msgs.filterMap fun m => match m.2 with
    | .req h r => some (h, r)
    | _ => none
  | _ => []

/-- The stores to host memory that a context has released and that are on their way (R236). -/
def State.hostOnWay (s : State) (c x : Nat) : List Req :=
  let waiting := s.pkgs.flatMap fun p => p.2.ports.flatMap fun q => q.2.waiting.filterMap fun m => match m with
    | .req h r => some (h, r)
    | _ => none
  ((s.agenda.flatMap (fun e => e.2.carried) ++ waiting).filter fun e =>
    decide (2 ^ 24 ≤ e.1) && e.2.kind == .store && e.2.who.any fun w => w.core == c && w.ctx == x).map (·.2)

/-- A byte of host memory that a store of the lower slots, or one on its way, writes (R50, R236). -/
def State.hostOwn (s : State) (a : Nat) : Option Byte :=
  (s.cblk.ownByte s.cur.slot .host a).or ((s.hostOnWay s.cur.core s.cur.ctx).foldl (fun r q =>
    if q.pa ≤ a ∧ a < q.pa + q.bytes.length then (q.bytes.getD (a - q.pa) none).or r else r) none)

/-! ### Recording a load -/

/-- The current slot has fired a load whose result comes later; the link entries it names are reserved now (R264). -/
def State.openLoad (s : State) (r : LoadRec) : State :=
  (s.fired.modBlock s.cur.core s.cur.ctx fun b => { b with loads := b.loads ++ [r] }).emitAt s.cur.core s.cur.ctx s.cur.slot s.now
    (r.targets.filter fun t => t.toNat / 64 == 3) .null

/-- The reservations of a slot are given back before its result takes them again. -/
def State.unreserve (s : State) (c x slot : Nat) : State :=
  match (s.ctx c x).blk with
  | some b =>
    (s.modCore c fun k => k.release (b.slots.getD slot {}).reservations).modBlock c x fun b =>
      b.modSlot slot fun q => { q with push := [] }
  | none => s

/-- The words of local memory that byte offsets touch, each once (R193, R194). -/
def wordsOf (as : List Nat) : List Nat := (as.map (· / 8)).eraseDups

/-- The largest number of words in one bank (R194). -/
def bankCount (ws : List Nat) : Nat :=
  ws.foldl (fun m w => max m (ws.filter fun v => v % 192 == w % 192).length) 0

/-- A load's access enters the banks four cycles after issue (R194). -/
def State.bankLoad (s : State) (as : List Nat) : State :=
  let ws := wordsOf as
  let t := s.cctx
  let acc : BankAcc := { pri := 1, start := s.now + 4, words := ws, c := max 1 (bankCount ws), issue := s.now
                         ret := some (s.cur.ctx, t.serial, s.cur.slot, 0) }
  if ws.isEmpty then s.sched (s.now + 16) (.loadResult s.cur.core s.cur.ctx t.serial s.cur.slot 0 [] none)
  else s.modCore s.cur.core fun k => { k with banks := k.banks ++ [acc] }

/-- A read request of the current load, entering the router in cycle `e` (R199). -/
def State.readReq (s : State) (e : Nat) (kind : ReqKind) (l : Leaf) (va n part : Nat) : State :=
  let t := s.cctx
  let pa := l.pa va
  let (id, s) := s.freshId
  let r : Req := { kind := kind, pa := pa, va := va, lat := l.lat, code := l.cls == .code, n := n, asid := t.asid
                   gen := t.gen, lid := lidOf t.gtid
                   rslot := s.cur.slot, rblk := t.blkAddr, ret := .load t.serial s.cur.slot part, part := part }
  s.sendCounted e s.cur.core (.req (if l.cls == .hostm then hostHome l.owner else homeOf pa) (r.by s.cur.core s.cur.ctx id))

/-- The trailing context of a pair takes its value from the load-value queue (R364); otherwise `k` acts. -/
def State.paired (s : State) (ts : List (BitVec 8)) (k : State → State) : State :=
  let x := s.cur.ctx
  if s.cctx.pair && x % 2 == 1 then
    match (s.ctx s.cur.core (leader x)).lvq.find? fun e => e.1 == s.cur.slot with
    | some e =>
      (s.fired.emit ts e.2).modCtx s.cur.core (leader x) fun t => { t with lvq := t.lvq.erase e }
    | none => s
  else k s

/-- The leading context passes a value it received on to the pair's queue (R364). -/
def State.passOn (s : State) (c x slot : Nat) (k : Tok) : State :=
  if (s.ctx c x).pair && x % 2 == 0 then s.modCtx c x fun t => { t with lvq := t.lvq ++ [(slot, k)] } else s

/-- The current slot delivers a value read in this cycle, and passes it on in a pair. -/
def State.deliverValue (s : State) (ts : List (BitVec 8)) (v : W64) : State :=
  (s.fired.emit ts (.scalar v)).passOn s.cur.core s.cur.ctx s.cur.slot (.scalar v)

/-! ### Checks of a global address (R202) -/

/-- An access of a load or store. -/
structure Access where
  store : Bool
  vec : Bool
  n : Nat
deriving DecidableEq, Repr, Inhabited

/-- The checks of R202 after translation, in order: what fails, or that the thread migrates, or that the access
proceeds. -/
inductive Check where
  | fault (c : FaultCode)
  | migrate
  | ok
deriving DecidableEq, Repr, Inhabited

/-- The checks of R202 on a leaf. -/
def State.checkLeaf (s : State) (l : Leaf) (va : Nat) (a : Access) : Check :=
  if l.isAlias then .fault .prot
  else match l.cls with
  | .lat => .fault .prot
  | .sched => .fault .prot
  | .code => if a.store then .fault .prot else if va % a.n ≠ 0 then .fault .align else .ok
  | .hostm =>
    if a.vec then .fault .prot
    else if a.store && !l.wr then .fault .prot
    else if va % a.n ≠ 0 then .fault .align
    else if s.strict s.cur.core s.cur.ctx then .fault .escape
    else .ok
  | .priv =>
    if a.store && !l.wr then .fault .prot
    else if va % a.n ≠ 0 then .fault .align
    else if l.owner ≠ s.cur.core then .migrate
    else .ok

/-- The current slot is a HOSTM access of a CHECKED launch: its commit sets the escaped bit (R77). -/
def State.markHost (s : State) : State :=
  s.modBlock s.cur.core s.cur.ctx fun b => b.modSlot s.cur.slot fun q => { q with host := true }

/-! ### Loads -/

/-- The global part of a load of `n` bytes at `va` (R198, R199, R236): a store-buffer hit, or the reads that `groups`
lists by offset and length; the bytes are those of this cycle (R50), and host memory holds the context's earlier stores (log entry 12).
A read of host memory follows the context's earlier effects (R236). -/
def State.globalLoad (s : State) (l : Leaf) (va n : Nat) (groups : List (Nat × Nat)) (r : LoadRec) : State :=
  let offs := List.range n
  if l.cls == .hostm then
    let r := { r with own := offs.map fun i => s.hostOwn (l.pa va + i), fixed := some (s.readHost (l.pa va) n) }
    let e := match s.ccore.lastOut with
      | some u => max (s.now + 2) (u + 1)
      | none => s.now + 2
    (s.openLoad r).markHost.readReq e .read l va n 1
  else
    let s' := s.openLoad { r with fixed := some (offs.map fun i => s.globalByte (l.pa va + i)), parts := max 1 groups.length }
    let buffered := offs.all fun i => (r.vec && !r.mask.getLsbD (i / 4)) || (s.ccore.psbByte (l.pa va + i)).isSome
    if groups.isEmpty || (l.cls == .priv && buffered) then
      (s'.modBlock s.cur.core s.cur.ctx fun b =>
        { b with loads := b.loads.map fun q => if q.slot = s.cur.slot then { q with parts := 1 } else q }).sched
        (s.now + 16) (.loadResult s.cur.core s.cur.ctx s.cctx.serial s.cur.slot 0 [] none)
    else
      (groups.zip (List.range groups.length)).foldl (fun s (g, i) =>
        s.readReq (s.now + 2 + i) .read l (va + g.1) g.2 (i + 1)) s'

/-- A load of local bytes at the offsets `as` (R50, R194): its bytes are those of this cycle. -/
def State.localLoad (s : State) (as : List Nat) (used : List Nat) (r : LoadRec) : State :=
  (s.openLoad { r with fixed := some (as.map s.localByte) }).bankLoad used

/-- The value of an access for `size`, zero- or sign-extended (R201). -/
def scalarOf (sext : Option Nat) (bs : List Byte) : W64 :=
  match sext with
  | some n => sext64 n (leValue bs)
  | none => BitVec.ofNat 64 (leValue bs)

/-- L + imm6 × n modulo 2^64 (R201). -/
def State.effAddr (s : State) (imm : BitVec 6) (n : Nat) : Nat := (s.slot.l.tok.scal.toNat + imm.toNat * n) % 2 ^ 64

/-- The result of the checks of a global access, then what `k` does (R202). -/
def State.checked (s : State) (l : Leaf) (va : Nat) (a : Access) (k : State → State) : State :=
  match s.checkLeaf l va a with
  | .fault c => s.raise { code := c, va := va }
  | .migrate => s.migrate l.owner va
  | .ok => k s

/-- LD (R201, R202). -/
def execLd (pm : Pm) (_lsid : BitVec 5) (size : BitVec 2) (flag : Bool) (imm : BitVec 6) (t0 : BitVec 8) (s : State) : Outcome :=
  if s.offScalar pm then .next (s.fireNull [t0])
  else .next (s.paired [t0] fun s =>
    let n := 2 ^ size.toNat
    let a := s.effAddr imm n
    let r : LoadRec := { slot := s.cur.slot, targets := [t0], sext := if flag then some (8 * n) else none }
    s.withLeaf a
      (fun s =>
        if 0x60000 < a + n then s.raise { code := .lbound, va := a }
        else if a % n ≠ 0 then s.raise { code := .align, va := a }
        else
          let as := (List.range n).map (a + ·)
          s.localLoad as as r)
      fun l s => s.checked l a ⟨false, false, n⟩ fun s => s.globalLoad l a n [(0, n)] r)

/-- LDW (R196, R201): a load through a circular window, zero-extended. -/
def execLdw (pm : Pm) (_lsid : BitVec 5) (size : BitVec 2) (flag : Bool) (imm : BitVec 6) (t0 : BitVec 8) (s : State) : Outcome :=
  if s.offScalar pm then .next (s.fireNull [t0])
  else .next (s.paired [t0] fun s =>
    let n := 2 ^ size.toNat
    let a := s.effAddr imm n
    let w := s.cctx.window (if flag then 1 else 0)
    if !windowOk w then s.raise { code := .lbound }
    else if a % n ≠ 0 then s.raise { code := .align, va := a }
    else
      let as := windowBytes w (signedOf a 64) n
      s.localLoad as as { slot := s.cur.slot, targets := [t0] })

/-- The effect of a store to a page that passed its checks: PRIV bytes, or bytes of host memory (R201). -/
def State.storeGlobal (s : State) (l : Leaf) (cs : List Host.Cell) : State :=
  if l.cls == .hostm then (s.fired false (.hostStore l.owner cs)).markHost else s.fired false (.privStore cs)

/-- ST (R195, R198, R201, R202): the bytes are written at commit. -/
def execSt (pm : Pm) (_lsid : BitVec 5) (size : BitVec 2) (flag : Bool) (imm : BitVec 6) (s : State) : Outcome :=
  if s.offScalar pm then .next (s.fired true)
  else
    let n := 2 ^ size.toNat
    let a := s.effAddr imm n
    let bs := leBytes s.slot.r.tok.scal.toNat n
    if flag then
      let w := s.cctx.window 0
      if !windowOk w then .next (s.raise { code := .lbound })
      else if a % n ≠ 0 then .next (s.raise { code := .align, va := a })
      else .next (s.fired false (.localStore ((windowBytes w (signedOf a 64) n).zip bs)))
    else .next (s.withLeaf a
      (fun s =>
        if 0x60000 < a + n then s.raise { code := .lbound, va := a }
        else if a % n ≠ 0 then s.raise { code := .align, va := a }
        else s.fired false (.localStore (((List.range n).map (a + ·)).zip bs)))
      fun l s => s.checked l a ⟨true, false, n⟩ fun s =>
        s.storeGlobal l (((List.range n).map (l.pa a + ·)).zip bs))

/-- The lanes that R203 does not skip. -/
def liveLanes (m : W32) : List Nat := (List.range 32).filter fun i => m.getLsbD i

/-- The address of each lane before any window (R203): contiguous, strided or by offset vector. -/
def laneAddr (size : Nat) (a : Nat) (stride : W64) (off : V1024) (i : Nat) : Nat :=
  if size = 0 then (a + 4 * i) % 2 ^ 64
  else if size = 1 then wrapU ((a : Int) + i * stride.toInt) 64
  else wrapU ((a : Int) + (off.extractLsb' (32 * i) 32).toInt) 64

/-- The local offsets of the bytes of each live lane (R203), or the fault: the window first, then ALIGN, then LBOUND. -/
def State.vecLocal (s : State) (flag : Bool) (lanes : List (Nat × Nat)) : Except Cause (List (Nat × List Nat)) :=
  let w := s.cctx.window 0
  if flag && !windowOk w then .error { code := .lbound }
  else match lanes.find? fun e => e.2 % 4 != 0 with
  | some e => .error { code := .align, va := e.2 }
  | none =>
    if flag then .ok (lanes.map fun e => (e.1, windowBytes w (signedOf e.2 64) 4))
    else match lanes.find? fun e => decide (0x60000 < e.2 + 4) with
    | some e => .error { code := .lbound, va := e.2 }
    | none => .ok (lanes.map fun e => (e.1, (List.range 4).map (e.2 + ·)))

/-- The 32 lanes of a vector from the bytes of some (R203). -/
def laneBytes (ls : List (Nat × List Byte)) : List Byte :=
  (List.range 32).flatMap fun i => ((ls.find? fun e => e.1 == i).map (·.2)).getD [0, 0, 0, 0]

/-- The 32-byte groups of a 128-byte access that hold a live lane (R199, R203). -/
def laneGroups (m : W32) : List (Nat × Nat) :=
  ((List.range 4).filter fun g => (List.range 8).any fun i => m.getLsbD (8 * g + i)).map fun g => (32 * g, 32)

/-- VLD (R203). DESIGN CHOICE (log entry 56): a contiguous access of a global page translates and checks A though every lane is excluded;
its all-null token is then present after 16 cycles. -/
def execVld (pm : Pm) (_lsid : BitVec 5) (size : BitVec 2) (flag : Bool) (imm : BitVec 6) (t0 : BitVec 8) (s : State) : Outcome :=
  if s.slot.l.isNull || (size == 1 && s.slot.r.isNull) || s.offVector pm then .next (s.fireNull [t0])
  else .next (s.paired [t0] fun s =>
    let a := s.effAddr imm 128
    let off := s.slot.r.tok.vec
    let m := s.laneMask pm &&& (if size = 2 then off.2 else 0xFFFFFFFF)
    let r : LoadRec := { slot := s.cur.slot, targets := [t0], vec := true, mask := m }
    if size = 0 ∧ flag = false ∧ 0x100000 ≤ a then
      s.withLeaf a id fun l s => s.checked l a ⟨false, true, 128⟩ fun s => s.globalLoad l a 128 (laneGroups m) r
    else match s.vecLocal flag ((liveLanes m).map fun i => (i, laneAddr size.toNat a s.slot.r.tok.scal off.1 i)) with
      | .error k => s.raise k
      | .ok ls =>
        let bs := laneBytes (ls.map fun e => (e.1, e.2.map s.localByte))
        (s.openLoad { r with fixed := some bs }).bankLoad (ls.flatMap (·.2)))

/-- VST (R195, R203): the lanes are written at commit, a higher lane's bytes over a lower one's. Its check of A where every lane is excluded:
log entry 56. -/
def execVst (pm : Pm) (_lsid : BitVec 5) (size : BitVec 2) (flag : Bool) (imm : BitVec 6) (s : State) : Outcome :=
  if s.slot.l.isNull || (size == 1 && s.slot.p.isNull) || (size == 0 && s.offVector pm) then .next (s.fired true)
  else
    let a := s.effAddr imm 128
    let (v, vm) := s.slot.r.tok.vec
    let off := s.slot.p.tok.vec
    let m := vm &&& (if size = 2 then off.2 else 0xFFFFFFFF) &&& (if size = 0 then s.laneMask pm else 0xFFFFFFFF)
    let data (i : Nat) : List Byte := leBytes (v.extractLsb' (32 * i) 32).toNat 4
    if size = 0 ∧ flag = false ∧ 0x100000 ≤ a then
      .next (s.withLeaf a id fun l s => s.checked l a ⟨true, true, 128⟩ fun s =>
        s.storeGlobal l ((liveLanes m).flatMap fun i => ((List.range 4).map fun j => l.pa a + 4 * i + j).zip (data i)))
    else match s.vecLocal flag ((liveLanes m).map fun i => (i, laneAddr size.toNat a s.slot.p.tok.scal off.1 i)) with
      | .error k => .next (s.raise k)
      | .ok ls => .next (s.fired false (.localStore (ls.flatMap fun e => e.2.zip (data e.1))))

/-! ### The result of a load -/

/-- The bytes of a load whose parts have all returned. -/
def LoadRec.bytes (r : LoadRec) : List Byte :=
  let bs : List Byte := match r.fixed with
    | some b => b
    | none =>
      if r.groups.isEmpty then r.got.flatMap (fun e => e.2)
      else (List.range 4).flatMap fun g => match r.groups.idxOf? (32 * g) with
        | some i => r.got.get [] (i + 1)
        | none => List.replicate 32 0
  (bs.zip (List.range bs.length)).map fun (b, i) => (r.own.getD i none).getD b

/-- The token of a load whose parts have all returned (R201, R203). -/
def LoadRec.tok (r : LoadRec) : Tok :=
  if r.vec then .vector (BitVec.ofNat 1024 (leValue r.bytes) &&& laneBits r.mask) r.mask else .scalar (scalarOf r.sext r.bytes)

/-- An exact read whose location cannot be read fails when its last part has returned (R248). -/
def Cause.isExact (k : Cause) : Bool := k.code == .xnf || k.code == .fillc

/-- A part of a load's result arrives (R50, R57, R199): a fault ends the block, the last part makes the token
present in this cycle. Part 0 comes from the core itself. -/
def State.loadArrive (s : State) (c x serial slot part : Nat) (bs : List Byte) (err : Option Cause) : State :=
  let s := if part = 0 then s else s.countRecv c
  let t := s.ctx c x
  match t.blk with
  | none => s
  | some b =>
    if t.serial ≠ serial then s
    else
      match b.loads.find? fun r => r.slot == slot with
      | none => s
      | some r =>
        let r := { r with parts := r.parts - 1, got := r.got.put part bs
                          errs := r.errs ++ (match err with | some k => [(part, k)] | none => []) }
        let later := match err with
          | some k => k.isExact
          | none => true
        let worst := r.errs.foldl (fun (m : Option (Nat × Cause)) e => match m with
          | some f => if e.1 < f.1 then some e else some f
          | none => some e) none
        if !later then s.doom c x slot (err.getD default)
        else if r.parts = 0 then
          match worst with
          | some (_, k) => s.doom c x slot k
          | none =>
            ((((s.modBlock c x fun b => { b with loads := b.loads.filter fun q => q.slot != slot }).unreserve c x slot).emitAt
              c x slot s.now r.targets r.tok).passOn c x slot r.tok)
        else s.modBlock c x fun b => { b with loads := b.loads.map fun q => if q.slot = slot then r else q }

/-! ### The banks of local memory (R193, R194) -/

/-- An access served in one cycle, with the banks that accesses of higher priority hold in it: at most one word of each
bank; a bank held by another makes the access wait. -/
def BankAcc.serve (a : BankAcc) (busy : List Nat) : BankAcc × List Nat :=
  let (left, mine, waits) := a.words.foldl (fun (r : List Nat × List Nat × Bool) w =>
    let b := w % 192
    if busy.contains b then (r.1 ++ [w], r.2.1, true)
    else if r.2.1.contains b then (r.1 ++ [w], r.2.1, r.2.2)
    else (r.1, b :: r.2.1, r.2.2)) ([], [], false)
  ({ a with words := left, waited := if waits then a.waited + 1 else a.waited }, mine ++ busy)

/-- The accesses of one cycle, in order of priority (R194). -/
def serveBanks (now : Nat) : List Nat → List BankAcc → List BankAcc
  | _, [] => []
  | busy, a :: as =>
    if now < a.start then a :: serveBanks now busy as
    else
      let (a', busy') := a.serve busy
      a' :: serveBanks now busy' as

/-- The banks that accesses hold in a cycle, in order of priority. -/
def heldBanks (now : Nat) (as : List BankAcc) : List Nat :=
  ((List.range 4).flatMap fun p => as.filter fun a => a.pri == p).foldl
    (fun busy a => if now < a.start then busy else (a.serve busy).2) []

/-- The banks of a core serve their accesses of this cycle; a load whose last word is read has its result at
i + 15 + c + x. -/
def State.bankCycle (s : State) (c : Nat) : State :=
  let k := s.core c
  if k.banks.isEmpty then s
  else
    let as := serveBanks s.now [] ((List.range 4).flatMap fun p => k.banks.filter fun a => a.pri == p)
    let (live, done) := as.partition fun a => !a.words.isEmpty
    done.foldl (fun s a =>
      match a.ret with
      | some (x, serial, slot, part) => s.sched (a.issue + 15 + a.c + a.waited) (.loadResult c x serial slot part a.bs none)
      | none => s) (s.modCore c fun k => { k with banks := live })

end Sys2Proof.Machine
end

