-- ==== Sys2Proof/Machine/Control.lean ====
section
/-!
DEFINITION. Control registers (R90 to R100): what each number reads, which context may write it, how a write is
applied, RCTL, WCTL, SCTL and CCTL, and the events in which a committed write takes effect.
-/

namespace Sys2Proof.Machine

/-- The owner of a tile (R95). -/
def Core.tileOwner (k : Core) (i : Nat) : Nat := bitsOf k.tom.toNat (4 * i) 4

/-- A context owns a tile; a pair's contexts do if the leading one does (R171). Context 0 owns none, as 0 means free. -/
def State.ownsTileIn (s : State) (c x i : Nat) : Bool :=
  let y := if (s.ctx c x).pair then leader x else x
  y != 0 && (s.core c).tileOwner i == y

/-- A control number that names a counter under the rule of R308. -/
def ctlCounter (cn : Nat) : Bool := (decide (0x030 ≤ cn) && decide (cn ≤ 0x03F)) || (decide (0x100 ≤ cn) && decide (cn ≤ 0x160))

/-- creg(cn) for a context: the value an RCTL of this cycle reads (R90, R91). -/
def State.creg (s : State) (c x cn : Nat) : W64 :=
  let k := s.core c
  let t := k.ctx x
  let d := s.die (dieOf c)
  match cn with
  | 0x000 => ctxid c x
  | 0x001 => t.gtid
  | 0x002 => k.tvec
  | 0x003 => t.fpm.setWidth 64
  | 0x004 => k.tom
  | 0x005 => k.hbi.setWidth 64
  | 0x006 => k.arbseed.setWidth 64
  | 0x007 => BitVec.ofNat 64 (s.tbase (pkgOf c))
  | 0x008 => t.cwb0.setWidth 64
  | 0x009 => t.cwl0.setWidth 64
  | 0x00A => t.cwb1.setWidth 64
  | 0x00B => t.cwl1.setWidth 64
  | 0x00C => k.seinj
  | 0x180 => d.ebud.setWidth 64
  | 0x181 => BitVec.ofNat 64 (wrapU d.erem 32)
  | 0x182 => BitVec.ofNat 64 d.ewin
  | n =>
    if 0x010 ≤ n ∧ n ≤ 0x013 then k.lgm.get 0 (n - 0x010)
    else if 0x020 ≤ n ∧ n ≤ 0x02F then (k.tsh.get 0 (n - 0x020)).setWidth 64
    else if 0x040 ≤ n ∧ n ≤ 0x043 then BitVec.ofNat 64 (k.counterSeen (slotCounter x (n - 0x040)))
    else BitVec.ofNat 64 (k.counterSeen n)

/-- The bits of a control register that a write changes (R6, R93 to R100). -/
def ctlMask (cn : Nat) : W64 :=
  match cn with
  | 0x002 => 0xFFFFFFFFFFFFFFF8
  | 0x003 => 3
  | 0x004 => 0xFFFFFFFFFFFFFFFF
  | 0x008 | 0x009 | 0x00A | 0x00B => 0x7FFF8
  | 0x00C => 0xFFFFF
  | n =>
    if 0x010 ≤ n ∧ n ≤ 0x013 then 0xFFFFFFFFFFFFFFFF
    else if 0x020 ≤ n ∧ n ≤ 0x02F then 0x3FFFF
    else if 0x100 ≤ n ∧ n ≤ 0x160 then 0xFFFFFFFFFFFF
    else 0xFFFFFFFF

/-- The context may write a control register (R90, R92). -/
def State.ctlWritable (s : State) (c x cn : Nat) : Bool :=
  if cn == 3 || (decide (8 ≤ cn) && decide (cn ≤ 11)) || (decide (0x010 ≤ cn) && decide (cn ≤ 0x013))
    || (decide (0x030 ≤ cn) && decide (cn ≤ 0x03F)) then true
  else if 0x020 ≤ cn ∧ cn ≤ 0x02F then s.ownsTileIn c x (cn - 0x020)
  else if cn == 2 || (decide (4 ≤ cn) && decide (cn ≤ 6)) || cn == 0x00C || (decide (0x100 ≤ cn) && decide (cn ≤ 0x160))
    || cn == 0x180 then x == 0
  else false

/-- A control register with every write applied that a commit has made, visible or not (R91: writes of one block apply
in slot order). -/
def State.cregNow (s : State) (c x cn : Nat) : W64 :=
  let k := s.core c
  if cn = 0x180 then
    s.agenda.foldl (fun v e => match e.2 with
      | .ebudWrite d w => if d == dieOf c then w.setWidth 64 else v
      | _ => v) (s.creg c x cn)
  else
    let y := if ctlOfContext cn then x else 0
    let v := if ctlCounter cn then BitVec.ofNat 64 (k.cwrites.get (k.counter cn) cn) else s.creg c x cn
    k.delayed.foldl (fun v e => match e.2 with
      | .ctl z n w => if z == y && n == cn then w else v
      | _ => v) v

/-- The shape of a tile as a release at this point of a commit captures it (R96, R172). -/
def State.shapeNow (s : State) (c i : Nat) : W32 := (s.cregNow c 0 (0x020 + i)).setWidth 32

/-- A committed WCTL (sub 1), SCTL (2) or CCTL (3) in the commit rotation that begins at `c0` (R91): visible from
c0 + 16, and for the die's budget from c0 + 80. A counter has its new value at c0, and counts on from it (R308; log entry 15). -/
def State.commitCtl (s : State) (c x sub cn : Nat) (l : W64) (c0 : Nat) : State :=
  let old := s.cregNow c x cn
  let m := ctlMask cn
  let v := (if sub = 1 then l else if sub = 2 then old ||| l else old &&& ~~~ l) &&& m
  if cn = 0x180 then s.sched (c0 + 80) (.ebudWrite (dieOf c) (v.setWidth 32))
  else if ctlCounter cn then s.replaceCounter c cn v.toNat (c0 + 16)
  else
    s.modCore c fun k => { k with delayed := k.delayed ++ [(c0 + 16, .ctl (if ctlOfContext cn then x else 0) cn v)] }

/-- The delayed writes of a core that are due take effect (R91, R195); those with consequences do so as events. -/
def State.flushDelayed (s : State) (c : Nat) : State :=
  let s := if (s.core c).unseen.all fun e => decide (s.now < e.2.1) then s
    else s.modCore c fun k => { k with unseen := k.unseen.filter fun e => decide (s.now < e.2.1) }
  let k := s.core c
  match k.delayed.filter fun e => decide (e.1 ≤ s.now) with
  | [] => s
  | due =>
    due.foldl (fun s e => match e.2 with
      | .cells cs => s.modCore c fun k => k.writeCells cs
      | .ctl x cn v =>
        match cn with
        | 0x004 => s.sched s.now (.tomWrite c v)
        | 0x005 => s.sched s.now (.hbiWrite c (v.setWidth 32))
        | 0x00C => s.sched s.now (.seinjWrite c v)
        | 0x002 => s.modCore c fun k => { k with tvec := v }
        | 0x006 => s.modCore c fun k => { k with arbseed := v.setWidth 32 }
        | n =>
          if ctlOfContext n then s.modCtx c x fun t => t.setCtl n v
          else if 0x010 ≤ n ∧ n ≤ 0x013 then s.modCore c fun k => { k with lgm := k.lgm.put (n - 0x010) v }
          else s.modCore c fun k => { k with tsh := k.tsh.put (n - 0x020) (v.setWidth 32) })
      (s.modCore c fun k => { k with delayed := k.delayed.filter fun e => decide (s.now < e.1) })

/-- RCTL (R91, R92): ESCAPE for an order-sensitive register in a STRICT launch. -/
def execRctl (pm : Pm) (cn : BitVec 12) (t0 : BitVec 8) (s : State) : Outcome :=
  if s.offScalar pm then .next (s.fireNull [t0])
  else if ctlOrdered cn.toNat && s.strict s.cur.core s.cur.ctx then .next (s.raise { code := .escape })
  else if (Instr.rctl pm cn t0).passesValue then
    .next (s.paired [t0] fun s => s.deliverValue [t0] (s.creg s.cur.core s.cur.ctx cn.toNat))
  else .next (s.fired.emit [t0] (.scalar (s.creg s.cur.core s.cur.ctx cn.toNat)))

/-- A write of a control register fires (R91, R92): PRIV where the register is RO for the context. -/
def State.fireCtl (s : State) (pm : Pm) (sub : Nat) (cn : BitVec 12) : State :=
  s.fireEff pm fun s =>
    if s.ctlWritable s.cur.core s.cur.ctx cn.toNat then .ok (.ctl sub cn.toNat s.slot.l.tok.scal) else .error { code := .priv }

/-- WCTL (R91, R92). -/
def execWctl (pm : Pm) (cn : BitVec 12) (s : State) : Outcome := .next (s.fireCtl pm 1 cn)
/-- SCTL (R91, R92). -/
def execSctl (pm : Pm) (cn : BitVec 12) (s : State) : Outcome := .next (s.fireCtl pm 2 cn)
/-- CCTL (R91, R92). -/
def execCctl (pm : Pm) (cn : BitVec 12) (s : State) : Outcome := .next (s.fireCtl pm 3 cn)

/-- SEINJ_WRITE (R99): the whole register is replaced. -/
def execSeinjWrite (s : State) : Outcome :=
  match s.ev with
  | .seinjWrite c v => .next (s.modCore c fun k => { k with seinj := v })
  | _ => .next s

/-- The head contexts of a die's cores that hold back tasks compare their estimates again (R33). -/
def State.admitAgain (s : State) (d : Nat) : State :=
  (s.cores.filter fun e => dieOf e.1 == d && !e.2.spawnq.isEmpty).foldl (fun s e => s.sched s.now (.taskAdmission e.1)) s

/-- EBUD_WRITE (R33, R91, R100): the register reads the new value, and the next window starts from it; a task whose estimate was
compared as a greater ebud may fit now. -/
def execEbudWrite (s : State) : Outcome :=
  match s.ev with
  | .ebudWrite d v => .next ((s.modDie d fun k => { k with ebud := v }).admitAgain d)
  | _ => .next s

/-- A heartbeat timer of the core is at its limit or beyond (R329). -/
def Core.missed (k : Core) : Bool := k.hbi != 0 && k.ctxs.any fun e => decide (k.hbi.toNat * 256 ≤ e.2.hb)

/-- A core with a timer at its limit or beyond misses its heartbeat at once (R329). -/
def State.checkBeat (s : State) (c : Nat) : State := if (s.core c).missed then s.sched s.now (.heartbeatMiss c) else s

/-- HBI_WRITE (R329): every heartbeat limit of the core changes from this rotation; a timer beyond the new one misses at
once. -/
def execHbiWrite (s : State) : Outcome :=
  match s.ev with
  | .hbiWrite c v =>
    .next ((s.modCore c fun k => { k with hbi := v }).checkBeat c)
  | _ => .next s

/-- The tiles an operation reads (R173): td as well for an accumulating multiply and for TINS. -/
def TileEntry.reads (e : TileEntry) : List Nat :=
  match e.op with
  | .tld | .tzero => []
  | .tst | .tckv | .tcvt | .ttrn | .trow => [e.ta]
  | .tadd => [e.ta, e.tb]
  | .tmma | .tmmas | .tmmac => [e.ta, e.tb] ++ if e.acc = 0 then [] else [e.td]
  | .tins => [e.td]

/-- A tile made INVALID (R89); the operations of the FIFO that are to read it are spoilt (R173). -/
def Core.invalidateTile (k : Core) (i : Nat) : Core :=
  { k with
      tiles := k.tiles.put i { (k.tiles.get {} i) with st := .invalid }
      fifo := k.fifo.map fun e => if e.reads.contains i then { e with badSrc := e.badSrc.or (some i) } else e }

/-- The owner fields of a core changed: a tile whose field is cleared or changed becomes INVALID (R89, R95). -/
def Core.setTom (k : Core) (v : W64) : Core :=
  (List.range 16).foldl (fun q i =>
    if k.tileOwner i ≠ 0 ∧ bitsOf v.toNat (4 * i) 4 ≠ k.tileOwner i then q.invalidateTile i else q) { k with tom := v }

/-- Owner fields with those that name a context cleared (R95). -/
def clearOwner (x : Nat) (v : W64) : W64 :=
  (List.range 16).foldl (fun v i => if bitsOf v.toNat (4 * i) 4 = x then v &&& ~~~ (0xF#64 <<< (4 * i)) else v) v

/-- Every owner field that names a context is cleared (R95, R175), in a committed write that is not visible yet as well. -/
def State.clearTom (s : State) (c x : Nat) : State :=
  let s := s.modCore c fun k => { k.setTom (clearOwner x k.tom) with delayed := k.delayed.map fun e => match e.2 with
    | .ctl y 0x004 v => (e.1, .ctl y 0x004 (clearOwner x v))
    | _ => e }
  { s with agenda := s.agenda.map fun e => match e.2 with
    | .tomWrite d v => if d = c then (e.1, .tomWrite c (clearOwner x v)) else e
    | _ => e }

/-- TOM_WRITE (R95). -/
def execTomWrite (s : State) : Outcome :=
  match s.ev with
  | .tomWrite c v => .next (s.modCore c fun k => k.setTom v)
  | _ => .next s

end Sys2Proof.Machine
end

