-- ==== Sys2Proof/Machine/Faults.lean ====
section
/-!
DEFINITION. Deferred faults and the trap queue (R84, R174, R242, R359 to R363), and the completion of asynchronous
producers (R82 to R84).
-/

namespace Sys2Proof.Machine

/-- A record that no latched context holds goes to the core's trap queue (R242, R362). -/
def State.queueRecord (s : State) (c : Nat) (r : TrapRec) : State :=
  (s.modCore c fun k => { k with trapWait := k.trapWait ++ [r] }).sched s.now (.trapRecordQueued c r.ctx)

/-- One more further fault in a record, at most 255 (R242). -/
def TrapRec.another (r : TrapRec) : TrapRec := { r with more := min 255 (r.more + 1) }

/-- The state in which a deferred fault finds a context: a switched-out one in its saved state, where a departure stands still
(R87, R339). -/
def Ctx.standing (t : Ctx) : CtxState :=
  match t.st with
  | .switched => if t.saved = .departing then .active else t.saved
  | st => st

/-- A deferred fault reaches the context that a record names (R242): in its retry latch it only counts; an exited or
departed thread's record is queued (a record may name its thread); a thread whose continuation has not left is
latched; any other takes it in its next usable slot. In a switched-out context it joins the saved state. DESIGN CHOICE (log entry 62): one
that comes while an earlier one still waits for that slot counts as a further fault of it. -/
def State.postDeferred (s : State) (r : TrapRec) : State :=
  let c := r.core
  let x := r.ctx
  let t := s.ctx c x
  let r := { r with dfr := true, tb := s.tbase (pkgOf c) }
  if r.gtid ≠ 0 ∧ r.gtid ≠ t.gtid then s.queueRecord c r
  else
  let r := { r with gtid := t.gtid, pair := t.pair }
  match t.standing with
  | .latched =>
    let held := (s.ctx c (if t.pair then leader x else x)).latch.map (·.trap)
    let s := (s.team c x).foldl (fun s y => s.modCtx c y fun t =>
      { t with latch := t.latch.map fun l => { l with trap := l.trap.another } }) s
    let bump (q : TrapRec) : TrapRec := if some q = held then q.another else q
    s.modCore c fun k => { k with trapq := k.trapq.map bump }
  | .active =>
    (s.team c x).foldl (fun s y => s.modCtx c y fun t =>
      { t with pend := some (match t.pend with | some p => p.another | none => r) }) s
  | .departing =>
    match t.depart with
    | some d => if d.sent then s.queueRecord c r else s.latchCtx c x { r with blk := d.blk }
    | none => s.queueRecord c r
  | _ => s.queueRecord c r

/-- A context takes its deferred fault in its slot (R242): the current block is discarded and the context latched with
that block's address. In a delegated routine it ends the routine, and the requester's record names the releasing block (R286). -/
def State.takeDeferred (s : State) (c x : Nat) (r : TrapRec) : State :=
  let r := { r with blk := (s.ctx c x).blkAddr, gtid := (s.ctx c x).gtid, tb := s.tbase (pkgOf c) }
  let s := (s.team c x).foldl (fun s y => s.modCtx c y fun t => { t with pend := none }) s
  if x ≠ 0 then s.latchCtx c x r
  else match (s.core c).head.routine with
  | some m => s.endRoutineBy c m { code := r.cause, sub := r.sub, file := r.file, emp := r.emp, va := r.va, cmb := r.cmb, more := r.more } r.rblk r.rslot
  | none => s.headFault c r

/-- The latched contexts of a core whose record is not in the trap queue yet, the earliest first (R360). -/
def Core.unqueued (k : Core) : List (Nat × Latch) :=
  let ls := k.ctxs.filterMap fun e => match e.2.latch with
    | some l => if l.queued then none else some (e.1, l)
    | none => none
  match ls with
  | [] => []
  | a :: rest => [rest.foldl (fun m e => if e.2.order < m.2.order then e else m) a]

/-- TRAP_RECORD_QUEUED (R360): while the queue has room for 16 records, waiting records and then latched contexts enter
it, in the order they latched; the head context may take one. -/
def execTrapRecordQueued (s : State) : Outcome :=
  match s.ev with
  | .trapRecordQueued c x =>
    let k := s.core c
    if 16 ≤ k.trapq.length then .next s
    else match k.trapWait with
    | r :: rest =>
      .next (((s.modCore c fun k => { k with trapWait := rest, trapq := k.trapq ++ [r] }).sched s.now
        (.trapRecordQueued c x)).sched s.now (.trapHandlerEntry c))
    | [] =>
      match k.unqueued with
      | [] => .next s
      | (y, l) :: _ =>
        let s := (s.modCtx c y fun t => { t with latch := some { l with queued := true } }).modCore c fun k =>
          { k with trapq := k.trapq ++ [l.trap] }
        .next ((s.sched s.now (.trapRecordQueued c x)).sched s.now (.trapHandlerEntry c))
  | _ => .next s

/-- A register of a context, and of the other context of its pair, completed by a producer: FULL with a value, or
INVALID (R84). -/
def State.completeReg (s : State) (c x : Nat) (f : RegFile) (r : Nat) (v : V1024) (ok : Bool) : State :=
  (s.team c x).foldl (fun s y => s.modCtx c y fun t =>
    if !ok then t.makeInvalid f r
    else match f with
    | .vr => t.setV r v 0xFFFFFFFF
    | _ => t.setG r (v.setWidth 64)) s

/-- A producer whose result a message brings (R82). -/
def ProdKind.msg (k : ProdKind) : Bool := k == .dcall || k == .merge

/-- An asynchronous producer is noted in the context, or in both of a pair (R82, R84). Two of one block that name one register never hold
it together (R83): the later released one holds it (log entry 58). -/
def State.addProducer (s : State) (c x : Nat) (p : Producer) : State :=
  (s.team c x).foldl (fun s y => s.modCtx c y fun t =>
    { t with prods := (t.prods.filter fun q => q.file != p.file || q.reg != p.reg) ++ [p] }) s

/-- The producer with a number has ended: its register completes if the context still awaits it. -/
def State.endProducer (s : State) (c x : Nat) (f : RegFile) (r : Nat) (v : V1024) (ok : Bool) (id : Nat) : State :=
  let y := if (s.ctx c x).pair then leader x else x
  if (s.ctx c y).prods.any fun p => p.id == id then
    let s := (s.team c x).foldl (fun s z => s.modCtx c z fun t => { t with prods := t.prods.filter fun p => p.id != id }) s
    (s.completeReg c x f r v ok).tryDepart c y
  else s

end Sys2Proof.Machine
end

