-- ==== Sys2Proof/Machine/Float.lean ====
section
/-!
DEFINITION. Number formats (R123 to R139): floating-point values, rounding, the exact operations, conversions,
block floating point and ordered keys. A value is formed exactly, as a magnitude mag × 2^exp, and rounded
once. Beside a result stand the exception counters (R139) that its element feeds.
-/

namespace Sys2Proof.Machine

/-- A result's bits and the exception counters it feeds. -/
abbrev Res := Nat × List Nat

/-- A floating-point value (R123). -/
inductive FVal where
  | nan (signalling : Bool)
  | inf (neg : Bool)
  | fin (neg : Bool) (mag : Nat) (exp : Int)
deriving DecidableEq, Repr, Inhabited

/-- An exact result before rounding: a finite one lies in [mag, mag + 1) × 2^exp, and is above mag × 2^exp exactly
when `sticky`. -/
inductive Exact where
  | nan
  | inf (neg : Bool)
  | fin (neg : Bool) (mag : Nat) (exp : Int) (sticky : Bool)
deriving DecidableEq, Repr, Inhabited

/-- Exponent and fraction widths of a floating-point format (R123); other codes take FP32's. -/
def Fmt.fields (f : Fmt) : Nat × Nat :=
  match f with
  | .bf16 => (8, 7)
  | .f16 => (5, 10)
  | _ => (8, 23)

/-- The width in bits of an element (R129); BFX4 elements have 4 bits. -/
def Fmt.width (f : Fmt) : Nat :=
  match f with
  | .f32 | .i32 => 32
  | .bf16 | .f16 | .i16 => 16
  | .i8 | .bfx8 => 8
  | .bfx4 => 4

/-- The bias of a floating-point format. -/
def Fmt.bias (f : Fmt) : Int := (2 ^ (f.fields.1 - 1) - 1 : Nat)
/-- The exponent of the last place of the smallest normal. -/
def Fmt.qmin (f : Fmt) : Int := 1 - f.bias - f.fields.2
/-- The bits of +∞. -/
def Fmt.infBits (f : Fmt) : Nat := (2 ^ f.fields.1 - 1) * 2 ^ f.fields.2
/-- The sign bit's weight. -/
def Fmt.signBit (f : Fmt) : Nat := 2 ^ (f.fields.1 + f.fields.2)
/-- cnan (R123, R124). -/
def cnan (f : Fmt) : Nat := f.infBits + 2 ^ (f.fields.2 - 1)
/-- The bits of a signed magnitude pattern. -/
def Fmt.signed (f : Fmt) (neg : Bool) (bits : Nat) : Nat := if neg then f.signBit + bits else bits

/-- The value of a bit pattern (R123). -/
def unpack (f : Fmt) (b : Nat) : FVal :=
  let fb := f.fields.2
  let neg := bitOf b (f.fields.1 + fb)
  let e := bitsOf b fb f.fields.1
  let m := bitsOf b 0 fb
  if e = 2 ^ f.fields.1 - 1 then (if m = 0 then .inf neg else .nan (!bitOf m (fb - 1)))
  else if e = 0 then .fin neg m f.qmin
  else .fin neg (2 ^ fb + m) (f.qmin + e - 1)

/-- Rounds mag × 2^(-shift), with a sticky rest, to an integer by mode `m` (R125). -/
def roundNat (neg : Bool) (mag shift : Nat) (sticky : Bool) (m : Nat) : Nat × Bool :=
  let q := mag / 2 ^ shift
  let rem := 2 * (mag % 2 ^ shift)
  let half := 2 ^ shift
  let inexact := rem != 0 || sticky
  let up :=
    if m = 0 then decide (half < rem) || (rem == half && shift != 0 && (sticky || q % 2 == 1))
    else if m = 1 then false
    else if m = 2 then !neg && inexact
    else neg && inexact
  (if up then q + 1 else q, inexact)

/-- rnd_f (R125, R127): the bits of an exact result and the counters it feeds. -/
def round (f : Fmt) (m : Nat) : Exact → Res
  | .nan => (cnan f, [5])
  | .inf neg => (f.signed neg f.infBits, [])
  | .fin neg mag exp sticky =>
    if mag = 0 ∧ !sticky then (f.signed neg 0, [])
    else
      let q := max (exp + Nat.log2 mag - f.fields.2) f.qmin
      let d := q - exp
      let (n, inexact) := if d ≤ 0 then (mag * 2 ^ (-d).toNat, sticky) else roundNat neg mag d.toNat sticky m
      let bits := (q - f.qmin).toNat * 2 ^ f.fields.2 + n
      if f.infBits ≤ bits then
        let big := if m = 0 then true else if m = 1 then false else if m = 2 then !neg else neg
        (f.signed neg (if big then f.infBits else f.infBits - 1), [2, 4])
      else
        let sub := n != 0 && decide (n < 2 ^ f.fields.2) && q == f.qmin
        (f.signed neg bits, (if sub && inexact then [3] else []) ++ (if inexact then [4] else [])
          ++ (if sub then [9] else []))

/-- The value, exactly. -/
def FVal.exact : FVal → Exact
  | .nan _ => .nan
  | .inf n => .inf n
  | .fin n m e => .fin n m e false

/-- The value is a signalling NaN. -/
def FVal.isSig : FVal → Bool
  | .nan b => b
  | _ => false
/-- The value is a NaN. -/
def FVal.isNan : FVal → Bool
  | .nan _ => true
  | _ => false
/-- The sign. -/
def FVal.neg : FVal → Bool
  | .nan _ => false
  | .inf n => n
  | .fin n _ _ => n
/-- The value is ±0. -/
def FVal.isZero : FVal → Bool
  | .fin _ 0 _ => true
  | _ => false
/-- The value with the opposite sign. -/
def FVal.flip : FVal → FVal
  | .nan b => .nan b
  | .inf n => .inf !n
  | .fin n m e => .fin (!n) m e

/-- Counters of a result that has an invalid operation. -/
def invalid : Exact × List Nat := (.nan, [0])
/-- Counters of NaN operands: ex0 for a signalling one (R124). -/
def nanOf (xs : List FVal) : Exact × List Nat := (.nan, if xs.any FVal.isSig then [0] else [])

/-- A signed integer multiple of 2^exp, the zero with the sign `zneg`. -/
def exactInt (v : Int) (exp : Int) (zneg : Bool) : Exact :=
  .fin (if v = 0 then zneg else decide (v < 0)) v.natAbs exp false

/-- A signed magnitude at a lower exponent. -/
def scaledInt (neg : Bool) (m : Nat) (e lo : Int) : Int :=
  let v : Int := (m * 2 ^ (e - lo).toNat : Nat)
  if neg then -v else v

/-- The exact sum, exact zeros signed as mode 0 has them (R126). -/
def addExact (a b : FVal) : Exact × List Nat :=
  match a, b with
  | .fin na ma ea, .fin nb mb eb =>
    let lo := min ea eb
    (exactInt (scaledInt na ma ea lo + scaledInt nb mb eb lo) lo (na && nb && ma == 0 && mb == 0), [])
  | .inf na, .inf nb => if na = nb then (.inf na, []) else invalid
  | .inf n, .fin .. => (.inf n, [])
  | .fin .., .inf n => (.inf n, [])
  | a, b => nanOf [a, b]

/-- The exact product. -/
def mulVal (a b : FVal) : Option FVal :=
  match a, b with
  | .fin na ma ea, .fin nb mb eb => some (.fin (na != nb) (ma * mb) (ea + eb))
  | .inf na, .inf nb => some (.inf (na != nb))
  | .inf na, .fin nb mb _ => if mb = 0 then none else some (.inf (na != nb))
  | .fin na ma _, .inf nb => if ma = 0 then none else some (.inf (na != nb))
  | _, _ => none

/-- The exact product, 0 × ∞ being invalid (R139). -/
def mulExact (a b : FVal) : Exact × List Nat :=
  if a.isNan || b.isNan then nanOf [a, b]
  else match mulVal a b with
  | some v => (v.exact, [])
  | none => invalid

/-- a × b + c with one rounding to come (R146): 0 × ∞ is invalid even when c is a NaN. -/
def fmaExact (a b c : FVal) : Exact × List Nat :=
  if a.isNan || b.isNan then nanOf [a, b, c]
  else match mulVal a b with
  | none => invalid
  | some v => if c.isNan then nanOf [a, b, c] else addExact v c

/-- The number of further bits that make a quotient or root long enough for any rounding. -/
def guardBits : Nat := 64

/-- The exact quotient (R146). -/
def divExact (a b : FVal) : Exact × List Nat :=
  match a, b with
  | .fin na ma ea, .fin nb mb eb =>
    if mb = 0 then (if ma = 0 then invalid else (.inf (na != nb), [1]))
    else
      let n := ma * 2 ^ guardBits
      (.fin (na != nb) (n / mb) (ea - eb - guardBits) (n % mb != 0), [])
  | .inf _, .inf _ => invalid
  | .inf na, .fin nb _ _ => (.inf (na != nb), [])
  | .fin na _ _, .inf nb => (.fin (na != nb) 0 0 false, [])
  | a, b => nanOf [a, b]

/-- The integer square root, found bit by bit from the weight 2^k down. -/
def isqrtFrom (n : Nat) : Nat → Nat → Nat
  | 0, r => if (r + 1) * (r + 1) ≤ n then r + 1 else r
  | k + 1, r => isqrtFrom n k (if (r + 2 ^ (k + 1)) * (r + 2 ^ (k + 1)) ≤ n then r + 2 ^ (k + 1) else r)
/-- The integer square root. -/
def isqrt (n : Nat) : Nat := isqrtFrom n (Nat.log2 n / 2) 0

/-- The exact square root of a positive value (R149). -/
def sqrtPos (m : Nat) (e : Int) : Exact :=
  let m2 := if e % 2 = 0 then m else 2 * m
  let e2 := if e % 2 = 0 then e else e - 1
  let n := m2 * 2 ^ (2 * guardBits)
  let r := isqrt n
  .fin false r (e2 / 2 - guardBits) (r * r != n)

/-- √x (R149). -/
def sqrtExact (x : FVal) : Exact × List Nat :=
  match x with
  | .nan _ => nanOf [x]
  | .inf n => if n then invalid else (.inf false, [])
  | .fin n m e => if m = 0 then (.fin n 0 0 false, []) else if n then invalid else (sqrtPos m e, [])

/-- 1/x (R149). -/
def rcpExact (x : FVal) : Exact × List Nat := divExact (.fin false 1 0) x

/-- 1/√x (R149): the root of the reciprocal, taken with enough bits. -/
def rsqExact (x : FVal) : Exact × List Nat :=
  match x with
  | .nan _ => nanOf [x]
  | .inf n => if n then invalid else (.fin false 0 0 false, [])
  | .fin n m e =>
    if m = 0 then (.inf n, [1])
    else if n then invalid
    else
      -- 1/√(m 2^e) = √(2^(2k) / m) · 2^(-k - e/2), with e even
      let m2 := if e % 2 = 0 then m else 2 * m
      let e2 := if e % 2 = 0 then e else e - 1
      let k : Nat := 128
      let q := 2 ^ (2 * k) / m2
      let r := isqrt q
      (.fin false r (-(k : Int) - e2 / 2) (r * r * m2 != 2 ^ (2 * k)), [])

/-- The bits of log₂ y / 2^P after the point, by repeated squaring, for 2^P ≤ y < 2^(P+1). -/
def log2Bits (p : Nat) : Nat → Nat → Nat → Nat
  | 0, _, acc => acc
  | k + 1, y, acc =>
    let y2 := y * y / 2 ^ p
    if 2 ^ (p + 1) ≤ y2 then log2Bits p k (y2 / 2) (2 * acc + 1) else log2Bits p k y2 (2 * acc)

/-- log₂ x (R149); log entry 6 says to how many bits. -/
def log2Exact (x : FVal) : Exact × List Nat :=
  match x with
  | .nan _ => nanOf [x]
  | .inf n => if n then invalid else (.inf false, [])
  | .fin n m e =>
    if m = 0 then (.inf true, [1])
    else if n then invalid
    else
      let l := Nat.log2 m
      let i : Int := e + l
      if m = 2 ^ l then (exactInt i 0 false, [])
      else
        let p : Nat := 400
        let fr := log2Bits p 120 (m * 2 ^ (p - l)) 0
        let v : Int := i * ((2 ^ 120 : Nat) : Int) + (fr : Int)
        (if 0 ≤ v then .fin false v.toNat (-120) true else .fin true (-v - 1).toNat (-120) true, [])

/-- The product over the bits of a fraction f / 2^k of the roots 2^(2^-j), in units of 2^-P, from r = 2^(2^-(j-1)) on. -/
def exp2Frac (p f k : Nat) : Nat → Nat → Nat → Nat → Nat
  | 0, _, _, acc => acc
  | fuel + 1, j, r, acc =>
    let r' := isqrt (r * 2 ^ p)
    exp2Frac p f k fuel (j + 1) r' (if bitOf f (k - j) then acc * r' / 2 ^ p else acc)

/-- 2^x (R149); log entry 6 says to how many bits. -/
def exp2Exact (x : FVal) : Exact × List Nat :=
  match x with
  | .nan _ => nanOf [x]
  | .inf n => if n then (.fin false 0 0 false, []) else (.inf false, [])
  | .fin n m e =>
    if m = 0 then (.fin false 1 0 false, [])
    else
      let v : Int := if n then -(m : Int) else (m : Int)
      if 0 ≤ e + Nat.log2 m - 10 then
        -- |x| ≥ 1024: beyond every format
        (.fin false 1 (if n then -100000 else 100000) false, [])
      else if 0 ≤ e then (.fin false 1 (v * (2 ^ e.toNat : Nat)) false, [])
      else
        let k := (-e).toNat
        let i := v / (2 ^ k : Nat)
        let f := (v % (2 ^ k : Nat)).toNat
        if f = 0 then (.fin false 1 i false, [])
        else
          let p : Nat := 400
          let y := exp2Frac p f k k 1 (2 * 2 ^ p) (2 ^ p)
          (.fin false (y / 2 ^ 160) (i - 240) true, [])

/-- The larger or smaller of two values, −0 below +0 (R147). -/
def FVal.below (a b : FVal) : Bool :=
  match a, b with
  | .inf na, .inf nb => na && !nb
  | .inf na, _ => na
  | _, .inf nb => !nb
  | .fin na ma ea, .fin nb mb eb =>
    let lo := min ea eb
    let x := scaledInt na ma ea lo
    let y := scaledInt nb mb eb lo
    decide (x < y) || (x == y && na && !nb)
  | _, _ => false

/-- Two values are equal, −0 equal to +0 (R151). -/
def FVal.eqv (a b : FVal) : Bool :=
  match a, b with
  | .inf na, .inf nb => na == nb
  | .fin na ma ea, .fin nb mb eb =>
    let lo := min ea eb
    scaledInt na ma ea lo == scaledInt nb mb eb lo
  | _, _ => false

/-- Counters without repetition, ex5 when a NaN is delivered. -/
def finish (f : Fmt) (m : Nat) (r : Exact × List Nat) : Res :=
  let (b, ev) := round f m r.1
  (b, (r.2 ++ ev).eraseDups)

/-- A value delivered unchanged (R147, R148): a NaN becomes cnan, a subnormal counts in ex9. -/
def deliverSame (f : Fmt) (v : FVal) (bits : Nat) : Res :=
  match v with
  | .nan b => (cnan f, (if b then [0] else []) ++ [5])
  | .fin _ m _ => (bits, if m != 0 && decide (m < 2 ^ f.fields.2) then [9] else [])
  | .inf _ => (bits, [])

/-- VMIN and VMAX on a float format (R147). -/
def minMaxF (f : Fmt) (isMax : Bool) (a b : Nat) : Res :=
  let x := unpack f a
  let y := unpack f b
  if x.isNan || y.isNan then finish f 0 (nanOf [x, y])
  else
    let first := if isMax then !x.below y else !y.below x
    if first then deliverSame f x a else deliverSame f y b

/-! ### Integers and conversions -/

/-- sat_s (R125): the n-bit pattern and ex6 when it clamps. -/
def satS (v : Int) (n : Nat) : Res :=
  if (2 ^ (n - 1) : Nat) ≤ v then (2 ^ (n - 1) - 1, [6])
  else if v < -((2 ^ (n - 1) : Nat) : Int) then (2 ^ (n - 1), [6])
  else (wrapU v n, [])

/-- sat_u (R125). -/
def satU (v : Int) (n : Nat) : Res :=
  if (2 ^ n : Nat) ≤ v then (2 ^ n - 1, [6]) else if v < 0 then (0, [6]) else (v.toNat, [])

/-- rnd_i of mag × 2^exp (R125) and whether it is inexact. -/
def rndI (neg : Bool) (mag : Nat) (exp : Int) (m : Nat) : Int × Bool :=
  let (q, ix) := if 0 ≤ exp then (mag * 2 ^ exp.toNat, false) else roundNat neg mag (-exp).toNat false m
  (if neg then -(q : Int) else q, ix)

/-- fix(x, s, n, m) (R130). A scale beyond ±4096 gives what ±4096 gives: every non-zero value is then beyond, or far
below, every integer format. -/
def fix (x : FVal) (s : Int) (n m : Nat) : Res :=
  match x with
  | .nan _ => (0, [0])
  | .inf neg => satS (if neg then -((2 ^ n : Nat) : Int) else (2 ^ n : Nat)) n
  | .fin neg mag exp =>
    if mag = 0 then (0, [])
    else
      let (q, ix) := rndI neg mag (exp + max (-4096) (min 4096 s)) m
      let r := satS q n
      (r.1, if r.2.isEmpty && ix then [4] else r.2)

/-- A conversion between two formats of the set N (R130), by mode `m` and, from float to integer, with scale `s`. -/
def convert (fd fs : Fmt) (b : Nat) (s : Int) (m : Nat) : Res :=
  if fs.isFloat then
    let x := unpack fs b
    if fd.isFloat then finish fd m (match x with | .nan _ => nanOf [x] | x => (x.exact, []))
    else fix x s fd.width m
  else
    let q := signedOf b fs.width
    if fd.isFloat then finish fd m (exactInt q 0 false, [])
    else if fs.width ≤ fd.width then (wrapU q fd.width, [])
    else satS q fd.width

/-! ### Block floating point (R131 to R134) -/

/-- Whether BFX4; else BFX8: the greatest magnitude, and log₂ of f. -/
def bfxTop (four : Bool) : Nat := if four then 3 else 63
/-- log₂ f (R133). -/
def bfxLogF (four : Bool) : Nat := if four then 1 else 5

/-- floor(log₂ |x|) of a finite non-zero value. -/
def FVal.lg? (x : FVal) : Option Int :=
  match x with
  | .fin _ m e => if m = 0 then none else some (e + Nat.log2 m)
  | _ => none

/-- The greatest of some integers, if there is one. -/
def maxInt? (l : List Int) : Option Int :=
  l.foldl (fun r x => match r with | none => some x | some y => some (max x y)) none

/-- Quantisation of 32 values into one block (R133): the elements, E_hi, E_lo and the counters; a non-zero element below 2^-126 is a
subnormal result (R139; log entry 55). -/
def quantise (four : Bool) (xs : List FVal) : List Nat × Nat × Nat × List (Nat × Nat) :=
  let top := bfxTop four
  let mb := if four then 2 else 6
  let lgs := xs.filterMap FVal.lg?
  let amax := maxInt? lgs
  let eh : Int := match amax with | none => 0 | some l => max 0 (l + 127)
  let el : Int := match amax with
    | none => 0
    | some _ => match maxInt? (lgs.filter fun l => decide (l < eh - 129)) with
      | none => eh
      | some l => max 0 (max (eh - 31) (l + 127))
  let tiny (q : Nat) (e : Int) : List Nat := if q != 0 && decide ((Nat.log2 q : Int) + e - bfxLogF four < 1) then [9] else []
  let one (x : FVal) : Nat × List Nat :=
    match x with
    | .nan _ => (0, [0])
    | .inf n => ((if n then 2 ^ mb else 0) + top, 7 :: tiny top eh)
    | .fin n m e =>
      if amax.isNone then (0, [])
      else
        let low := match x.lg? with | none => true | some l => decide (l < eh - 129)
        let q := (rndI false m (e + bfxLogF four - ((if low then el else eh) - 127)) 0).1.toNat
        let q' := min q top
        ((if low then 2 ^ (mb + 1) else 0) + (if n && q' != 0 then 2 ^ mb else 0) + q',
          (if top < q then [7] else []) ++ tiny q' (if low then el else eh))
  let rs := xs.map one
  (rs.map (·.1), eh.toNat, el.toNat, rs.flatMap fun r => r.2.map fun k => (k, 1))

/-- The value of one element (R134), rounded to `dest`, which holds it exactly; an exponent of 255 gives cnan. -/
def dequantise (four : Bool) (dest : Fmt) (el eh elo : Nat) : Res :=
  let mb := if four then 2 else 6
  let e := if bitOf el (mb + 1) then elo else eh
  if e = 255 then (cnan dest, [0, 5])
  else round dest 0 (.fin (bitOf el mb) (bitsOf el 0 mb) ((e : Int) - 127 - bfxLogF four) false)

/-! ### Ordered keys (R136) -/

/-- The key of an FP32 pattern under a NaN policy. -/
def floatKey (b : Nat) (hi : Bool) : Nat :=
  if (unpack .f32 b).isNan then (if hi then 2 ^ 32 - 1 else 0)
  else if b = 2 ^ 31 then 2 ^ 31
  else if b < 2 ^ 31 then b + 2 ^ 31
  else 2 ^ 32 - 1 - b

end Sys2Proof.Machine
end

