-- ==== Sys2Proof/Machine/Vector.lean ====
section
/-!
DEFINITION. The vector instructions (R69, R141 to R165): one shared operation forms the elements of the lanes
that are computed; each instruction gives it its element function.
-/

namespace Sys2Proof.Machine

/-! ### Elements -/

/-- Element `j` of `w` bits of a vector (R129, R142). -/
def elem (x : V1024) (w j : Nat) : Nat := bitsOf x.toNat (w * j) w

/-- The number whose `w`-bit digits are given, the lowest first. -/
def packNat (w : Nat) : List Nat → Nat
  | [] => 0
  | e :: es => e % 2 ^ w + 2 ^ w * packNat w es

/-- The vector with given elements of `w` bits (R129). -/
def packElems (w : Nat) (es : List Nat) : V1024 := BitVec.ofNat 1024 (packNat w es)

/-- The exception events of element results (R140, R144). -/
def eventsOf (rs : List Res) : List (Nat × Nat) := rs.flatMap fun r => r.2.map fun k => (k, 1)

/-- The elements of the lanes in `m`, zero elsewhere, and their events. -/
def vecMap (w : Nat) (m : W32) (f : Nat → Res) : V1024 × List (Nat × Nat) :=
  let rs := (List.range (1024 / w)).map fun j => if m.getLsbD (w * j / 32) then f j else (0, [])
  (packElems w (rs.map (·.1)), eventsOf rs)

/-- A mask of lanes. -/
def maskOf (p : Nat → Bool) : W32 := BitVec.ofNat 32 (packNat 1 ((List.range 32).map fun i => if p i then 1 else 0))

/-- The current slot delivers a vector token, and counts events at commit. -/
def State.fireLanes (s : State) (ts : List (BitVec 8)) (r : V1024 × List (Nat × Nat)) (m : W32) : State :=
  (s.fired.events r.2).emit ts (.vector r.1 m)

/-- The vectors at the current slot's operands. -/
def State.lv (s : State) : V1024 × W32 := s.slot.l.tok.vec
/-- The right vector operand. -/
def State.rv (s : State) : V1024 × W32 := s.slot.r.tok.vec
/-- The predicate position's vector operand. -/
def State.pv (s : State) : V1024 × W32 := s.slot.p.tok.vec

/-- An instruction on L alone whose output lanes are its input lanes (R143). -/
def State.vec1 (s : State) (pm : Pm) (w : Nat) (ts : List (BitVec 8)) (f : V1024 → Nat → Res) : State :=
  if s.offVector pm then s.fireNull ts
  else
    let m := s.laneMask pm &&& s.lv.2
    s.fireLanes ts (vecMap w m (f s.lv.1)) m

/-- An instruction on L and R whose output lanes are its input lanes (R143). -/
def State.vec2 (s : State) (pm : Pm) (w : Nat) (ts : List (BitVec 8)) (f : V1024 → V1024 → Nat → Res) : State :=
  if s.offVector pm then s.fireNull ts
  else
    let m := s.laneMask pm &&& s.lv.2 &&& s.rv.2
    s.fireLanes ts (vecMap w m (f s.lv.1 s.rv.1)) m

/-- An instruction on L, with a scalar R, whose output lanes are its input lanes (R143). -/
def State.vec1s (s : State) (pm : Pm) (w : Nat) (ts : List (BitVec 8)) (f : V1024 → Nat → Nat → Res) : State :=
  if s.slot.r.isNull then s.fireNull ts else s.vec1 pm w ts fun l => f l s.slot.r.tok.scal.toNat

/-- An instruction on L, R and P whose output lanes are its input lanes (R143). -/
def State.vec3 (s : State) (w : Nat) (ts : List (BitVec 8)) (f : V1024 → V1024 → V1024 → Nat → Res) : State :=
  let m := s.lv.2 &&& s.rv.2 &&& s.pv.2
  s.fireLanes ts (vecMap w m (f s.lv.1 s.rv.1 s.pv.1)) m

/-- An element operation: the exact float result, or the wrapped integer one (R146). -/
def elem2 (f : Fmt) (fl : FVal → FVal → Exact × List Nat) (int : Int → Int → Int) (l r : V1024) (j : Nat) : Res :=
  let w := f.width
  let a := elem l w j
  let b := elem r w j
  if f.isFloat then finish f 0 (fl (unpack f a) (unpack f b)) else (wrapU (int (signedOf a w) (signedOf b w)) w, [])

/-! ### Arithmetic (R146 to R150) -/

/-- VADD (R146). -/
def execVadd (pm : Pm) (f : Fmt) (t1 t0 : BitVec 8) (s : State) : Outcome :=
  .next (s.vec2 pm f.width [t0, t1] (elem2 f addExact (· + ·)))
/-- VSUB (R146). -/
def execVsub (pm : Pm) (f : Fmt) (t1 t0 : BitVec 8) (s : State) : Outcome :=
  .next (s.vec2 pm f.width [t0, t1] (elem2 f (fun a b => addExact a b.flip) (· - ·)))
/-- VMUL (R146). -/
def execVmul (pm : Pm) (f : Fmt) (t1 t0 : BitVec 8) (s : State) : Outcome :=
  .next (s.vec2 pm f.width [t0, t1] (elem2 f mulExact (· * ·)))
/-- VDIV (R146). -/
def execVdiv (pm : Pm) (f : Fmt) (t1 t0 : BitVec 8) (s : State) : Outcome :=
  .next (s.vec2 pm f.width [t0, t1] (elem2 f divExact (fun _ _ => 0)))
/-- VFMA: L × R + P with one rounding (R146). -/
def execVfma (f : Fmt) (t1 t0 : BitVec 8) (s : State) : Outcome :=
  .next (s.vec3 f.width [t0, t1] fun l r p j =>
    let v (x : V1024) : FVal := unpack f (elem x f.width j)
    finish f 0 (fmaExact (v l) (v r) (v p)))
/-- VFNMA: P − L × R with one rounding (R146). -/
def execVfnma (f : Fmt) (t1 t0 : BitVec 8) (s : State) : Outcome :=
  .next (s.vec3 f.width [t0, t1] fun l r p j =>
    let v (x : V1024) : FVal := unpack f (elem x f.width j)
    finish f 0 (fmaExact (v l).flip (v r) (v p)))

/-- An element of VMIN or VMAX (R147). -/
def elemMinMax (f : Fmt) (isMax : Bool) (l r : V1024) (j : Nat) : Res :=
  let w := f.width
  let a := elem l w j
  let b := elem r w j
  if f.isFloat then minMaxF f isMax a b
  else ((if isMax then AluOp.max else AluOp.min).result w a b b, [])
/-- VMIN (R147). -/
def execVmin (pm : Pm) (f : Fmt) (t1 t0 : BitVec 8) (s : State) : Outcome :=
  .next (s.vec2 pm f.width [t0, t1] (elemMinMax f false))
/-- VMAX (R147). -/
def execVmax (pm : Pm) (f : Fmt) (t1 t0 : BitVec 8) (s : State) : Outcome :=
  .next (s.vec2 pm f.width [t0, t1] (elemMinMax f true))

/-- VABS (R148). -/
def execVabs (pm : Pm) (f : Fmt) (t1 t0 : BitVec 8) (s : State) : Outcome :=
  .next (s.vec1 pm f.width [t0, t1] fun l j =>
    let a := elem l f.width j
    if f.isFloat then deliverSame f (unpack f a) (a % f.signBit) else satS (signedOf a f.width).natAbs f.width)
/-- VNEG (R148). -/
def execVneg (pm : Pm) (f : Fmt) (t1 t0 : BitVec 8) (s : State) : Outcome :=
  .next (s.vec1 pm f.width [t0, t1] fun l j =>
    let a := elem l f.width j
    if f.isFloat then deliverSame f (unpack f a) (a ^^^ f.signBit) else satS (-(signedOf a f.width)) f.width)

/-- A function of one float element (R149). -/
def State.vecFun (s : State) (pm : Pm) (f : Fmt) (ts : List (BitVec 8)) (g : FVal → Exact × List Nat) : State :=
  s.vec1 pm f.width ts fun l j => finish f 0 (g (unpack f (elem l f.width j)))
/-- VSQRT (R149). -/
def execVsqrt (pm : Pm) (f : Fmt) (t1 t0 : BitVec 8) (s : State) : Outcome := .next (s.vecFun pm f [t0, t1] sqrtExact)
/-- VRCP (R149). -/
def execVrcp (pm : Pm) (f : Fmt) (t1 t0 : BitVec 8) (s : State) : Outcome := .next (s.vecFun pm f [t0, t1] rcpExact)
/-- VRSQ (R149). -/
def execVrsq (pm : Pm) (f : Fmt) (t1 t0 : BitVec 8) (s : State) : Outcome := .next (s.vecFun pm f [t0, t1] rsqExact)
/-- VEXP2 (R149). -/
def execVexp2 (pm : Pm) (f : Fmt) (t1 t0 : BitVec 8) (s : State) : Outcome := .next (s.vecFun pm f [t0, t1] exp2Exact)
/-- VLOG2 (R149). -/
def execVlog2 (pm : Pm) (f : Fmt) (t1 t0 : BitVec 8) (s : State) : Outcome := .next (s.vecFun pm f [t0, t1] log2Exact)

/-- The sum of VDOT4 in one lane (R150). -/
def dot4 (k : Nat) (l r p : Nat) : Nat :=
  let prod (b : Nat) : Int :=
    let x := bitsOf l (8 * b) 8
    let y := bitsOf r (8 * b) 8
    (if k = 0 then signedOf x 8 else (x : Int)) * (if k = 2 then (y : Int) else signedOf y 8)
  wrapU (signedOf p 32 + prod 0 + prod 1 + prod 2 + prod 3) 32
/-- VDOT4 (R150). -/
def execVdot4 (k : BitVec 2) (t1 t0 : BitVec 8) (s : State) : Outcome :=
  .next (s.vec3 32 [t0, t1] fun l r p j => (dot4 k.toNat (elem l 32 j) (elem r 32 j) (elem p 32 j), []))

/-! ### Compare, select, logic and shifts (R151 to R154) -/

/-- A condition of VCMP on two elements, with the events it feeds: 0 eq, 1 ne, 2 lt, 3 le, 4 gt, 5 ge, 6 uo, 7 ord. -/
def compareElem (f : Fmt) (c a b : Nat) : Bool × List Nat :=
  if f.isFloat then
    let x := unpack f a
    let y := unpack f b
    let un := x.isNan || y.isNan
    let eq := x.eqv y
    let lt := x.below y && !eq
    let gt := y.below x && !eq
    let r :=
      match c with
      | 0 => eq
      | 1 => !eq
      | 2 => lt
      | 3 => lt || eq
      | 4 => gt
      | 5 => gt || eq
      | 6 => un
      | _ => !un
    let ordered := decide (2 ≤ c) && decide (c ≤ 5)
    ((if un then c == 1 || c == 6 else r),
      if (ordered && un) || x.isSig || y.isSig then [0] else [])
  else
    let x := signedOf a f.width
    let y := signedOf b f.width
    ((match c with
      | 0 => x == y
      | 1 => x != y
      | 2 => decide (x < y)
      | 3 => decide (x ≤ y)
      | 4 => decide (y < x)
      | 5 => decide (y ≤ x)
      | 6 => false
      | _ => true), [])

/-- VCMP (R151): the mask of the lanes all of whose elements meet the condition. -/
def execVcmp (pm : Pm) (c : BitVec 3) (f : Fmt) (t1 t0 : BitVec 8) (s : State) : Outcome :=
  if s.offVector pm then .next (s.fireNull [t0, t1])
  else
    let w := f.width
    let m := s.laneMask pm &&& s.lv.2 &&& s.rv.2
    let rs := (List.range (1024 / w)).map fun j =>
      if m.getLsbD (w * j / 32) then compareElem f c.toNat (elem s.lv.1 w j) (elem s.rv.1 w j) else (false, [])
    let n := 32 / w
    let k := maskOf fun i => m.getLsbD i && (List.range n).all fun b => (rs.getD (n * i + b) (false, [])).1
    .next ((s.fired.events (rs.flatMap fun r => r.2.map fun e => (e, 1))).emit [t0, t1] (.scalar (k.setWidth 64)))

/-- VSEL (R152). -/
def execVsel (t1 t0 : BitVec 8) (s : State) : Outcome :=
  if s.slot.p.isNull then .next (s.fireNull [t0, t1])
  else
    let m := s.lv.2 &&& s.rv.2
    let k := s.slot.p.tok.scal
    .next (s.fireLanes [t0, t1] (vecMap 32 m fun i => (elem (if k.getLsbD i then s.lv.1 else s.rv.1) 32 i, [])) m)

/-- A bitwise operation on all lanes (R153). -/
def State.vecLogic (s : State) (pm : Pm) (ts : List (BitVec 8)) (o : AluOp) : State :=
  s.vec2 pm 32 ts fun l r j => (o.result 32 (elem l 32 j) (elem r 32 j) 0, [])
/-- VAND (R153). -/
def execVand (pm : Pm) (t1 t0 : BitVec 8) (s : State) : Outcome := .next (s.vecLogic pm [t0, t1] .and)
/-- VOR (R153). -/
def execVor (pm : Pm) (t1 t0 : BitVec 8) (s : State) : Outcome := .next (s.vecLogic pm [t0, t1] .or)
/-- VXOR (R153). -/
def execVxor (pm : Pm) (t1 t0 : BitVec 8) (s : State) : Outcome := .next (s.vecLogic pm [t0, t1] .xor)
/-- VANDN (R153). -/
def execVandn (pm : Pm) (t1 t0 : BitVec 8) (s : State) : Outcome := .next (s.vecLogic pm [t0, t1] .andn)

/-- A shift of every element by the whole scalar R (R154). -/
def State.vecShift (s : State) (pm : Pm) (f : Fmt) (ts : List (BitVec 8)) (g : Nat → Nat → Nat → Nat) : State :=
  s.vec1s pm f.width ts fun l c j => (g f.width (elem l f.width j) c, [])
/-- VSHL (R154). -/
def execVshl (pm : Pm) (f : Fmt) (t1 t0 : BitVec 8) (s : State) : Outcome := .next (s.vecShift pm f [t0, t1] shlN)
/-- VSHR (R154). -/
def execVshr (pm : Pm) (f : Fmt) (t1 t0 : BitVec 8) (s : State) : Outcome := .next (s.vecShift pm f [t0, t1] shrN)
/-- VSRA (R154). -/
def execVsra (pm : Pm) (f : Fmt) (t1 t0 : BitVec 8) (s : State) : Outcome := .next (s.vecShift pm f [t0, t1] sraN)

/-- VRNG (R162). -/
def execVrng (pm : Pm) (t1 t0 : BitVec 8) (s : State) : Outcome :=
  .next (s.vec1s pm 32 [t0, t1] fun l k j => (mix (elem l 32 j) k, []))

/-! ### Moving elements (R155 to R158) -/

/-- VBCAST (R155). -/
def execVbcast (pm : Pm) (f : Fmt) (t1 t0 : BitVec 8) (s : State) : Outcome :=
  if s.slot.l.isNull || s.offVector pm then .next (s.fireNull [t0, t1])
  else
    let m := s.laneMask pm
    .next (s.fireLanes [t0, t1] (vecMap f.width m fun _ => (s.slot.l.tok.scal.toNat % 2 ^ f.width, [])) m)

/-- VEXTR (R155). -/
def execVextr (pm : Pm) (f : Fmt) (t1 t0 : BitVec 8) (s : State) : Outcome :=
  if s.slot.r.isNull || s.offVector pm then .next (s.fireNull [t0, t1])
  else
    let w := f.width
    let j := s.slot.r.tok.scal.toNat % (1024 / w)
    if !(s.laneMask pm &&& s.lv.2).getLsbD (w * j / 32) then .next (s.fireNull [t0, t1])
    else
      let e := elem s.lv.1 w j
      .next (s.fired.emit [t0, t1] (.scalar (if f.isInt then sext64 w e else BitVec.ofNat 64 e)))

/-- VINS (R155). -/
def execVins (f : Fmt) (t1 t0 : BitVec 8) (s : State) : Outcome :=
  if s.slot.r.isNull || s.slot.p.isNull then .next (s.fireNull [t0, t1])
  else
    let w := f.width
    let j := s.slot.p.tok.scal.toNat % (1024 / w)
    let m := if w = 32 then s.lv.2 ||| maskOf (· == j) else s.lv.2
    .next (s.fireLanes [t0, t1]
      (vecMap w m fun i => (if i = j then s.slot.r.tok.scal.toNat % 2 ^ w else elem s.lv.1 w i, [])) m)

/-- VPERM (R156). -/
def execVperm (pm : Pm) (t1 t0 : BitVec 8) (s : State) : Outcome :=
  if s.offVector pm then .next (s.fireNull [t0, t1])
  else
    let from_ (i : Nat) : Nat := elem s.rv.1 32 i % 32
    let m := s.laneMask pm &&& s.rv.2 &&& maskOf fun i => s.lv.2.getLsbD (from_ i)
    .next (s.fireLanes [t0, t1] (vecMap 32 m fun i => (elem s.lv.1 32 (from_ i), [])) m)

/-- VSLIDE (R157): `z` rotates, `d` moves down. -/
def execVslide (pm : Pm) (z d : Bool) (t1 t0 : BitVec 8) (s : State) : Outcome :=
  if s.slot.r.isNull || s.offVector pm then .next (s.fireNull [t0, t1])
  else
    let c := s.slot.r.tok.scal.toNat
    let src (i : Nat) : Option Nat :=
      let k : Int := if d then (i : Int) + c else (i : Int) - c
      if z then some (k % 32).toNat else if 0 ≤ k ∧ k ≤ 31 then some k.toNat else none
    let m := s.laneMask pm &&& maskOf fun i => match src i with
      | some k => s.lv.2.getLsbD k
      | none => true
    .next (s.fireLanes [t0, t1] (vecMap 32 m fun i => (match src i with
      | some k => elem s.lv.1 32 k
      | none => 0, [])) m)

/-! ### Reductions and conversions (R159 to R161) -/

/-- One level of a reduction tree with the events of its nodes. -/
def treeLevel (op : Nat → Nat → Res) : List Nat → List Nat × List Nat
  | a :: b :: l =>
    let r := op a b
    let q := treeLevel op l
    (r.1 :: q.1, r.2 ++ q.2)
  | l => (l, [])

/-- A fixed pairwise tree of `k` levels (R159). -/
def tree (op : Nat → Nat → Res) : Nat → List Nat → Nat × List Nat
  | 0, l => (l.headD 0, [])
  | k + 1, l =>
    let r := treeLevel op l
    let q := tree op k r.1
    (q.1, r.2 ++ q.2)

/-- An element widened exactly to FP32 (R159), a signalling NaN staying one. -/
def widen32 (f : Fmt) (b : Nat) : Nat :=
  match unpack f b with
  | .nan true => 0x7F800001
  | .nan false => cnan .f32
  | v => (round .f32 0 v.exact).1

/-- The identity of a reduction: 0 sum, 1 max, 2 min, 3 and, 4 or (R159). -/
def redId (o w : Nat) (fl : Bool) : Nat :=
  if fl then (if o = 0 then 0x80000000 else if o = 1 then 0xFF800000 else 0x7F800000)
  else if o = 1 then wrapU (-((2 ^ (w - 1) : Nat) : Int)) 64
  else if o = 2 then 2 ^ (w - 1) - 1
  else if o = 3 then 2 ^ 64 - 1
  else 0

/-- The operation of a reduction at a node (R159). -/
def redOp (o : Nat) (fl : Bool) (a b : Nat) : Res :=
  if fl then
    if o = 0 then finish .f32 0 (addExact (unpack .f32 a) (unpack .f32 b)) else minMaxF .f32 (o == 1) a b
  else
    ((if o = 0 then AluOp.add else if o = 1 then AluOp.max else if o = 2 then AluOp.min else if o = 3 then AluOp.and
      else AluOp.or).result 64 a b b, [])

/-- VRED (R159). -/
def execVred (pm : Pm) (o : BitVec 3) (f : Fmt) (t1 t0 : BitVec 8) (s : State) : Outcome :=
  if s.offVector pm then .next (s.fireNull [t0, t1])
  else
    let w := f.width
    let m := s.laneMask pm &&& s.lv.2
    if m = 0 then .next (s.fireNull [t0, t1])
    else
      let n := 1024 / w
      let xs := (List.range n).map fun j =>
        if !m.getLsbD (w * j / 32) then redId o.toNat w f.isFloat
        else if f.isFloat then widen32 f (elem s.lv.1 w j) else wrapU (signedOf (elem s.lv.1 w j) w) 64
      let r := tree (redOp o.toNat f.isFloat) (Nat.log2 n) xs
      .next ((s.fired.events (r.2.map fun k => (k, 1))).emit [t0, t1] (.scalar (BitVec.ofNat 64 r.1)))

/-- VCVT (R160). -/
def execVcvt (pm : Pm) (fd fs : Fmt) (t1 t0 : BitVec 8) (s : State) : Outcome :=
  if (fd.isInt && fs.isFloat && s.slot.r.isNull) || s.offVector pm then .next (s.fireNull [t0, t1])
  else
    let wd := fd.width
    let ws := fs.width
    let c := 1024 / max ws wd
    let sc := s.slot.r.tok.scal.toInt
    let md := s.cctx.fpm.toNat % 4
    let m := s.laneMask pm &&& maskOf fun i =>
      (List.range (32 / wd)).all fun b =>
        let j := i * (32 / wd) + b
        decide (c ≤ j) || s.lv.2.getLsbD (ws * j / 32)
    .next (s.fireLanes [t0, t1]
      (vecMap wd m fun j => if c ≤ j then (0, []) else convert fd fs (elem s.lv.1 ws j) sc md) m)

/-- The requantised value of VQSHR (R161). -/
def qshr (x : Int) (sh : Nat) (z : Int) : Res :=
  let q := if sh = 0 then x else (x + (2 ^ (sh - 1) : Nat)) / (2 ^ sh : Nat)
  satS (q + z) 8

/-- VQSHR (R161). A shift above 63 gives what 63 gives. -/
def execVqshr (t1 t0 : BitVec 8) (s : State) : Outcome :=
  if s.slot.r.isNull || s.slot.p.isNull then .next (s.fireNull [t0, t1])
  else
    let sh := min s.slot.r.tok.scal.toNat 63
    let z := s.slot.p.tok.scal.toInt
    let m := maskOf fun i => decide (8 ≤ i) || (List.range 4).all fun b => s.lv.2.getLsbD (4 * i + b)
    .next (s.fireLanes [t0, t1]
      (vecMap 8 m fun j => if 32 ≤ j then (0, []) else qshr (signedOf (elem s.lv.1 32 j) 32) sh z) m)

/-! ### Keys and block floating point (R163 to R165) -/

/-- VFKEY (R163). -/
def execVfkey (pm : Pm) (n : Bool) (t1 t0 : BitVec 8) (s : State) : Outcome :=
  .next (s.vec1 pm 32 [t0, t1] fun l j => (floatKey (elem l 32 j) n, []))

/-- QBFX (R164): the packed block to T0, the exponent pair to T1; `x` names BFX4. -/
def execQbfx (pm : Pm) (x : Bool) (t1 t0 : BitVec 8) (s : State) : Outcome :=
  if s.offVector pm then .next (s.fireNull [t0, t1])
  else if s.laneMask pm &&& s.lv.2 ≠ 0xFFFFFFFF then .next (s.fireNull [t0, t1])
  else
    let (es, eh, el, ev) := quantise x ((List.range 32).map fun j => unpack .f32 (elem s.lv.1 32 j))
    let v := packElems (if x then 4 else 8) es
    .next (((s.fired.events ev).emit [t0] (.vector v 0xFFFFFFFF)).emit [t1] (.scalar (BitVec.ofNat 64 (eh + 256 * el))))

/-- DQBFX (R165). -/
def execDqbfx (pm : Pm) (x : Bool) (t1 t0 : BitVec 8) (s : State) : Outcome :=
  if s.slot.r.isNull || s.offVector pm then .next (s.fireNull [t0, t1])
  else
    let r := s.slot.r.tok.scal.toNat
    let w := if x then 4 else 8
    let m := s.laneMask pm &&& maskOf fun i => s.lv.2.getLsbD (w * i / 32)
    .next (s.fireLanes [t0, t1]
      (vecMap 32 m fun i => dequantise x .f32 (elem s.lv.1 w i) (bitsOf r 0 8) (bitsOf r 8 8)) m)

end Sys2Proof.Machine
end

