-- ==== Sys2Proof/Machine/Lattice.lean ====
section
/-!
DEFINITION. The lattice instructions as they fire (R240, R244 to R251): addresses, checks, and the requests that their
commit releases.
-/

namespace Sys2Proof.Machine

/-- The width in bits of a location (R209). -/
def LatAttr.bits (a : LatAttr) : Nat := 8 * 2 ^ a.width

/-- A value or trigger fits a location (R211). DESIGN CHOICE (log entry 57): at a signed location both the zero-extended and the
sign-extended form of a value are accepted. -/
def LatAttr.fits (a : LatAttr) (v : W64) : Bool :=
  let n := a.bits
  v.toNat < 2 ^ n || (a.sgn && v == BitVec.ofInt 64 (signedOf v.toNat n))

/-- The low bits of a value or trigger. -/
def LatAttr.low (a : LatAttr) (v : W64) : Nat := v.toNat % 2 ^ a.bits

/-- The size of a FILL tile (R209). -/
def LatAttr.tileSize (a : LatAttr) : Nat := 64 * 2 ^ a.fsz

/-- A request that the current slot will release, its issuer still to be filled in at commit. -/
def State.newReq (s : State) (l : Leaf) (kind : ReqKind) (va : Nat) : Req :=
  let t := s.cctx
  { kind := kind, pa := l.pa va, va := va, lat := l.lat, asid := t.asid, gen := t.gen, lid := lidOf t.gtid
    rblk := t.blkAddr, rslot := s.cur.slot }

/-- The checks of a write to a LAT page, rows 3 to 5 of R240: class and writable bit, then what `ty` says of the type,
then the alignment. -/
def State.latWrite (s : State) (l : Leaf) (a : Nat) (tyOk : Bool) (align : Nat) (k : State → State) : State :=
  if l.cls != .lat || !l.wr then s.raise { code := .prot, va := a }
  else if !tyOk then s.raise { code := .ltype, va := a }
  else if a % align ≠ 0 then s.raise { code := .align, va := a }
  else k s

/-- JOIN (R244). -/
def execJoin (pm : Pm) (_lsid : BitVec 5) (size : BitVec 2) (flag : Bool) (imm : BitVec 6) (s : State) : Outcome :=
  if s.offScalar pm then .next (s.fired true)
  else
    let n := 2 ^ size.toNat
    let a := s.effAddr imm n
    let v := s.slot.r.tok.scal
    .next (s.withPage a fun l s =>
      s.latWrite l a (l.lat.ty != .fill && l.lat.width == size.toNat && l.lat.fits v) n fun s =>
        s.fired false (.reqs flag [{ s.newReq l .join a with val := l.lat.low v }]))

/-- The lanes that a vector instruction with L an address and R a vector leaves in (R43, R46). -/
def State.dataLanes (s : State) (pm : Pm) : W32 := s.laneMask pm &&& s.rv.2

/-- VJOIN (R245). -/
def execVjoin (pm : Pm) (_lsid : BitVec 5) (size : BitVec 2) (flag : Bool) (imm : BitVec 6) (s : State) : Outcome :=
  if s.slot.l.isNull || s.offVector pm then .next (s.fired true)
  else
    let n := 2 ^ size.toNat
    let a := s.effAddr imm 128
    let m := s.dataLanes pm
    .next (s.withPage a fun l s =>
      s.latWrite l a (l.lat.ty != .fill && l.lat.width == size.toNat) 128 fun s =>
        let js := (List.range (128 / n)).filter fun j => m.getLsbD (8 * n * j / 32)
          && (n < 8 || m.getLsbD (2 * j + 1))
        s.fired false (.reqs flag (js.map fun j =>
          { s.newReq l .join (a + j * n) with val := elem s.rv.1 (8 * n) j })))

/-- The units of a FILL write from the bytes of its live units (R246). -/
def unitBytes (bs : List Byte) (live : Nat → Bool) : List (Option Byte) :=
  (bs.zip (List.range bs.length)).map fun (b, i) => if live (i / 4) then some b else none

/-- FILL, scalar (R246). -/
def execFillD (pm : Pm) (_lsid : BitVec 5) (imm : BitVec 6) (s : State) : Outcome :=
  if s.offScalar pm then .next (s.fired true)
  else
    let a := s.effAddr imm 8
    let bs := leBytes s.slot.r.tok.scal.toNat 8
    .next (s.withPage a fun l s =>
      s.latWrite l a (l.lat.ty == .fill) 8 fun s =>
        s.fired false (.reqs false [{ s.newReq l .fill a with bytes := bs.map some }]))

/-- FILL, vector (R246): one request for each aligned 32-byte group that holds a live lane. -/
def execFillV (pm : Pm) (_lsid : BitVec 5) (imm : BitVec 6) (s : State) : Outcome :=
  if s.slot.l.isNull || s.offVector pm then .next (s.fired true)
  else
    let a := s.effAddr imm 128
    let m := s.dataLanes pm
    .next (s.withPage a fun l s =>
      s.latWrite l a (l.lat.ty == .fill) 128 fun s =>
        let bs := leBytes s.rv.1.toNat 128
        s.fired false (.reqs false ((laneGroups m).map fun g =>
          { s.newReq l .fill (a + g.1) with
              bytes := unitBytes ((bs.drop g.1).take 32) fun u => m.getLsbD (g.1 / 4 + u) })))

/-- The trigger sets that a type admits (R213), on the members' low bits; none is ANY. -/
def LatAttr.admits (a : LatAttr) (va : Nat) (set : Option (List Nat)) : Bool :=
  match a.ty, set with
  | .max, some [_] => true
  | .min, some [_] => true
  | .cnt, some [_] => true
  | .or, some [t] => t != 0
  | .once, none => true
  | .once, some l => decide (l.length ≤ 4) && distinct l
  | .fill, none => va % a.tileSize == 0
  | _, _ => false

/-- WAITT (R247): an INVALID ox member raises VUNDEF before every check of R240. -/
def execWaitt (pm : Pm) (g : BitVec 6) (c : BitVec 8) (s : State) : Outcome :=
  if s.offScalar pm then .next (s.fired true)
  else
    let n := c.toNat
    let a := s.slot.l.tok.scal.toNat
    let oxs := (List.range (n - 1)).map (· + 1)
    match oxs.find? fun r => (s.cctx.oxReg r).st != .full with
    | some r => .next (s.raise (vundef .ox r (s.cctx.oxReg r).st))
    | none =>
      let ms := s.slot.r.tok.scal :: oxs.map fun r => (s.cctx.oxReg r).val
      .next (s.withPage a fun l s =>
        let set := if n = 0 then none else some (ms.map l.lat.low)
        let align := if l.lat.ty = .fill then l.lat.tileSize else 2 ^ l.lat.width
        if l.cls != .lat then s.raise { code := .prot, va := a }
        else if !(l.lat.admits a set && (n == 0 || ms.all l.lat.fits)) then s.raise { code := .ltype, va := a }
        else if a % align ≠ 0 then s.raise { code := .align, va := a }
        else s.fired false (.wait { s.newReq l .wait a with trig := set, dst := g.toNat }))

/-- The checks of an exact read (R240, R248): class, then the size, then the alignment. -/
def State.exactOk (s : State) (l : Leaf) (a width align : Nat) (k : State → State) : State :=
  if l.cls != .lat && l.cls != .code then s.raise { code := .prot, va := a }
  else if l.cls == .lat && l.lat.ty != .fill && l.lat.width != width then s.raise { code := .ltype, va := a }
  else if a % align ≠ 0 then s.raise { code := .align, va := a }
  else k s

/-- Sends the exact reads of the current slot, one group a cycle; `live` says which of a group's bytes are read. -/
def State.exactReads (s : State) (l : Leaf) (a : Nat) (groups : List (Nat × Nat)) (live : Nat → Bool) : State :=
  let t := s.cctx
  (groups.zip (List.range groups.length)).foldl (fun s (g, i) =>
    let (id, s) := s.freshId
    let va := a + g.1
    let r : Req := { s.newReq l .exact va with
      code := l.cls == .code, n := g.2
      bytes := (List.range g.2).map fun k => if live (g.1 + k) then some 0 else none
      ret := .load t.serial s.cur.slot (i + 1), part := i + 1 }
    s.sendCounted (s.now + 2 + i) s.cur.core (.req (homeOf r.pa) (r.by s.cur.core s.cur.ctx id))) s

/-- XLD (R248). -/
def execXld (pm : Pm) (_lsid : BitVec 5) (size : BitVec 2) (imm : BitVec 6) (t0 : BitVec 8) (s : State) : Outcome :=
  if s.offScalar pm then .next (s.fireNull [t0])
  else .next (s.paired [t0] fun s =>
    let n := 2 ^ size.toNat
    let a := s.effAddr imm n
    s.withPage a fun l s => s.exactOk l a size.toNat n fun s =>
      (s.openLoad { slot := s.cur.slot, targets := [t0]
                    sext := if l.cls == .lat && l.lat.sgn then some (8 * n) else none }).exactReads l a [(0, n)] fun _ => true)

/-- VXLD (R248). -/
def execVxld (pm : Pm) (_lsid : BitVec 5) (size : BitVec 2) (imm : BitVec 6) (t0 : BitVec 8) (s : State) : Outcome :=
  if s.slot.l.isNull || s.offVector pm then .next (s.fireNull [t0])
  else .next (s.paired [t0] fun s =>
    let a := s.effAddr imm 128
    let m := s.laneMask pm
    s.withPage a fun l s => s.exactOk l a size.toNat 128 fun s =>
      let gs := laneGroups m
      let r : LoadRec := { slot := s.cur.slot, targets := [t0], vec := true, mask := m, parts := max 1 gs.length }
      if gs.isEmpty then
        (s.openLoad { r with fixed := some [] }).sched (s.now + 16)
          (.loadResult s.cur.core s.cur.ctx s.cctx.serial s.cur.slot 0 [] none)
      else (s.openLoad { r with groups := gs.map (·.1) }).exactReads l a gs fun k => m.getLsbD (k / 4))

/-- The page checks of FREEZE and FRZQ for one address (R249). -/
def State.freezable (s : State) (a : Nat) (k : State → State) : State :=
  s.withPage a fun l s => if l.cls != .lat || !l.wr then s.raise { code := .prot, va := a } else k s

/-- What a page of the range is known to be: by an earlier walk of this instruction, by the first-level buffer, or as an address without
translation. -/
def State.pageKnown (s : State) (va : Nat) : Option (Option Leaf) :=
  match s.slot.probed.lookup va with
  | some l => some l
  | none => match s.area va with
    | .leaf l => some (some l)
    | .miss => none
    | _ => some none

/-- The frames of a range that freeze requests go to (R249): LAT and writable ones, by ascending address. -/
def freezeFrames (pages : List (Nat × Option Leaf)) : List (Leaf × Nat) :=
  pages.filterMap fun p => match p.2 with
    | some l => if l.cls == .lat && l.wr && !l.isAlias then some (l, p.1) else none
    | none => none

/-- The pages of a range are looked up (R204, R249; log entry 25): those that miss are walked one after another; then `k`. -/
def State.withPages (s : State) (vas : List Nat) (k : List (Leaf × Nat) → State → State) : State :=
  let known := vas.filterMap fun va => (s.pageKnown va).map fun l => (va, l)
  match vas.find? fun va => (s.pageKnown va).isNone with
  | none => k (freezeFrames known) s
  | some va =>
    (s.modBlock s.cur.core s.cur.ctx fun b => b.modSlot s.cur.slot fun q => { q with probe := some va, probed := known }).awaitWalk va

/-- FREEZE and FRZQ fire (R249): their own checks, the pages of both ends and those between them, then `k`. -/
def State.fireFreeze (s : State) (pm : Pm) (k : State → List (Leaf × Nat) → Eff) : State :=
  if s.offScalar pm then s.fired true
  else
    let a := s.slot.l.tok.scal.toNat
    let f := s.slot.r.tok.scal.toNat
    if a % 65536 ≠ 0 then s.raise { code := .align, va := a }
    else if 256 < f then s.raise { code := .lbound, va := a }
    else if f = 0 then s.fired
    else s.freezable a fun s => s.freezable ((a + (f - 1) * 65536) % 2 ^ 64) fun s =>
      s.withPages ((List.range f).map fun i => a + 65536 * i) fun fs s => s.fired false (k s fs)

/-- FREEZE (R249). -/
def execFreeze (pm : Pm) (s : State) : Outcome :=
  .next (s.fireFreeze pm fun s fs => .freeze (fs.map fun (l, va) => s.newReq l .freeze va))

/-- FRZQ (R249, R250). -/
def execFrzq (pm : Pm) (s : State) : Outcome :=
  .next (s.fireFreeze pm fun _ fs => .frzq ((fs.map (·.2)).headD 0) (fs.map fun (l, va) => l.pa va))

/-- The checks of FADDB and INCW (R240, R251), then the request they release. -/
def State.fireSched (s : State) (pm : Pm) (k : State → Req → Req) : State :=
  if s.offScalar pm then s.fired true
  else
    let a := s.slot.l.tok.scal.toNat
    s.withPage a fun l s =>
      if l.cls != .sched || !l.wr then s.raise { code := .prot, va := a }
      else if a % 8 ≠ 0 then s.raise { code := .align, va := a }
      else if s.strict s.cur.core s.cur.ctx then s.raise { code := .escape, va := a }
      else s.fired false (.sched (k s (s.newReq l .faddb a)))

/-- FADDB (R251): L address, R increment, P bound. -/
def execFaddb (g : BitVec 6) (s : State) : Outcome :=
  .next (s.fireSched .ternary fun s r =>
    { r with kind := .faddb, val := s.slot.r.tok.scal.toNat, bound := s.slot.p.tok.scal.toNat, dst := g.toNat })

/-- INCW (R251): L address, R bound. -/
def execIncw (pm : Pm) (g : BitVec 6) (s : State) : Outcome :=
  .next (s.fireSched pm fun s r => { r with kind := .incw, bound := s.slot.r.tok.scal.toNat, dst := g.toNat })

end Sys2Proof.Machine
end

