-- ==== Sys2Proof/Machine/Home.lean ====
section
/-!
DEFINITION. The crystallisers and the combining buffers (R199, R209 to R228, R237, R246 to R251): how a request reaches
its home, waits for its line, is served and answered; joins, waits, freezes, exact reads and scheduling counters.
-/

namespace Sys2Proof.Machine

/-! ### The state of a location -/

/-- x ⊔ y for the types without fill state (R210), both of n bits. -/
def LatAttr.join (a : LatAttr) (x y : Nat) : Nat :=
  let n := a.bits
  let key (v : Nat) : Int := if a.sgn then signedOf v n else v
  match a.ty with
  | .max => if key x < key y then y else x
  | .min => if key y < key x then y else x
  | .or => x ||| y
  | .cnt => min (x + y) (2 ^ n - 1)
  | .sum => (x + y) % 2 ^ 64
  | _ => y

/-- The base of the FILL tile that an address lies in (R209). -/
def LatAttr.tileBase (a : LatAttr) (pa : Nat) : Nat := pa / a.tileSize * a.tileSize

/-- A 4-byte unit of a FILL tile has arrived (R212). -/
def State.unitHere (s : State) (pa : Nat) : Bool := (s.arrived.get? (pa / 4)).isSome
/-- A FILL tile is in conflict (R212). -/
def State.tileConf (s : State) (base : Nat) : Bool := (s.tconf.get? base).isSome
/-- Every unit of a FILL tile has arrived, without conflict (R212). -/
def State.tileFilled (s : State) (a : LatAttr) (base : Nat) : Bool :=
  !s.tileConf base && (List.range (a.tileSize / 4)).all fun i => s.unitHere (base + 4 * i)

/-- The frame of an address is frozen (R216). -/
def State.frozen (s : State) (pa : Nat) : Bool := (s.frame pa).frozen

/-- The index a wait completes with in the present state of its location (R213, R214), if any. -/
def State.waitIndex (s : State) (r : Req) : Option Nat :=
  let a := r.lat
  let n := a.bits
  let v := s.readN r.pa (2 ^ a.width)
  let key (x : Nat) : Int := if a.sgn then signedOf x n else x
  let stuck : Option Nat := if s.frozen r.pa then some 4 else none
  let t := (r.trig.getD []).headD 0
  match a.ty with
  | .max => if key t ≤ key v then some 0 else stuck
  | .min => if key v ≤ key t then some 0 else stuck
  | .or => if v &&& t = t then some 0 else stuck
  | .cnt => if t ≤ v then some 0 else stuck
  | .sum => stuck
  | .once =>
    match s.once.get 0 r.pa with
    | 0 => stuck
    | 1 =>
      match r.trig with
      | none => some 0
      | some ms => some ((ms.idxOf? v).getD 4)
    | _ => some 4
  | .fill =>
    let b := a.tileBase r.pa
    if s.tileConf b then some 4 else if s.tileFilled a b then some 0 else stuck

/-! ### The digest (R224) -/

/-- h(a, v) (R224). -/
def digestHash (a v : Nat) : Nat :=
  let lo := bitsOf a 0 32
  let hi := bitsOf a 32 16
  mix (bitsOf v 32 32) (mix (lo ^^^ 0xFFFFFFFF) hi) * 2 ^ 32 + mix (bitsOf v 0 32) (mix lo hi)

/-- A change of a location's hash is added to the slot of the request's launch (R224, R225): that of the copy, in a twin launch, whose
address space the request names. -/
def State.addDigest (s : State) (h : Nat) (r : Req) (before after : Nat) : State :=
  let rs := (s.pkg (h / 2048)).runs.filter fun q => q.rc.lid == r.lid && q.st != .ended
  match (rs.find? fun q => q.asid == r.asid).or rs.head? with
  | none => s
  | some q =>
    s.modXtal h fun k => { k with digest := k.digest.put q.slot ((k.digest.get 0 q.slot + after + 2 ^ 64 - before) % 2 ^ 64) }

/-- The hash of a ONCE word (R224). -/
def State.onceHash (s : State) (a pa width : Nat) : Nat :=
  match s.once.get 0 pa with
  | 0 => 0
  | 1 => digestHash a (s.readN pa (2 ^ width))
  | _ => digestHash a (2 ^ 64 - 1)

/-- The hash of an 8-byte word of a FILL tile (R224). -/
def State.fillHash (s : State) (a pa : Nat) : Nat :=
  if s.unitHere pa || s.unitHere (pa + 4) then digestHash a (s.readN pa 8) else 0

/-! ### Joins and FILL writes -/

/-- What a request comes to at its home. -/
inductive Fate where
  | accepted (changed : Bool)
  | refused (c : FaultCode) (changed : Bool)
deriving DecidableEq, Repr, Inhabited

/-- A join of a location (R210, R217), with the digest's change. -/
def State.joinLoc (s : State) (h : Nat) (r : Req) : State × Fate :=
  let a := r.lat
  let w := 2 ^ a.width
  let old := s.readN r.pa w
  match a.ty with
  | .once =>
    let u := s.onceHash r.va r.pa a.width
    match s.once.get 0 r.pa with
    | 0 =>
      if s.frozen r.pa then (s, .refused .wafrz false)
      else
        let s := { s.writeMem r.pa (leBytes r.val w) with once := s.once.put r.pa 1 }
        (s.addDigest h r u (s.onceHash r.va r.pa a.width), .accepted true)
    | 1 =>
      if r.val = old then (s, .accepted false)
      else if s.frozen r.pa then (s, .refused .wafrz false)
      else
        let s := { s with once := s.once.put r.pa 2 }
        (s.addDigest h r u (s.onceHash r.va r.pa a.width), .refused .fillc true)
    | _ => (s, if r.val = old then .accepted false else .refused .fillc false)
  | _ =>
    let new := a.join old r.val
    if new = old then (s, .accepted false)
    else if s.frozen r.pa then (s, .refused .wafrz false)
    else ((s.writeMem r.pa (leBytes new w)).addDigest h r (digestHash r.va old) (digestHash r.va new), .accepted true)

/-- The units a FILL request carries: each unit's address and bytes. -/
def Req.units (r : Req) : List (Nat × List Byte) :=
  ((List.range ((r.bytes.length + 3) / 4)).map fun i => (r.pa + 4 * i, (r.bytes.drop (4 * i)).take 4)).filterMap
    fun (pa, bs) => if bs.all Option.isSome && !bs.isEmpty then some (pa, bs.filterMap id) else none

/-- The FILL tiles that a FILL write changes, if it is applied: those that come into conflict, or else those of which units arrive
(R212, R217, R220). -/
def State.fillChanged (s : State) (r : Req) : List Nat :=
  let differs := r.units.filter fun u => s.unitHere u.1 && s.readMem u.1 4 != u.2
  if differs.isEmpty then ((r.units.filter fun u => !s.unitHere u.1).map fun u => r.lat.tileBase u.1).eraseDups
  else ((differs.map fun u => r.lat.tileBase u.1).eraseDups).filter fun b => !s.tileConf b

/-- A FILL write (R210, R217, R246), with the digest's change. -/
def State.fillUnits (s : State) (h : Nat) (r : Req) : State × Fate :=
  let us := r.units
  let differs := us.filter fun u => s.unitHere u.1 && s.readMem u.1 4 != u.2
  let absent := us.filter fun u => !s.unitHere u.1
  let tiles := (differs.map fun u => r.lat.tileBase u.1).eraseDups
  if !differs.isEmpty then
    if tiles.all s.tileConf then (s, .refused .fillc false)
    else if s.frozen r.pa then (s, .refused .wafrz false)
    else ({ s with tconf := tiles.foldl (fun t b => t.put b ()) s.tconf }, .refused .fillc true)
  else if absent.isEmpty then (s, .accepted false)
  else if s.frozen r.pa then (s, .refused .wafrz false)
  else
    let words := (absent.map fun u => u.1 / 8 * 8).eraseDups
    let va (pa : Nat) : Nat := (r.va + pa - r.pa)
    let before := words.map fun w => s.fillHash (va w) w
    let s := absent.foldl (fun s u => { s.writeMem u.1 u.2 with arrived := s.arrived.put (u.1 / 4) () }) s
    ((words.zip before).foldl (fun s (w, b) => s.addDigest h r b (s.fillHash (va w) w)) s, .accepted true)

/-! ### Answers and wakes -/

/-- The core key at a home's router from which its answers go. -/
def homeRouter (h : Nat) : Nat := if 2 ^ 24 ≤ h then h - 2 ^ 24 else xtalRouter h

/-- An acceptance goes to every constituent in this cycle (R227). -/
def State.acceptReq (s : State) (h : Nat) (r : Req) : State :=
  r.who.foldl (fun s w => s.send s.now (homeRouter h) (.accept w (r.retFor w))) s

/-- A request is refused: every constituent receives the fault (R227, R242), `delay` cycles from now. -/
def State.refuseReq (s : State) (h : Nat) (r : Req) (code : FaultCode) (delay : Nat := 0) : State :=
  r.who.foldl (fun s w => s.send (s.now + delay) (homeRouter h) (.fault (deferredRec w r code) (r.retFor w) w.id)) s

/-- The answer to a join, FILL write or freeze. -/
def State.answer (s : State) (h : Nat) (r : Req) (f : Fate) : State :=
  match f with
  | .accepted _ => s.acceptReq h r
  | .refused c _ => s.refuseReq h r c

/-- A result for the register that a wait or a scheduling request names goes out `delay` cycles from now. -/
def State.produce (s : State) (h : Nat) (r : Req) (v : Nat) (delay : Nat := 0) : State :=
  r.who.foldl (fun s w => s.send (s.now + delay) (homeRouter h) (.produced w.core w.ctx r.dst (BitVec.ofNat 64 v) true w.id)) s

/-- Wakes leave one a cycle, from `delay` cycles on (R221). -/
def State.wakeAll (s : State) (h : Nat) : Nat → List (Waiter × Nat) → State
  | _, [] => s
  | d, (w, i) :: ws => State.wakeAll (s.produce h w.req i d) h (d + 1) ws

/-- A waiter put in its place by table index. -/
def insertWaiter (w : Waiter × Nat) : List (Waiter × Nat) → List (Waiter × Nat)
  | [] => [w]
  | v :: l => if w.1.idx ≤ v.1.idx then w :: v :: l else v :: insertWaiter w l
/-- Waiters in ascending order of their table index. -/
def sortWaiters (ws : List (Waiter × Nat)) : List (Waiter × Nat) := ws.foldr insertWaiter []

/-- Where record `i` of a channel's overflow area lies (R220): bring-up reserves 256 frames of that channel (log entry 5). -/
def overflowPa (h i : Nat) : Nat :=
  h / 2048 * 2 ^ 44 + ((Config.overflowFrame h % 24321 + i / 1024) * 1536 + h % 2048) * 65536 + i % 1024 * 64

/-- The code of a lattice type (R210). -/
def LType.num : LType → Nat
  | .max => 0 | .min => 1 | .or => 2 | .cnt => 3 | .sum => 4 | .once => 5 | .fill => 6

/-- What a 64-byte record of the overflow area holds (R220). -/
def Waiter.fields (w : Waiter) : List Nat :=
  let r := w.req
  [r.pa, r.lat.ty.num, r.lat.width, r.asid, r.gen] ++ r.who.flatMap (fun q => [q.core, q.ctx]) ++ [r.dst] ++ (r.trig.getD []).map (· + 1)

/-- The bytes of a record, in an order the spec does not give (log entry 5). -/
def Waiter.record (w : Waiter) : List Byte := (List.range 64).map (Config.overflowByte w.fields)

/-- The latest arrival of overflow records requested in consecutive cycles from `t` on (R220). DESIGN CHOICE (log entry 66): a record whose
line is not in the slice takes the 4 cycles of service after the DRAM time. -/
def State.chainEnd (s : State) (h : Nat) : Nat → List Waiter → Nat × State
  | t, [] => (t, s)
  | t, w :: ws =>
    let (u, s) := s.lineRead h (overflowPa h w.idx / 64) t
    let (v, s) := State.chainEnd s h (t + 1) ws
    (max (u + 4) v, s)

/-- The waiters at the locations that `at_` names are evaluated after a change or a freeze (R215, R220, R221): those that
pass send their wakes; overflow entries are read first, and the service of the frame's next request begins no earlier than the last
record's arrival. DESIGN CHOICE (log entry 66): the wakes of overflow waiters leave once the last record of the chain has been read. -/
def State.evaluate (s : State) (h frame : Nat) (at_ : Nat → Bool) : State :=
  let k := s.xtal h
  let here (w : Waiter) : Bool := frameKey w.req.pa == frame && at_ w.req.pa
  let pass (w : Waiter) : Option (Waiter × Nat) := if here w then (s.waitIndex w.req).map fun i => (w, i) else none
  let tab := sortWaiters (k.waiters.filterMap pass)
  let chain := k.overflow.filter here
  let far := k.overflow.filterMap pass
  let s := s.modXtal h fun k =>
    { k with waiters := k.waiters.filter fun w => (pass w).isNone, overflow := k.overflow.filter fun w => (pass w).isNone }
  let s := s.wakeAll h 0 tab
  if chain.isEmpty then s
  else
    let (t, s) := s.chainEnd h s.now chain
    let s := s.modXtal h fun k => { k with frameBusy := k.frameBusy.put frame (t + 4) }
    s.sched (max t (s.now + tab.length)) (.overflowChainRead h (frame * 65536) (far.map fun (w, i) =>
      { w with req := { w.req with val := i } }))

/-- OVERFLOW_CHAIN_READ (R220, R221): the last record of the chain has arrived; the completed entries' wakes go, in the
order in which they entered the overflow area. -/
def execOverflowChainRead (s : State) : Outcome :=
  match s.ev with
  | .overflowChainRead h _ wakes => .next (s.wakeAll h 0 (wakes.map fun w => (w, w.req.val)))
  | _ => .next s

/-! ### The port and the lines (R221, R223) -/

/-- The request that an event brings to a home's port. -/
def Event.arriving : Event → Option (Nat × Req)
  | .joinApply h r | .fillApply h r | .waitServe h r | .freezeApply h r | .exactReadServe h r | .schedApply h r
  | .readServe h r | .privStoreApply h r => if r.serving then none else some (h, r)
  | _ => none

/-- A request's service is to end in the cycle `t`, or after the last of its line (R221). -/
def State.serveAt (s : State) (h t : Nat) (r : Req) : State :=
  let line := r.pa / 64
  let k := s.xtal h
  let t := match k.lineBusy.get? line with
    | some u => if t ≤ u then u + 1 else t
    | none => t
  (s.modXtal h fun k => { k with lineBusy := Tbl.put (k.lineBusy.filter fun e => decide (s.now < e.2)) line t }).sched t
    (reqEvent h { r with serving := true })

/-- A line enters the slice of 24,576 lines (R219); of a full slice one that the spec does not name leaves (log entry 5). -/
def State.fillLine (s : State) (h line : Nat) : State :=
  let q := (s.xtal h).slice
  if q.contains line then s
  else if q.length < 24576 then s.modXtal h fun k => { k with slice := line :: q }
  else
    let (n, s) := s.draw
    s.modXtal h fun k => { k with slice := line :: q.eraseIdx (Config.evictedLine n % q.length) }

/-- A request begins its service (R221): one a cycle; it waits for a line that is not in the slice, behind those that wait for it. A
freeze needs no line. -/
def State.beginServe (s : State) (h : Nat) (r : Req) : State :=
  let b := max s.now (s.xtal h).nextBegin
  let s := s.modXtal h fun k => { k with nextBegin := b + 1 }
  let line := r.pa / 64
  if r.kind = .freeze then s.sched (b + 4) (reqEvent h { r with serving := true })
  else match (s.xtal h).lineWait.get? line with
    | some q => s.modXtal h fun k => { k with lineWait := k.lineWait.put line (q ++ [r]) }
    | none =>
      if (s.xtal h).slice.contains line then s.serveAt h (b + 4) r
      else
        let (_, s) := s.lineRead h line b
        s.modXtal h fun k => { k with lineWait := k.lineWait.put line [r] }

/-- A request reaches the port: a full fault queue leaves it in the mesh, and later ones behind it (R223). -/
def State.letIn (s : State) (h : Nat) (r : Req) : State :=
  let k := s.xtal h
  if decide (64 ≤ k.faultq.length) || !k.portq.isEmpty then s.modXtal h fun k => { k with portq := k.portq ++ [r] }
  else s.beginServe h r

/-- Requests that reach a port in one cycle are admitted in the order of the router's arbitration (R221; log entry 5). -/
def State.admitAll (s : State) (h : Nat) : Nat → List Req → State
  | 0, _ => s
  | _, [] => s
  | _, [r] => s.letIn h r
  | fuel + 1, rs =>
    let (n, s) := s.draw
    let i := Config.arbitration n % rs.length
    State.admitAll (s.letIn h (rs.getD i default)) h fuel (rs.eraseIdx i)

/-- A request reaches a port, with all others of this cycle. -/
def State.takePort (s : State) (h : Nat) (r : Req) : State :=
  let same := s.agenda.filterMap fun e => if e.1 ≤ s.now then
      (match e.2.arriving with
        | some (g, q) => if g = h then some q else none
        | none => none)
    else none
  let s := { s with agenda := s.agenda.filter fun e => decide (s.now < e.1) || (match e.2.arriving with
      | some (g, _) => g != h
      | none => true) }
  s.admitAll h (same.length + 1) (r :: same)

/-- A line is in the slice: the requests that wait for it are served from cycle `t` on, in arrival order (R221). -/
def State.serveLine (s : State) (h line t : Nat) (rs : List Req) : State :=
  let s := (s.modXtal h fun k => { k with lineWait := k.lineWait.drop line }).fillLine h line
  (rs.zip (List.range rs.length)).foldl (fun s (r, i) => s.serveAt h (t + i) r) s

/-- A corrected error of a row is counted (R305). -/
def Xtal.corrected (k : Xtal) (bank row : Nat) : Xtal :=
  let key := bitsOf row 0 18 * 64 + bitsOf bank 0 6
  let at_ (i : Nat) : Nat := (k.history.get 0 i).toNat
  let pack (n : Nat) : BitVec 64 := BitVec.ofNat 64 (n * 2 ^ 25 + key * 2 + 1)
  match k.history.find? fun e => bitOf e.2.toNat 0 && bitsOf e.2.toNat 1 24 == key with
  | some e => { k with history := k.history.put e.1 (pack (min 255 (bitsOf e.2.toNat 25 8 + 1))) }
  | none =>
    let free := (List.range 4096).find? fun i => !bitOf (at_ i) 0
    let i := match free with
      | some i => i
      | none => (List.range 4096).foldl (fun m i => if bitsOf (at_ i) 25 8 < bitsOf (at_ m) 25 8 then i else m) 0
    { k with history := k.history.put i (pack 1) }

/-- DRAM_LINE_FILL (R221, R223, R305): a line arrives, and the requests that wait for it are served; or a memory-side fault parks
the oldest of them, while the others wait behind it; or they are refused with UECC. A correctable error is counted in the row's
history. A fault that finds the queue full is met again in the next cycle. -/
def execDramLineFill (s : State) : Outcome :=
  match s.ev with
  | .dramLineFill h line =>
    match (s.xtal h).lineWait.get [] line with
    | [] => .next (s.serveLine h line s.now [])
    | r :: rest =>
      let (n, s) := s.draw
      let outcome := Config.lineOutcome n
      if outcome = 1 ∨ outcome = 3 then
        if 64 ≤ (s.xtal h).faultq.length then .next (s.sched (s.now + 1) s.ev)
        else
          let place := Config.dramPlace line
          let s := if outcome = 1 then s.modXtal h fun k => k.corrected place.1 place.2 else s
          let s := s.modXtal h fun k => { k with faultq := k.faultq ++ [r], lineWait := k.lineWait.put line rest }
          let (m, s) := s.draw
          .next (s.sched (s.now + 1 + Config.repairTime m) (.faultQueueRepair h))
      else if outcome = 2 then
        .next ((r :: rest).foldl (fun s r => s.refuseReq h r .uecc) (s.modXtal h fun k => { k with lineWait := k.lineWait.drop line }))
      else .next (s.serveLine h line (s.now + 4) (r :: rest))
  | _ => .next s

/-- FAULT_QUEUE_REPAIR (R223): the oldest parked request is served again, once, and those behind it for its line; then requests that the
full queue kept in the mesh are accepted. -/
def execFaultQueueRepair (s : State) : Outcome :=
  match s.ev with
  | .faultQueueRepair h =>
    match (s.xtal h).faultq with
    | [] => .next s
    | r :: rest =>
      let b := max s.now (s.xtal h).nextBegin
      let line := r.pa / 64
      let behind := (s.xtal h).lineWait.get [] line
      let s := s.modXtal h fun k => { k with faultq := rest, nextBegin := b + 1 + behind.length }
      let s := s.serveLine h line (b + 4) (r :: behind)
      let q := (s.xtal h).portq
      .next (q.foldl (fun s r => s.letIn h r) (s.modXtal h fun k => { k with portq := [] }))
  | _ => .next s

/-! ### Serving -/

/-- Kinds of request that act on a lattice location (R297). -/
def ReqKind.lattice : ReqKind → Bool
  | .join | .fill | .wait | .freeze | .exact => true
  | _ => false

/-- Why a home rejects a request before it acts on it: its generation is not the table's (R205, R237), its lattice attributes
are not the frame's (R297; a freeze of a frame that is not LAT changes nothing, R216). A host access carries neither (R380). Log entry 71: a
drained private store never meets STALEGEN (R198), though R205 and R237 reject requests of an old generation. -/
def State.rejects (s : State) (h : Nat) (r : Req) : Option FaultCode :=
  let p := s.pkg (h / 2048)
  let mism := match (s.frame r.pa).lat with
    | some a => a.ty != r.lat.ty || a.width != r.lat.width || a.sgn != r.lat.sgn
    | none => r.kind != .freeze
  if (match r.ret with | .host _ => true | _ => false) then none
  else if r.gen ≠ p.genOf r.asid ∧ !(match r.ret with | .psb _ => true | _ => false) then some .stalegen
  else if r.kind.lattice && !r.code && mism then some .stalegen
  else none

/-- A request whose frame is free is rejected, or served by `k`. -/
def State.serveOr (s : State) (h : Nat) (r : Req) (k : State → State) : State :=
  match s.rejects h r with
  | some c => s.refuseReq h r c (if r.kind == .read || r.kind == .exact then 8 else 0)
  | none => k s

/-- A request at its home: it reaches the port; waits while its frame reads overflow records or is reassigned (R220, R297), one
behind another; is rejected; or is served by `k`. -/
def State.atHome (s : State) (h : Nat) (r : Req) (k : State → State) : State :=
  let f := frameKey r.pa
  let busy := (s.xtal h).frameBusy.get 0 f
  let q := (s.xtal h).frameWait.get [] f
  if !r.serving then s.takePort h r
  else if r.queued then
    if s.now < busy then s.sched busy (reqEvent h r)
    else
      let rest := q.drop 1
      let s := (s.modXtal h fun k => { k with frameWait := if rest.isEmpty then k.frameWait.drop f else k.frameWait.put f rest }).serveOr
        h r k
      match rest with
      | [] => s
      | n :: _ => s.sched (max (s.now + 1) ((s.xtal h).frameBusy.get 0 f)) (reqEvent h { n with queued := true })
  else if q.isEmpty && decide (busy ≤ s.now) then s.serveOr h r k
  else
    let s := s.modXtal h fun k => { k with frameWait := k.frameWait.put f (q ++ [r]) }
    if q.isEmpty then s.sched busy (reqEvent h { r with queued := true }) else s

/-- A lattice request that its home does not reject takes effect as one of the frame's present mapping would: with the frame's attributes,
the FILL tile size among them (R297). -/
def State.adopt (s : State) (r : Req) : Req :=
  match (s.frame r.pa).lat with
  | some a => if r.kind.lattice && !r.code then { r with lat := a } else r
  | none => r

/-- JOIN_APPLY (R210, R217, R227). -/
def execJoinApply (s : State) : Outcome :=
  match s.ev with
  | .joinApply h r => .next (s.atHome h r fun s =>
      let r := s.adopt r
      let (s, f) := s.joinLoc h r
      let s := s.answer h r f
      match f with
      | .accepted true | .refused _ true => s.evaluate h (frameKey r.pa) (· == r.pa)
      | _ => s)
  | _ => .next s

/-- FILL_APPLY (R246). -/
def execFillApply (s : State) : Outcome :=
  match s.ev with
  | .fillApply h r => .next (s.atHome h r fun s =>
      let r := s.adopt r
      let tiles := s.fillChanged r
      let (s, f) := s.fillUnits h r
      let s := s.answer h r f
      match f with
      | .accepted true | .refused _ true => s.evaluate h (frameKey r.pa) fun pa => tiles.contains (r.lat.tileBase pa)
      | _ => s)
  | _ => .next s

/-- The lowest waiter-table index that is free. -/
def Xtal.freeIndex (k : Xtal) : Nat :=
  ((List.range (k.waiters.length + 1)).find? fun i => !k.waiters.any (·.idx == i)).getD 0

/-- The lowest record of the overflow area that is free. -/
def Xtal.freeRecord (k : Xtal) : Nat :=
  ((List.range (k.overflow.length + 1)).find? fun i => !k.overflow.any (·.idx == i)).getD 0

/-- WAIT_SERVE (R214, R215, R220). -/
def execWaitServe (s : State) : Outcome :=
  match s.ev with
  | .waitServe h r => .next (s.atHome h r fun s =>
      let r := s.adopt r
      match s.waitIndex r with
      | some i => s.produce h r i
      | none =>
        let k := s.xtal h
        if k.waiters.length < 4096 then
          s.modXtal h fun k => { k with waiters := k.waiters ++ [⟨k.freeIndex, r⟩] }
        else if k.overflow.length < 262144 then
          let w : Waiter := ⟨k.freeRecord, r⟩
          (s.writeMem (overflowPa h w.idx) w.record).modXtal h fun k => { k with overflow := k.overflow ++ [w] }
        else s.refuseReq h r .qfull)
  | _ => .next s

/-- FREEZE_APPLY (R216, R217). -/
def execFreezeApply (s : State) : Outcome :=
  match s.ev with
  | .freezeApply h r => .next (s.atHome h r fun s =>
      let f := frameKey r.pa
      let q := s.frame r.pa
      let s := s.acceptReq h r
      if q.lat.isNone || q.frozen then s
      else ({ s with frames := s.frames.put f { q with frozen := true } }).evaluate h f fun _ => true)
  | _ => .next s

/-- Why a location cannot be read exactly (R218). -/
def State.unreadable (s : State) (a : LatAttr) (pa : Nat) : Option FaultCode :=
  match a.ty with
  | .once =>
    match s.once.get 0 (pa / 2 ^ a.width * 2 ^ a.width) with
    | 0 => some .xnf
    | 1 => none
    | _ => some .fillc
  | .fill =>
    let b := a.tileBase pa
    if s.tileConf b then some .fillc else if s.tileFilled a b then none else some .xnf
  | _ => if s.frozen pa then none else some .xnf

/-- EXACT_READ_SERVE (R218, R248): the bytes asked for, or the fault of the first location that cannot be read. The
response leaves 8 cycles later (R199). -/
def execExactReadServe (s : State) : Outcome :=
  match s.ev with
  | .exactReadServe h r => .next (s.atHome h r fun s =>
      let r := s.adopt r
      let live := (List.range r.n).filter fun i => ((r.bytes.getD i none)).isSome
      let bad := if r.code then none else live.findSome? fun i => s.unreadable r.lat (r.pa + i)
      match bad with
      | some c => s.refuseReq h r c 8
      | none => r.who.foldl (fun s w => s.send (s.now + 8) (homeRouter h) (.value w.core w.ctx r.ret (s.readMem r.pa r.n))) s)
  | _ => .next s

/-- SCHED_APPLY (R251): FADDB and INCW. -/
def execSchedApply (s : State) : Outcome :=
  match s.ev with
  | .schedApply h r => .next (s.atHome h r fun s =>
      let old := s.readN r.pa 8
      let new :=
        if r.kind = .faddb then (if r.bound ≤ old then old else min (old + r.val) r.bound)
        else if r.bound = 0 then (old + 1) % 2 ^ 64
        else if r.bound ≤ old + 1 then 0 else old + 1
      (s.writeMem r.pa (leBytes new 8)).produce h r old)
  | _ => .next s

/-- The time a HOSTM access spends beyond its service core (R381; log entry 5). -/
def State.hostDelay (s : State) : Nat × State :=
  let (n, s) := s.draw
  (16 + Config.hostTime n, s)

/-- The response to a read (R199): for a block-cache line the message carries the line's ASID and generation. -/
def Req.reply (r : Req) (w : Who) (bs : List Byte) : NetMsg :=
  match r.ret with
  | .line _ => .value w.core (r.asid * 65536 + r.gen) r.ret bs
  | _ => .value w.core w.ctx r.ret bs

/-- The frames that the leaves of an ASID's translation tables name: the first, and their number. -/
def State.framesOf (s : State) (p asid : Nat) (ok : Leaf → Bool) : List (Nat × Nat) :=
  let root := ((s.pkg p).roots.get 0 asid).toNat
  let one (l : Option Leaf) (n : Nat) : List (Nat × Nat) := match l with
    | some l => if ok l && !l.isAlias then [(l.frame, n)] else []
    | none => []
  if !bitOf root 0 then []
  else (List.range 256).flatMap fun i =>
    match pointerOf (s.readN (bitsOf root 12 40 * 4096 + i * 16) 16) with
    | none => []
    | some f1 => (List.range 4096).flatMap fun j =>
      let e2 := s.readN (f1 * 65536 + j * 16) 16
      if bitsOf e2 1 2 = 1 then one (leafOf e2 true) 4096
      else match pointerOf e2 with
      | none => []
      | some f2 => (List.range 4096).flatMap fun m =>
        let e3 := s.readN (f2 * 65536 + m * 16) 16
        if bitsOf e3 1 2 = 0 then one (leafOf e3 false) 1 else []

/-- A frame is one of these. -/
def inFrames (fs : List (Nat × Nat)) (key : Nat) : Bool := fs.any fun f => decide (f.1 ≤ key) && decide (key < f.1 + f.2)

/-- A launch runs: it stands on its partition. DESIGN CHOICE (log entry 69): one that a gang switch has put out does not run meanwhile, for
host writes to its pages. -/
def Run.stands (r : Run) : Bool := match r.st with | .out => false | .ended => false | _ => true

/-- A host write to a page of a running launch sets its escaped bit (R238). -/
def State.escapeHost (s : State) (pa : Nat) : State :=
  let hit (p : Nat) (r : Run) : Bool := r.stands && inFrames (s.framesOf p r.asid fun l => l.cls != .hostm) (frameKey pa)
  let pkg (e : Nat × Package) : Nat × Package :=
    (e.1, { e.2 with runs := e.2.runs.map fun r => if hit e.1 r then { r with escaped := true } else r })
  { s with pkgs := s.pkgs.map pkg }

/-- A frame is marked as a PRIV page of a running launch (R380). -/
def State.privMark (s : State) (pa : Nat) : Bool :=
  s.pkgs.any fun p => p.2.runs.any fun r => r.st != .ended && inFrames r.privs (frameKey pa)

/-- A host write is applied, or comes to nothing (R235). -/
def State.hostApplied (s : State) (svc id : Nat) : State :=
  s.modPkg (pkgOf svc) fun k =>
    let q := (k.hostq.get [] svc).filter (· != id)
    { k with hostq := if q.isEmpty then k.hostq.drop svc else k.hostq.put svc q }

/-- A request is not the host's, or the host writes that its service core received before it are applied (R235; log entry 68). -/
def State.hostTurn (s : State) (r : Req) : Bool :=
  match r.ret with
  | .host _ => r.who.all fun w => !((s.pkg (pkgOf w.core)).hostq.get [] w.core).any (· < w.id)
  | _ => true

/-- A read or a store takes effect at its home once it is its turn among the host's; until then it is served again. -/
def State.inTurn (s : State) (h : Nat) (r : Req) (k : State → State) : State :=
  if s.hostTurn r then k s else s.sched (s.now + 1) (reqEvent h { r with serving := true, queued := false })

/-- A host read of a PRIV page of a running launch (R380). -/
def State.poisoned (s : State) (r : Req) : Bool :=
  (match r.ret with | .host _ => true | _ => false) && (s.frame r.pa).lat.isNone && s.privMark r.pa

/-- READ_SERVE (R199, R236, R380): the bytes of a PRIV or CODE page, the response leaving 8 cycles later; at a service core, the
bytes of host memory. A host read of a running launch's PRIV page is answered with poison. -/
def execReadServe (s : State) : Outcome :=
  match s.ev with
  | .readServe h r =>
    if 2 ^ 24 ≤ h then
      let (d, s) := s.hostDelay
      .next (r.who.foldl (fun s w => s.send (s.now + d) (homeRouter h) (r.reply w (s.readHost r.pa r.n))) s)
    else .next (s.atHome h r fun s => s.inTurn h r fun s =>
      if s.poisoned r then
        r.who.foldl (fun s w => s.send (s.now + 8) (homeRouter h) (.fault (deferredRec w r .prot) r.ret w.id)) s
      else r.who.foldl (fun s w => s.send (s.now + 8) (homeRouter h) (r.reply w (s.readMem r.pa r.n))) s)
  | _ => .next s

/-- A host write of a line of a LAT frame (R380): each location, or FILL unit, whose bytes are given is joined at the frame's type and
width. A line that covers part of a location is discarded, and one that conflicts or would change a frozen location changes nothing. -/
def State.hostJoins (s : State) (h : Nat) (r : Req) (a : LatAttr) : State × Option FaultCode :=
  let w := if a.ty = .fill then 4 else 2 ^ a.width
  let parts := (chunks w (r.bytes.length / w) r.bytes).zip (List.range (r.bytes.length / w))
  if parts.any fun p => p.1.any Option.isSome && !p.1.all Option.isSome then (s, some .ltype)
  else
    let done := (parts.filter fun p => p.1.all Option.isSome).foldl (fun (q : State × List Nat × Option FaultCode) p =>
      match q.2.2 with
      | some _ => q
      | none =>
        let pa := r.pa + p.2 * w
        let one := { r with pa := pa, va := pa, lat := a, lid := 65536, val := leValue (p.1.filterMap id), bytes := p.1 }
        let (s', f) := if a.ty = .fill then q.1.fillUnits h one else q.1.joinLoc h one
        match f with
        | .accepted new => (s', (if !new then [] else if a.ty = .fill then q.1.fillChanged one else [pa]) ++ q.2.1, none)
        | .refused c _ => (s', q.2.1, some c)) (s, [], none)
    match done.2.2 with
    | some c => (s, some c)
    | none => (done.1.evaluate h (frameKey r.pa) fun pa => done.2.1.contains (if a.ty = .fill then a.tileBase pa else pa), none)

/-- A host write of a line at its home (R238, R380): a join in a LAT frame, discarded in a PRIV page of a running launch, else a plain
write. One that is applied sets the escaped bit of every running launch whose page it is (log entry 69). -/
def State.hostWrite (s : State) (h : Nat) (r : Req) : State :=
  match (s.frame r.pa).lat with
  | some a =>
    match s.hostJoins h r a with
    | (s, none) => (s.escapeHost r.pa).acceptReq h r
    | (s, some c) => s.refuseReq h r c
  | none => if s.privMark r.pa then s.refuseReq h r .prot else ((s.writeMask r.pa r.bytes).escapeHost r.pa).acceptReq h r

/-- Writes the given bytes of host memory. -/
def State.writeHostMask (s : State) (a : Nat) : List (Option Byte) → State
  | [] => s
  | b :: bs =>
    State.writeHostMask (match b with
      | some v => s.writeHost a [v]
      | none => s) (a + 1) bs

/-- PRIV_STORE_APPLY (R198, R236, R257, R380): the home writes the bytes of a drained store or of a copy engine's run, and
acknowledges it; a service core passes a store on to host memory, and acknowledges a copy's after its flushing read. -/
def execPrivStoreApply (s : State) : Outcome :=
  match s.ev with
  | .privStoreApply h r =>
    if 2 ^ 24 ≤ h then
      let (d, s) := s.hostDelay
      .next (r.who.foldl (fun s w => s.send (s.now + d) (homeRouter h) (.accept w (r.retFor w))) (s.writeHostMask r.pa r.bytes))
    else .next (s.atHome h r fun s => s.inTurn h r fun s =>
      match r.ret with
      | .host _ => r.who.foldl (fun s w => s.hostApplied w.core w.id) (s.hostWrite h r)
      | _ => (s.writeMask r.pa r.bytes).acceptReq h r)
  | _ => .next s

/-! ### Combining (R226, R227) -/

/-- A held entry takes an arriving request (R227). -/
def mergeable (e r : Req) : Bool :=
  e.kind == .join && r.kind == .join && e.pa == r.pa && e.lat.ty == r.lat.ty && e.lat.width == r.lat.width
    && e.lat.sgn == r.lat.sgn && e.asid == r.asid && e.gen == r.gen && e.lid == r.lid
    && (e.lat.ty != .once || e.val == r.val) && decide (e.who.length + r.who.length ≤ 8)

/-- The merge of two joins (R210, R227). -/
def mergeReq (e r : Req) : Req := { e with val := e.lat.join e.val r.val, who := e.who ++ r.who }

/-- A request goes on from a router towards its home (R16, R386). -/
def State.forwardReq (s : State) (router h : Nat) (r : Req) : State :=
  let p := pkgOf router
  if p = h / 2048 then
    if router = xtalRouter h then s.sched s.now (reqEvent h r)
    else
      let (n, d) := nextHop router (xtalRouter h)
      s.sched (s.now + d) (.combineMerge n h r)
  else
    let pe := (s.pkg p).portmap.get 0 (h / 2048)
    if !pe.getLsbD 5 then s.answerDown s.now p router (.req h r)
    else
      let n := pe.toNat % 32
      if router = portRouter p n then
        s.sched s.now (.codeword p n { leg := .out, msgs := [(0, .req h r)], src := (p, n), dst := (p, n) } true)
      else
        let (m, d) := nextHop router (portRouter p n)
        s.sched (s.now + d) (.combineMerge m h r)

/-- COMBINE_MERGE (R226, R227): a request enters or passes a router: it merges into a held entry, is held there if it has
just left its core, or goes on. -/
def execCombineMerge (s : State) : Outcome :=
  match s.ev with
  | .combineMerge router h r =>
    let k := s.core router
    match k.comb.find? fun e => mergeable e.req r with
    | some e =>
      .next (s.modCore router fun k => { k with comb := k.comb.map fun f => if f.id = e.id then { f with req := mergeReq f.req r } else f })
    | none =>
      if !r.held then .next (s.forwardReq router h r)
      else
        let (id, s) := s.freshId
        let first := match k.comb with
          | [] => none
          | a :: l => some (l.foldl (fun m e => if e.until_ < m.until_ then e else m) a)
        let s := match if k.comb.length < 16 then none else first with
          | none => s
          | some e => (s.modCore router fun k => { k with comb := k.comb.filter (·.id != e.id) }).forwardReq router e.home e.req
        let s := s.modCore router fun k => { k with comb := k.comb ++ [⟨id, s.now + 16, h, { r with held := false }⟩] }
        .next (s.sched (s.now + 16) (.combineHoldEnd router id))
  | _ => .next s

/-- COMBINE_HOLD_END (R226): a held entry leaves. -/
def execCombineHoldEnd (s : State) : Outcome :=
  match s.ev with
  | .combineHoldEnd router id =>
    match (s.core router).comb.find? fun e => e.id == id with
    | none => .next s
    | some e => .next ((s.modCore router fun k => { k with comb := k.comb.filter (·.id != id) }).forwardReq router e.home e.req)
  | _ => .next s

/-- A core releases a request whose first flit enters its router in cycle `e`: joins and FILL writes are held there
(R226), others travel at once. -/
def State.releaseReq (s : State) (e c : Nat) (r : Req) : State :=
  match r.kind with
  | .join | .fill => (s.countSent c).sched e (.combineMerge (routerOf c) (homeOf r.pa) { r with held := true })
  | _ => s.sendCounted e c (.req (homeOf r.pa) r)

/-! ### Frames (R297) -/

/-- FRAME_REASSIGN (R297): the home has rewritten every line of a frame: its state is that of a fresh frame, and its
waiters complete INVALID with STALEGEN. -/
def execFrameReassign (s : State) : Outcome :=
  match s.ev with
  | .frameReassign h frame attr =>
    let lo := frame * 65536
    let out (pa : Nat) : Bool := decide (pa < lo) || decide (lo + 65536 ≤ pa)
    let k := s.xtal h
    let gone := (k.waiters ++ k.overflow).filter fun w => frameKey w.req.pa == frame
    let s := { s with
      mem := s.mem.clear lo 65536
      frames := s.frames.put frame { s.frames.get {} frame with lat := attr, frozen := false }
      once := s.once.filter fun e => out e.1
      arrived := s.arrived.filter fun e => out (4 * e.1)
      tconf := s.tconf.filter fun e => out e.1 }
    let s := s.modXtal h fun k =>
      { k with waiters := k.waiters.filter fun w => frameKey w.req.pa != frame
               overflow := k.overflow.filter fun w => frameKey w.req.pa != frame }
    .next (gone.foldl (fun s w => s.refuseReq h w.req .stalegen) s)
  | _ => .next s

end Sys2Proof.Machine
end

