-- ==== Sys2Proof/Machine/Link.lean ====
section
/-!
DEFINITION. What a Brineline port sends (R384 to R387, R389): codewords of 20 flit slots, one in a rotation, with their numbers, credits,
descriptors and replay; and the entry of a received message into the mesh. Keys below 32 are the ports of a package; key 32 + n is the
port of the switch that port n is connected to, if it is (R389).
-/

namespace Sys2Proof.Machine

/-- A port. -/
def State.port (s : State) (p n : Nat) : Port := (s.pkg p).ports.get {} n
/-- Changes a port. -/
def State.modPort (s : State) (p n : Nat) (f : Port → Port) : State :=
  s.modPkg p fun k => { k with ports := k.ports.put n (f (k.ports.get {} n)) }

/-- The port at the far end of a port's cable. -/
def State.farEnd (s : State) (p n : Nat) : Option (Nat × Nat) :=
  if 32 ≤ n then some (p, n - 32) else if (s.port p n).switched then some (p, n + 32) else Config.streamCable p n

/-! ### Codewords (R384, R385) -/

/-- The slot that a descriptor takes when flits of a class join a codeword (R384): one, unless it has one or holds that class alone. -/
def Codeword.extra (w : Codeword) (cls : Nat) : Nat := if w.dsc || w.used == 0 || w.cls == cls then 0 else 1

/-- The codeword that a port still fills in the cycle `t`, with its first cycle. -/
def Port.open? (q : Port) (t : Nat) : Option (Nat × Codeword) :=
  match q.filling, q.replay.getLast? with
  | some tx, some w => if t < tx + 16 then some (tx, w) else none
  | _, _ => none

/-- A port begins a codeword, in the cycle `t` or when it next may: it stays in the replay buffer until it is acknowledged, and reaches
the far end 80 cycles later. -/
def State.newWord (s : State) (p n t : Nat) : State :=
  match s.farEnd p n with
  | none => s
  | some d =>
    let q := s.port p n
    let tx := max t q.nextTx
    let w : Codeword := { seq := some q.seq, ack := q.exp, src := (p, n), dst := d }
    (s.modPort p n fun q =>
      { q with seq := (q.seq + 1) % 256, replay := q.replay ++ [w], filling := some tx, nextTx := tx + 16
               oldest := if q.replay.isEmpty then tx else q.oldest }).sched (tx + 80) (.codeword d.1 d.2 w true)

/-- The codeword that a port fills becomes `w`. -/
def State.fillWord (s : State) (p n : Nat) (w : Codeword) : State :=
  let same (e : Event) : Event := match e with
    | .codeword a b v i => .codeword a b (if v.leg = .link ∧ v.src = w.src ∧ v.seq = w.seq then w else v) i
    | e => e
  let s := s.modPort p n fun q => { q with replay := q.replay.dropLast ++ [w] }
  { s with agenda := s.agenda.map fun e => (e.1, same e.2) }

/-- The flits of a message take slots: `left` of them from the cycle `t` on, one a cycle, or later where the port lags behind. The
message is in the codeword of its last flit. -/
def State.putFlits (s : State) (p n : Nat) (m : NetMsg) : Nat → Nat → Nat → State
  | 0, _, _ => s
  | fuel + 1, left, t =>
    match (s.port p n).open? t with
    | none => State.putFlits (s.newWord p n t) p n m fuel left t
    | some (tx, w) =>
      let u := w.used + w.extra m.cls
      let k := min left (min (20 - u) (tx + 16 - t))
      if k = 0 then State.putFlits (s.newWord p n t) p n m fuel left t
      else
        let last := decide (k = left)
        let s := s.fillWord p n
          { w with used := u + k, dsc := w.dsc || w.extra m.cls == 1, cls := if w.used = 0 then m.cls else w.cls
                   msgs := if last then w.msgs ++ [(max (t + k - 1 - tx) ((u + k - 1) / 2), m)] else w.msgs }
        if last then s else State.putFlits s p n m fuel (left - k) (t + k)

/-- Credits added to a list by class. -/
def addCredits (a b : List (Nat × Nat)) : List (Nat × Nat) :=
  b.foldl (fun (l : Tbl Nat) e => l.put e.1 (l.get 0 e.1 + e.2)) a

/-- What a link message says when it departs in the cycle `tx`: a time-sync message carries its sender's tbase of that cycle (R388). -/
def State.stamp (s : State) (p tx : Nat) : LinkMsg → LinkMsg
  | .timeSync _ => .timeSync ((s.tbase p + tx + 2 ^ 64 - s.now) % 2 ^ 64)
  | l => l

/-- A link message or returned credits leave in a descriptor (R384): that of the codeword being filled if it takes them, else of a new one;
they wait while the port trains or its replay buffer is full. -/
def State.portControl (s : State) (p n : Nat) (link : Option LinkMsg) (cred : List (Nat × Nat)) : State :=
  let q := s.port p n
  if !q.up then s
  else
    let takes (w : Codeword) : Bool := (w.dsc || decide (w.used < 20)) && (link.isNone || w.link.isNone)
    let fill (s : State) (tx : Nat) (w : Codeword) : State :=
      let link := link.map fun l => s.stamp p tx l
      s.fillWord p n { w with used := w.used + (if w.dsc then 0 else 1), dsc := true, link := link.or w.link, cred := addCredits w.cred cred }
    match (q.open? s.now).filter fun e => takes e.2 with
    | some (tx, w) => fill s tx w
    | none =>
      if q.training || decide (128 ≤ q.replay.length) then s.modPort p n fun q => { q with owed := q.owed ++ [(link, cred)] }
      else
        let s := s.newWord p n s.now
        match (s.port p n).filling, (s.port p n).replay.getLast? with
        | some tx, some w => fill s tx w
        | _, _ => s

/-! ### Messages -/

/-- A message has to wait at a port (R262, R384, R385): for its retraining, for earlier ones of its class, for credits, or for room in the
replay buffer. -/
def Port.blocks (q : Port) (now : Nat) (m : NetMsg) : Bool :=
  let fits : Bool := match q.open? now with
    | some (_, w) => decide (w.used + w.extra m.cls + m.flits ≤ 20)
    | none => false
  q.training || q.waiting.any (·.cls == m.cls) || decide (q.credits.get 64 m.cls < m.flits)
    || !(fits || decide (q.replay.length + m.flits / 16 + 1 ≤ 128))

/-- A message whose first flit is at a port in this cycle leaves through it, or waits, or is answered as a down port does (R384 to R387).
What a switch cannot pass on is lost. -/
def State.portSend (s : State) (p n : Nat) (m : NetMsg) : State :=
  let q := s.port p n
  if !q.up || (s.farEnd p n).isNone then (if n < 32 then s.answerDown s.now p (portRouter p n) m else s)
  else if q.blocks s.now m then s.modPort p n fun q => { q with waiting := q.waiting ++ [m] }
  else (s.modPort p n fun q => { q with credits := q.credits.put m.cls (q.credits.get 64 m.cls - m.flits) }).putFlits p n m
    (m.flits + 2) m.flits s.now

/-- What waits at a port leaves as far as it now may: link messages and credits first, then messages in their order. -/
def State.drainPort (s : State) (p n : Nat) : State :=
  let q := s.port p n
  let s := s.modPort p n fun q => { q with owed := [], waiting := [] }
  q.waiting.foldl (fun s m => s.portSend p n m) (q.owed.foldl (fun s e => s.portControl p n e.1 e.2) s)

/-- A message from another package enters the mesh at a port's router (R386), where a join or FILL write may merge (R227). Its flits follow one another without a gap over the link and
the mesh, and this is the cycle of the last. -/
def State.enterMesh (s : State) (p n : Nat) (m : NetMsg) : State :=
  let r := portRouter p n
  match m with
  | .req h q => if q.kind = .join ∨ q.kind = .fill then s.sched s.now (.combineMerge r h q) else s.send s.now r m
  | .flit f => s.sched s.now (.streamFlitForward r 5 f)
  | m => s.send (s.now + 1 - m.flits) r m

/-- The core or router of a package that a message ends at, for the holding of R390. -/
def NetMsg.place (m : NetMsg) (p n : Nat) : Nat :=
  match m with
  | .flit _ => portRouter p n
  | m => m.target

/-- A message of a pod barrier leaves a package for another, in a descriptor (R384). It acts at the time of R323, whatever codeword carries it
(log entry 47). -/
def State.barrierHop (s : State) (p q : Nat) : State :=
  let e := (s.pkg p).portmap.get 0 q
  if p = q ∨ !e.getLsbD 5 then s else s.portControl p (e.toNat % 32) (some (.barrier q)) []

/-- Credits for a message that has left the receive buffers of a port go back (R384, R390). -/
def State.returnCredit (s : State) (p n : Nat) (m : NetMsg) : State := s.portControl p n none [(m.cls, m.flits)]

end Sys2Proof.Machine
end

