-- ==== Sys2Proof/Machine/TileMath.lean ====
section
/-!
DEFINITION. What tile operations compute (R167 to R170, R179 to R188): shapes and their checks, the elements of a tile,
the fixed sum order of the matrix engine, checksums, sparse expansion and conversions, on the bytes of tiles.
-/

namespace Sys2Proof.Machine

/-! ### Shapes -/

/-- A captured shape (R96, R168). -/
structure Shape where
  rows : Nat
  cols : Nat
  code : Nat
  sp : Bool
  ck : Bool
deriving DecidableEq, Repr, Inhabited

/-- The shape a tsh register holds (R96). -/
def shapeOf (w : W32) : Shape :=
  ⟨bitsOf w.toNat 0 6 + 1, bitsOf w.toNat 6 6 + 1, bitsOf w.toNat 12 4, bitOf w.toNat 16, bitOf w.toNat 17⟩

/-- The element format. -/
def Shape.fmt (h : Shape) : Fmt := Fmt.ofCode h.code
/-- BFX8 or BFX4. -/
def Shape.bfx (h : Shape) : Bool := h.code == 3 || h.code == 7
/-- The row length in bytes (R167). -/
def Shape.rowBytes (h : Shape) : Nat := h.cols * h.fmt.width / 8
/-- The data bytes of the shape. -/
def Shape.dataBytes (h : Shape) : Nat := h.rows * h.rowBytes
/-- The shape uses the side area (R168). -/
def Shape.usesSide (h : Shape) : Bool := h.ck || h.sp || h.bfx
/-- The image size B (R178). -/
def Shape.imageSize (h : Shape) : Nat := h.dataBytes + if h.usesSide then 512 else 0

/-- The shape is valid (R169). -/
def Shape.valid (h : Shape) : Bool :=
  let x := if h.bfx then h.rows * (h.cols / 32) * 2 else 0
  decide (h.code < 8) && decide (h.dataBytes ≤ 4096) && (!h.bfx || h.cols % 32 == 0)
    && (!h.sp || ([1, 2, 3, 6, 7].contains h.code && h.cols % (if h.bfx then 96 else 6) == 0
      && decide (h.rows * (h.cols / 6) * 2 + x ≤ 512)))
    && (!h.ck || ((h.code == 0 || h.code == 4) && !h.sp))

/-! ### Elements -/

/-- All 4,608 bytes of a tile: the data, then the side area. -/
def fullTile (bs : List Byte) : List Byte := bs ++ List.replicate (4608 - bs.length) 0

/-- A byte of the side area. -/
def sideByte (bs : List Byte) (k : Nat) : Nat := (bs.getD (4096 + k) 0).toNat

/-- Bytes split into pieces of `n`, `k` of them. -/
def pieces {α : Type} (n : Nat) : Nat → List α → List (List α)
  | 0, _ => []
  | k + 1, l => l.take n :: pieces n k (l.drop n)

/-- The element patterns of a tile, row by row (R167). -/
def rawRows (h : Shape) (bs : List Byte) : List (List Nat) :=
  (pieces h.rowBytes h.rows (fullTile bs)).map fun row =>
    if h.code = 7 then row.flatMap fun b => [b.toNat % 16, b.toNat / 16]
    else (pieces (h.fmt.width / 8) h.cols row).map leValue

/-- The value of a BFX element (R134); an exponent of 255 counts as an invalid operand (R182). -/
def bfxVal (four : Bool) (el eh elo : Nat) : FVal :=
  let mb := if four then 2 else 6
  let e := if bitOf el (mb + 1) then elo else eh
  if e = 255 then .nan true else .fin (bitOf el mb) (bitsOf el 0 mb) ((e : Int) - 127 - bfxLogF four)

/-- The float values of a tile, row by row. -/
def valRows (h : Shape) (bs : List Byte) : List (List FVal) :=
  ((rawRows h bs).zip (List.range h.rows)).map fun (row, i) =>
    if h.bfx then
      (row.zip (List.range h.cols)).map fun (el, j) =>
        let o := 2 * (i * h.cols / 32 + j / 32)
        bfxVal (h.code == 7) el (sideByte bs o) (sideByte bs (o + 1))
    else row.map (unpack h.fmt)

/-- The signed integer values of a tile. -/
def intRows (h : Shape) (bs : List Byte) : List (List Int) :=
  (rawRows h bs).map fun row => row.map fun e => signedOf e h.fmt.width

/-- A row of six stored elements a group spread to its logical positions; none if a metadata word is malformed
(R170, R183). -/
def expandRow {α : Type} (zero : α) : List Nat → List α → Option (List α)
  | [], _ => some []
  | m :: ms, xs =>
    if 2 ^ 12 ≤ m ∨ ((List.range 12).filter fun q => bitOf m q).length ≠ 6 then none
    else
      let r := (List.range 12).foldl (fun (r : List α × List α) q =>
        if bitOf m q then (r.1 ++ [r.2.headD zero], r.2.drop 1) else (r.1 ++ [zero], r.2)) ([], xs)
      (expandRow zero ms r.2).map (r.1 ++ ·)

/-- The metadata words of a row (R170). -/
def metaRow (h : Shape) (bs : List Byte) (i : Nat) : List Nat :=
  (List.range (h.cols / 6)).map fun g =>
    let o := 2 * (i * h.cols / 6 + g) + if h.bfx then h.rows * h.cols / 16 else 0
    sideByte bs o + 256 * sideByte bs (o + 1)

/-- The rows of a sparse tile at their logical width. -/
def expandRows {α : Type} (zero : α) (h : Shape) (bs : List Byte) (rows : List (List α)) : Option (List (List α)) :=
  (rows.zip (List.range h.rows)).foldr (fun (row, i) acc =>
    match expandRow zero (metaRow h bs i) row, acc with
    | some r, some rs => some (r :: rs)
    | _, _ => none) (some [])

/-- The columns of a matrix of `n` columns. -/
def columns {α : Type} (d : α) (n : Nat) (rows : List (List α)) : List (List α) :=
  (List.range n).map fun j => rows.map fun r => r.getD j d

/-! ### The sum order (R181) -/

/-- A value with what arose on the way: an invalid operation, an overflow. -/
structure Acc where
  v : FVal := .fin false 0 0
  inv : Bool := false
  ovf : Bool := false
deriving DecidableEq, Repr, Inhabited

/-- The FP32 value of a result with its flags. -/
def accOf (r : Exact × List Nat) (inv ovf : Bool) : Acc :=
  let q := round .f32 0 r.1
  ⟨unpack .f32 q.1, inv || r.2.contains 0, ovf || q.2.contains 2⟩

/-- An exact product (R180); a NaN operand makes it a NaN. -/
def product (a b : FVal) : Acc :=
  if a.isNan || b.isNan then ⟨.nan false, a.isSig || b.isSig, false⟩
  else match mulVal a b with
  | some v => ⟨v, false, false⟩
  | none => ⟨.nan false, true, false⟩

/-- G: the FP32 value of a group of products (R181). -/
def groupSum (ps : List FVal) : Acc :=
  if ps.any FVal.isNan then ⟨.nan false, ps.any FVal.isSig, false⟩
  else
    let infs := ps.filterMap fun p => match p with
      | .inf n => some n
      | _ => none
    match infs with
    | n :: rest => if rest.any (· != n) then ⟨.nan false, true, false⟩ else ⟨.inf n, false, false⟩
    | [] =>
      let fins := ps.filterMap fun p => match p with
        | .fin n m e => some (n, m, e)
        | _ => none
      let lo := fins.foldl (fun l f => min l f.2.2) 0
      let sum := fins.foldl (fun t f => t + scaledInt f.1 f.2.1 f.2.2 lo) 0
      accOf (exactInt sum lo (fins.all fun f => f.1 && f.2.1 == 0), []) false false

/-- chain (R181): with `c0` none the first group stands alone; `sub` subtracts the groups. -/
def chain (ps : List FVal) (c0 : Option FVal) (sub : Bool) : Acc :=
  let gs := (pieces 32 ((ps.length + 31) / 32) ps).map groupSum
  let step (c g : Acc) : Acc :=
    accOf (addExact c.v (if sub then g.v.flip else g.v)) (c.inv || g.inv) (c.ovf || g.ovf)
  match c0, gs with
  | some c, gs => gs.foldl step ⟨c, false, false⟩
  | none, g :: gs => gs.foldl step g
  | none, [] => {}

/-- The bits of an FP32 value. -/
def bits32 (v : FVal) : Nat := (round .f32 0 v.exact).1

/-- The counters of a float element that the engine delivers (R182). -/
def engineEvents (f : Fmt) (v : FVal) (inv ovf : Bool) : List (Nat × Nat) :=
  let sub := match v with
    | .fin _ m _ => m != 0 && decide (m < 2 ^ f.fields.2)
    | _ => false
  (if inv then [(0, 1)] else []) ++ (if ovf then [(2, 1)] else []) ++ (if v.isNan then [(5, 1)] else [])
    ++ (if sub then [(9, 1)] else [])

/-- One element of a float multiply (R181, R182). -/
def mulElem (a b : List FVal) (c0 : Option FVal) (sub : Bool) : Nat × List (Nat × Nat) :=
  let ps := (a.zip b).map fun (x, y) => product x y
  let r := chain (ps.map (·.v)) c0 sub
  let inv := r.inv || ps.any (·.inv) || (match c0 with | some c => c.isSig | none => false)
  (bits32 r.v, engineEvents .f32 r.v inv r.ovf)

/-- The chain of exact products without flags. -/
def dotF (a b : List FVal) : FVal := (chain ((a.zip b).map fun (x, y) => (product x y).v) none false).v

/-- The exact integer inner product. -/
def dotI (a b : List Int) : Int := (a.zip b).foldl (fun t p => t + p.1 * p.2) 0

/-! ### Writing tiles -/

/-- The bytes of rows of 32-bit elements and a side area. -/
def tileBytes (size : Nat) (rows : List (List Nat)) (side : List Byte) : List Byte :=
  let data := rows.flatMap fun r => r.flatMap fun e => leBytes e size
  data ++ List.replicate (4096 - data.length) 0 ++ side ++ List.replicate (512 - side.length) 0

/-- A checksum extension (R170). -/
def extBytes (rho gamma : List Nat) : List Byte :=
  let r := rho.flatMap fun e => leBytes e 4
  r ++ List.replicate (256 - r.length) 0 ++ gamma.flatMap fun e => leBytes e 4

/-- The extension a tile holds: row and column checksums. -/
def extOf (h : Shape) (bs : List Byte) : List Nat × List Nat :=
  let w (o : Nat) : Nat := leValue ((fullTile bs).drop (4096 + o) |>.take 4)
  ((List.range h.rows).map fun i => w (4 * i), (List.range h.cols).map fun j => w (256 + 4 * j))

/-- The side area kept by an operation that writes the data only: the extension if the shape has one, else zero
(R167). -/
def keptSide (h : Shape) (old : List Byte) : List Byte :=
  if h.ck then
    let e := extOf h old
    extBytes e.1 e.2
  else []

/-! ### The operations -/

/-- What an operation delivers: a tile's bytes, a register's value, exception events. -/
structure TileOut where
  tile : Option (List Byte) := none
  reg : Option V1024 := none
  ev : List (Nat × Nat) := []
deriving DecidableEq, Repr, Inhabited

/-- The code of the format of C for A's and B's (R180). -/
def productCode (code : Nat) : Option Nat :=
  match code with
  | 1 | 2 | 3 | 7 => some 0
  | 6 => some 4
  | _ => none

/-- The MACs per cycle of an input format (R180). -/
def macRate (code : Nat) : Nat := if code = 7 then 2048 else if code = 1 ∨ code = 2 then 512 else 1024

/-- The shapes of a multiply agree (R180, R183, R184). -/
def mulShapes (sparse ext : Bool) (d a b : Shape) : Bool :=
  d.valid && a.valid && b.valid && a.rows == d.rows && b.rows == (if sparse then 2 * a.cols else a.cols)
    && b.cols == d.cols && a.code == b.code && productCode a.code == some d.code
    && a.sp == sparse && !b.sp && (!ext || d.ck)

/-- TMMA, TMMAS and TMMAC (R180 to R185): `ext` forms the checksum extension. -/
def multiply (sparse ext : Bool) (acc : Nat) (d a b : Shape) (dB aB bB : List Byte) : Option TileOut :=
  if !mulShapes sparse ext d a b then none
  else if a.code = 6 then
    let ra := intRows a aB
    match if sparse then expandRows 0 a aB ra else some ra with
    | none => none
    | some ra =>
      let rb := intRows b bB
      let cb := columns 0 b.cols rb
      let old := intRows d dB
      let comb (o x : Int) : Int := if acc = 0 then x else if acc = 1 then o + x else o - x
      let c := (ra.zip old).map fun (row, orow) => (cb.zip orow).map fun (col, o) => wrapU (comb o (dotI row col)) 32
      let side :=
        if !ext then keptSide d dB
        else
          let u := rb.map fun r => r.foldl (· + ·) 0
          let ca := columns 0 b.rows ra
          let w := ca.map fun r => r.foldl (· + ·) 0
          let e := extOf d dB
          let rho := (ra.zip e.1).map fun (row, o) => wrapU (comb (signedOf o 32) (dotI row u)) 32
          let gam := (cb.zip e.2).map fun (col, o) => wrapU (comb (signedOf o 32) (dotI w col)) 32
          extBytes rho gam
      some { tile := some (tileBytes 4 c side) }
  else
    let va := valRows a aB
    match if sparse then expandRows (FVal.fin false 0 0) a aB va else some va with
    | none => none
    | some ra =>
      let z := FVal.fin false 0 0
      let rb := valRows b bB
      let cb := columns z b.cols rb
      let old := valRows d dB
      let c := (ra.zip old).map fun (row, orow) =>
        (cb.zip orow).map fun (col, o) => mulElem row col (if acc = 0 then none else some o) (acc == 2)
      let side :=
        if !ext then keptSide d dB
        else
          let u := rb.map fun r => (chain r none false).v
          let w := (columns z b.rows ra).map fun r => (chain r none false).v
          let e := extOf d dB
          let comb (o : Nat) (x : FVal) : Nat :=
            if acc = 0 then bits32 x
            else (finish .f32 0 (addExact (unpack .f32 o) (if acc = 1 then x else x.flip))).1
          extBytes ((ra.zip e.1).map fun (row, o) => comb o (dotF row u))
            ((cb.zip e.2).map fun (col, o) => comb o (dotF w col))
      some { tile := some (tileBytes 4 (c.map fun r => r.map (·.1)) side), ev := c.flatMap fun r => r.flatMap (·.2) }

/-- The magnitude of an exact difference (R186). -/
def residue (r o : FVal) : FVal :=
  match (addExact r o.flip).1 with
  | .nan => .nan false
  | .inf _ => .inf false
  | .fin _ m e _ => .fin false m e

/-- The index of the largest residue over a tolerance, the lowest among equals, a NaN the largest; −1 if there is none
(R186). -/
def worst (tol : FVal) (rs : List FVal) : Nat :=
  let above (r : FVal) : Bool := r.isNan || tol.isNan || (tol.below r && !tol.eqv r)
  let best := (rs.zip (List.range rs.length)).foldl (fun (b : Option (FVal × Nat)) (r, i) =>
    if !above r then b
    else match b with
    | none => some (r, i)
    | some (q, j) =>
      if q.isNan then some (q, j)
      else if r.isNan || (q.below r && !q.eqv r) then some (r, i) else some (q, j)) none
  match best with
  | some (_, i) => i
  | none => 2 ^ 32 - 1

/-- TCKV (R186): the packed result, and whether a residue is over the tolerance. -/
def checkTile (a : Shape) (aB : List Byte) (tau : Nat) : Option (Nat × Bool) :=
  if !(a.valid && a.ck) then none
  else
    let e := extOf a aB
    let (row, col) :=
      if a.code = 4 then
        let rs := intRows a aB
        let int (v : Int) : FVal := .fin (decide (v < 0)) v.natAbs 0
        let res (xs : List (List Int)) (os : List Nat) : List FVal :=
          (xs.zip os).map fun (x, o) => .fin false (signedOf (wrapU (x.foldl (· + ·) 0 - signedOf o 32) 32) 32).natAbs 0
        (worst (int (signedOf tau 32)) (res rs e.1), worst (int (signedOf tau 32)) (res (columns 0 a.cols rs) e.2))
      else
        let rs := valRows a aB
        let t := unpack .f32 (tau % 2 ^ 32)
        let res (xs : List (List FVal)) (os : List Nat) : List FVal :=
          (xs.zip os).map fun (x, o) => residue (chain x none false).v (unpack .f32 o)
        (worst t (res rs e.1), worst t (res (columns (.fin false 0 0) a.cols rs) e.2))
    some (col * 2 ^ 32 + row, row != 2 ^ 32 - 1 || col != 2 ^ 32 - 1)

/-- The engine's counters among the events of an element (R140, R182, R187). -/
def engineOnly (ev : List Nat) : List (Nat × Nat) := (ev.filter fun k => [0, 2, 5, 7, 9].contains k).map fun k => (k, 1)

/-- The sum of two patterns of one format (R187). -/
def addPattern (f : Fmt) (x y : Nat) : Res :=
  if f.isFloat then finish f 0 (addExact (unpack f x) (unpack f y)) else ((x + y) % 2 ^ f.width, [])

/-- TADD (R187). -/
def addTiles (d a b : Shape) (aB bB : List Byte) : Option TileOut :=
  let same := d.valid && a.valid && b.valid && a.rows == d.rows && b.rows == d.rows && a.cols == d.cols && b.cols == d.cols
    && a.code == d.code && b.code == d.code && [0, 1, 2, 4, 5, 6].contains d.code && !d.sp && !a.sp && !b.sp
    && (!d.ck || (a.ck && b.ck))
  if !same then none
  else
    let f := d.fmt
    let c := ((rawRows a aB).zip (rawRows b bB)).map fun (x, y) => (x.zip y).map fun (p, q) => addPattern f p q
    let side :=
      if d.ck then
        let ea := extOf a aB
        let eb := extOf b bB
        let add (x y : List Nat) : List Nat := (x.zip y).map fun (p, q) => (addPattern f p q).1
        extBytes (add ea.1 eb.1) (add ea.2 eb.2)
      else []
    some { tile := some (tileBytes (f.width / 8) (c.map fun r => r.map (·.1)) side)
           ev := if f.isFloat then c.flatMap fun r => r.flatMap fun e => engineOnly e.2 else [] }

/-- The pairs of formats of TCVT (R187). -/
def convertible (fa fd : Nat) : Bool :=
  let fl := [0, 1, 2, 3, 7]
  (fl.contains fa && fl.contains fd) || (fa == 6 && (fd == 5 || fd == 4)) || (fa == 5 && fd == 4)
    || ([4, 5, 6].contains fa && [0, 1, 2].contains fd)

/-- Packed BFX rows: the data bytes of a row, from its elements. -/
def packBfx (four : Bool) : List Nat → List Byte
  | a :: b :: l => if four then BitVec.ofNat 8 (a + 16 * b) :: packBfx four l
      else BitVec.ofNat 8 a :: BitVec.ofNat 8 b :: packBfx four l
  | [a] => [BitVec.ofNat 8 a]
  | [] => []

/-- TCVT (R187): `m` is the captured rounding mode. -/
def convertTile (d a : Shape) (aB : List Byte) (m : Nat) : Option TileOut :=
  if !(d.valid && a.valid && d.rows == a.rows && d.cols == a.cols && !d.sp && !a.sp && !d.ck && !a.ck
      && convertible a.code d.code) then none
  else if a.code = d.code then
    let n := a.dataBytes
    let full := fullTile aB
    let used := if a.bfx then 2 * (a.rows * a.cols / 32) else 0
    let ev : List (List Nat) :=
      if a.bfx then (valRows a aB).flatMap fun row => row.map fun v => (finish .f32 0 (match v with
        | .nan _ => (.nan, [0])
        | v => (v.exact, []))).2
      else if a.fmt.isFloat then (rawRows a aB).flatMap fun row => row.map fun b => (deliverSame a.fmt (unpack a.fmt b) b).2
      else []
    some { tile := some (full.take n ++ List.replicate (4096 - n) 0 ++ (full.drop 4096).take used
             ++ List.replicate (512 - used) 0)
           ev := ev.flatMap engineOnly }
  else if d.bfx then
    let four := d.code == 7
    let qs := (valRows a aB).map fun row => (pieces 32 (d.cols / 32) row).map fun b => quantise four b
    let data := qs.flatMap fun row => packBfx four (row.flatMap (·.1))
    let side := qs.flatMap fun row => row.flatMap fun q => [BitVec.ofNat 8 q.2.1, BitVec.ofNat 8 q.2.2.1]
    some { tile := some (data ++ List.replicate (4096 - data.length) 0 ++ side ++ List.replicate (512 - side.length) 0)
           ev := qs.flatMap fun row => row.flatMap fun q => q.2.2.2 }
  else
    let c := if a.bfx then (valRows a aB).map fun row => row.map fun v =>
        finish d.fmt m (match v with
          | .nan _ => (.nan, [0])
          | v => (v.exact, []))
      else (rawRows a aB).map fun row => row.map fun b => convert d.fmt a.fmt b 0 m
    some { tile := some (tileBytes (d.fmt.width / 8) (c.map fun r => r.map (·.1)) [])
           ev := if d.fmt.isFloat then c.flatMap fun r => r.flatMap fun e => engineOnly e.2 else [] }

/-- TTRN (R187). -/
def transposeTile (d a : Shape) (aB : List Byte) : Option TileOut :=
  if !(d.valid && a.valid && d.rows == a.cols && d.cols == a.rows && d.code == a.code && !a.bfx && !d.sp && !a.sp
      && !d.ck && !a.ck) then none
  else some { tile := some (tileBytes (d.fmt.width / 8) (columns 0 a.cols (rawRows a aB)) []) }

/-- TZERO (R179). -/
def zeroTile (d : Shape) : Option TileOut :=
  if !d.valid then none
  else
    let pairs := if d.bfx then d.rows * d.cols / 16 else 0
    let words := if d.sp then d.rows * (d.cols / 6) else 0
    some { tile := some (List.replicate (4096 + pairs) 0 ++ (List.replicate words [0x3F#8, 0#8]).flatten) }

/-- The row segment an index operand names (R188), or none. -/
def rowSegment (h : Shape) (i : W64) : Option (Nat × Nat) :=
  let r := bitsOf i.toNat 0 6
  let half := bitsOf i.toNat 6 1
  if !h.valid || decide (2 ^ 7 ≤ i.toNat) || decide (h.rows ≤ r) || (half == 1 && decide (h.rowBytes ≤ 128)) then none
  else some (r, half)

/-- TROW (R188). -/
def rowOut (a : Shape) (aB : List Byte) (i : W64) : Option TileOut :=
  (rowSegment a i).map fun (r, half) =>
    let row := ((fullTile aB).drop (r * a.rowBytes)).take a.rowBytes
    { reg := some (BitVec.ofNat 1024 (leValue ((row.drop (128 * half)).take 128))) }

/-- TINS (R188). -/
def rowIn (d : Shape) (dB : List Byte) (i : W64) (x : V1024) (m : W32) : Option TileOut :=
  (rowSegment d i).map fun (r, half) =>
    let base := r * d.rowBytes
    let src := leBytes x.toNat 128
    { tile := some (((fullTile dB).zip (List.range 4608)).map fun (b, k) =>
        let o := k - base - 128 * half
        if base + 128 * half ≤ k ∧ k < base + d.rowBytes ∧ o < 128 ∧ m.getLsbD (o / 4) then src.getD o 0 else b) }

/-- What an operation on tiles and registers delivers (R179 to R188); none raises TSHAPE. -/
def TileEntry.compute (e : TileEntry) (dB aB bB : List Byte) : Option TileOut :=
  let d := shapeOf e.shD
  let a := shapeOf e.shA
  let b := shapeOf e.shB
  match e.op with
  | .tzero => zeroTile d
  | .tmma => multiply false e.checked e.acc d a b dB aB bB
  | .tmmas => multiply true e.checked e.acc d a b dB aB bB
  | .tmmac => multiply false true e.acc d a b dB aB bB
  | .tckv => (checkTile a aB (e.l.toNat % 2 ^ 32)).map fun r =>
      { reg := some (BitVec.ofNat 1024 r.1), ev := if r.2 then [(10, 1)] else [] }
  | .tadd => addTiles d a b aB bB
  | .tcvt => convertTile d a aB e.rnd
  | .ttrn => transposeTile d a aB
  | .trow => rowOut a aB e.l
  | .tins => rowIn d dB e.r e.payload e.mask
  | .tld => if d.valid then some {} else none
  | .tst => if a.valid then some {} else none

/-- The duration D (R176), the memory groups of TLD and TST taken apart. -/
def TileEntry.duration (e : TileEntry) : Nat :=
  let d := shapeOf e.shD
  let a := shapeOf e.shA
  let up (x y : Nat) : Nat := (x + y - 1) / y
  match e.op with
  | .tzero => 8
  | .tld => 8 + up d.imageSize 32
  | .tst => 8 + up a.imageSize 32
  | .tmma | .tmmac => 8 + up (a.rows * d.cols * a.cols) (macRate a.code)
  | .tmmas => 8 + up (a.rows * d.cols * (2 * a.cols)) (2 * macRate a.code)
  | .trow | .tins => 9
  | _ => 8 + up (a.rows * a.cols) 64

end Sys2Proof.Machine
end

