-- ==== Sys2Proof/Machine/Engine.lean ====
section
/-!
DEFINITION. The tile instructions and the matrix engine (R70, R167 to R190): the release of an operation, the engine
FIFO, the begin and completion of operations, engine faults, and the words that TLD and TST move.
-/

namespace Sys2Proof.Machine

/-! ### Firing (R171, R177, R178) -/

/-- A tile instruction fires: PRIV for a tile it names and does not own, then its own check; its operation is released
at commit. -/
def State.fireTile (s : State) (pm : Pm) (tiles : List Nat) (check : State → Option Cause) (e : TileEntry) : State :=
  s.fireEff pm fun s =>
    match tiles.find? (fun t => !s.ownsTileIn s.cur.core s.cur.ctx t), check s with
    | some t, _ => .error { code := .priv, sub := t }
    | none, some k => .error k
    | none, none =>
      let v := s.slot.l.tok.vec
      .ok (.tile { e with l := s.slot.l.tok.scal, r := s.slot.r.tok.scal, payload := v.1, mask := v.2 })

/-- The check of TLD's and TST's address when they fire (R178). -/
def tileAddrCheck (s : State) : Option Cause :=
  let a := s.slot.l.tok.scal.toNat
  if 0x60000 ≤ a then some { code := .lbound, va := a }
  else if a % 32 ≠ 0 then some { code := .align, va := a }
  else none

/-- No check beyond ownership. -/
def noCheck (_ : State) : Option Cause := none

/-- TLD (R177, R178). -/
def execTld (pm : Pm) (td : BitVec 4) (s : State) : Outcome :=
  .next (s.fireTile pm [td.toNat] tileAddrCheck { op := .tld, td := td.toNat })
/-- TST (R177, R178). -/
def execTst (pm : Pm) (ta : BitVec 4) (s : State) : Outcome :=
  .next (s.fireTile pm [ta.toNat] tileAddrCheck { op := .tst, ta := ta.toNat })
/-- TZERO (R177, R179). -/
def execTzero (pm : Pm) (td : BitVec 4) (s : State) : Outcome :=
  .next (s.fireTile pm [td.toNat] noCheck { op := .tzero, td := td.toNat })
/-- TMMA (R177, R180, R181). -/
def execTmma (pm : Pm) (td ta tb : BitVec 4) (acc : BitVec 2) (s : State) : Outcome :=
  .next (s.fireTile pm [td.toNat, ta.toNat, tb.toNat] noCheck
    { op := .tmma, td := td.toNat, ta := ta.toNat, tb := tb.toNat, acc := acc.toNat })
/-- TMMAS (R177, R183). -/
def execTmmas (pm : Pm) (td ta tb : BitVec 4) (acc : BitVec 2) (s : State) : Outcome :=
  .next (s.fireTile pm [td.toNat, ta.toNat, tb.toNat] noCheck
    { op := .tmmas, td := td.toNat, ta := ta.toNat, tb := tb.toNat, acc := acc.toNat })
/-- TMMAC (R177, R184). -/
def execTmmac (pm : Pm) (td ta tb : BitVec 4) (acc : BitVec 2) (s : State) : Outcome :=
  .next (s.fireTile pm [td.toNat, ta.toNat, tb.toNat] noCheck
    { op := .tmmac, td := td.toNat, ta := ta.toNat, tb := tb.toNat, acc := acc.toNat })
/-- TCKV (R177, R186). -/
def execTckv (pm : Pm) (ta : BitVec 4) (g : BitVec 6) (s : State) : Outcome :=
  .next (s.fireTile pm [ta.toNat] noCheck { op := .tckv, ta := ta.toNat, reg := g.toNat })
/-- TADD (R177, R187). -/
def execTadd (pm : Pm) (td ta tb : BitVec 4) (s : State) : Outcome :=
  .next (s.fireTile pm [td.toNat, ta.toNat, tb.toNat] noCheck { op := .tadd, td := td.toNat, ta := ta.toNat, tb := tb.toNat })
/-- TCVT (R177, R187). -/
def execTcvt (pm : Pm) (td ta : BitVec 4) (s : State) : Outcome :=
  .next (s.fireTile pm [td.toNat, ta.toNat] noCheck { op := .tcvt, td := td.toNat, ta := ta.toNat })
/-- TTRN (R177, R187). -/
def execTtrn (pm : Pm) (td ta : BitVec 4) (s : State) : Outcome :=
  .next (s.fireTile pm [td.toNat, ta.toNat] noCheck { op := .ttrn, td := td.toNat, ta := ta.toNat })
/-- TROW (R177, R188). -/
def execTrow (pm : Pm) (ta v : BitVec 4) (s : State) : Outcome :=
  .next (s.fireTile pm [ta.toNat] noCheck { op := .trow, ta := ta.toNat, reg := v.toNat })
/-- TINS (R177, R188). -/
def execTins (pm : Pm) (td : BitVec 4) (s : State) : Outcome :=
  .next (s.fireTile pm [td.toNat] noCheck { op := .tins, td := td.toNat })

/-! ### The FIFO (R172 to R175) -/

/-- The operation writes a tile. -/
def TileOp.writesTile : TileOp → Bool
  | .tst | .tckv | .trow => false
  | _ => true

/-- A tile's state. -/
def Core.tileState (k : Core) (i : Nat) : RegState := (k.tiles.get {} i).st
/-- A tile with another state. -/
def Core.setTileState (k : Core) (i : Nat) (st : RegState) : Core :=
  { k with tiles := k.tiles.put i { (k.tiles.get {} i) with st := st } }

/-- A tile operation enters the FIFO in a commit rotation that begins at `c0` (R172): it captures the shapes and the
rounding mode of this point, its destination becomes EMPTY, and it may begin from c0 + 16. -/
def State.enqueueTile (s : State) (c x slot blk c0 : Nat) (e : TileEntry) : State :=
  let t := s.ctx c x
  let k := s.core c
  let red := t.pair && (match s.runOf c x with | some r => r.rc.red | none => false)
  let (id, s) := s.freshId
  let e := { e with id := id, shD := s.shapeNow c e.td, shA := s.shapeNow c e.ta, shB := s.shapeNow c e.tb
                    rnd := (s.cregNow c x 3).toNat % 4, ctx := x, pair := t.pair, rblk := blk, rslot := slot
                    checked := red && (e.op == TileOp.tmma || e.op == TileOp.tmmas)
                    badSrc := e.reads.find? fun i => k.tileState i == RegState.invalid }
  let s := s.modCore c fun k =>
    let k := if e.op.writesTile then k.setTileState e.td .empty else k
    { k with fifo := k.fifo ++ [e], fifoAt := k.fifoAt ++ [c0 + 16] }
  let s := match e.op with
    | .tckv => s.addProducer c x { id := id, file := .gr, reg := e.reg, kind := .tckv }
    | .trow => s.addProducer c x { id := id, file := .vr, reg := e.reg, kind := .trow }
    | _ => s
  s.sched (c0 + 16) (.tileOpBegin c)

/-- The destination of an operation that will not complete becomes INVALID (R174, R175). -/
def State.spoil (s : State) (c : Nat) (e : TileEntry) : State :=
  match e.op with
  | .tst => s
  | .tckv => s.endProducer c e.ctx .gr e.reg 0 false e.id
  | .trow => s.endProducer c e.ctx .vr e.reg 0 false e.id
  | _ => s.modCore c fun k => k.invalidateTile e.td

/-- The entries of one context leave the FIFO, from entry `from_` on, and their destinations become INVALID. -/
def State.purgeFifo (s : State) (c x from_ : Nat) : State :=
  let k := s.core c
  let es := k.fifo.zip k.fifoAt
  let drop := (es.drop from_).filter fun e => e.1.ctx == x
  let keep := es.take from_ ++ (es.drop from_).filter fun e => e.1.ctx != x
  drop.foldl (fun s e => s.spoil c e.1)
    (s.modCore c fun k => { k with fifo := keep.map (·.1), fifoAt := keep.map (·.2) })

/-- The head of the FIFO leaves it; the next operation may begin in this cycle. -/
def State.popFifo (s : State) (c : Nat) : State :=
  (s.modCore c fun k => { k with fifo := k.fifo.drop 1, fifoAt := k.fifoAt.drop 1, engine := none }).sched s.now (.tileOpBegin c)

/-- An engine fault of the operation at the head (R174): its destination and those of the context's later entries become
INVALID, and the context receives a deferred fault that names the tile. -/
def State.engineFault (s : State) (c : Nat) (e : TileEntry) (code : FaultCode) (tile : Nat) : State :=
  let s := ((s.spoil c e).purgeFifo c e.ctx 1).popFifo c
  s.postDeferred { core := c, ctx := e.ctx, cause := code, sub := tile, va := if code = .lbound then e.l.toNat else 0, rslot := e.rslot, rblk := e.rblk }

/-- The tile that a fault of an operation names: its destination, or its source. -/
def TileEntry.named (e : TileEntry) : Nat := if e.op.writesTile then e.td else e.ta

/-- The shape whose image TLD or TST moves. -/
def TileEntry.image (e : TileEntry) : Shape := if e.op = .tld then shapeOf e.shD else shapeOf e.shA

/-- What the engine finds when an operation begins: TSHAPE, then VUNDEF, then LBOUND (R173, R176, R178). DESIGN CHOICE (log entry 17): of a
TMMAS with a source that is or became INVALID, VUNDEF comes before its shape and metadata checks. -/
def Core.tileCheck (k : Core) (e : TileEntry) : Except (FaultCode × Nat) TileOut :=
  let b (i : Nat) : List Byte := (k.tiles.get {} i).bytes
  let bad := e.reads.filter fun i => k.tileState i == .invalid
  let undef := e.badSrc.isSome || !bad.isEmpty
  let which := (e.badSrc.or bad.head?).getD e.named
  match e.compute (b e.td) (b e.ta) (b e.tb) with
  | none => .error (if undef && e.op == .tmmas then (.vundef, which) else (.tshape, e.named))
  | some o =>
    if undef then .error (.vundef, which)
    else if (e.op == TileOp.tld || e.op == .tst) && decide (0x60000 < e.l.toNat + e.image.imageSize) then .error (.lbound, e.named)
    else .ok o

/-- TILE_OP_BEGIN (R173, R176, R189, R190): the head of the FIFO begins once the engine is free and the core is not
stopped; it reads its sources now, and ends after its duration. A TLD or TST then moves its groups. -/
def execTileOpBegin (s : State) : Outcome :=
  match s.ev with
  | .tileOpBegin c =>
    let k := s.core c
    match k.engine, k.fifo, k.fifoAt with
    | none, e :: _, t :: _ =>
      if s.now < t || s.stopped c then .next s
      else
        match k.tileCheck e with
        | .error (f, tile) => .next (s.engineFault c e f tile)
        | .ok _ =>
          let mem := e.op == .tld || e.op == .tst
          let b (i : Nat) : List Byte := (k.tiles.get {} i).bytes
          let run : EngineRun :=
            { start := s.now, ends := s.now + e.duration, groups := if mem then (e.image.imageSize + 31) / 32 else 0
              srcA := b e.ta, srcB := b e.tb, srcD := b e.td }
          let s := s.modCore c fun k => { k with engine := some run }
          .next (if mem then s else s.sched (s.now + e.duration) (.tileOpComplete c))
    | _, _, _ => .next s
  | _ => .next s

/-- The image that a TST stores: the data bytes, then the side area if the shape uses it (R178). -/
def imageBytes (h : Shape) (bs : List Byte) : List Byte :=
  (fullTile bs).take h.dataBytes ++ if h.usesSide then (fullTile bs).drop 4096 else []

/-- A byte of the side area that the shape uses: exponent pairs, sparsity metadata, checksum extension (R170). -/
def Shape.usesByte (h : Shape) (k : Nat) : Bool :=
  let x := if h.bfx then h.rows * h.cols / 16 else 0
  decide (k < x) || (h.sp && decide (k < x + 2 * (h.rows * (h.cols / 6))))
    || (h.ck && (decide (k < 4 * h.rows) || (decide (256 ≤ k) && decide (k < 256 + 4 * h.cols))))

/-- The tile that a loaded image makes: zero beyond the data and where the shape uses no side byte (R167, R178). -/
def tileOfImage (h : Shape) (img : List Byte) : List Byte :=
  let side := img.drop h.dataBytes
  img.take h.dataBytes ++ List.replicate (4096 - h.dataBytes) 0
    ++ (side.zip (List.range side.length)).map fun (b, k) => if h.usesByte k then b else 0

/-- Bytes of delayed commit writes that the engine or the copy engine has overwritten since the banks took them
(R178, R195): a write whose bank cycle is still to come stays. -/
def Core.overwriteDelayed (k : Core) (a n : Nat) : Core :=
  let pending (w : Nat) : Bool := k.banks.any fun b => b.pri == 0 && b.words.contains w
  { k with delayed := k.delayed.map fun e => match e.2 with
      | .cells cs => (e.1, .cells (cs.filter fun x => !(decide (a ≤ x.1) && decide (x.1 < a + n)) || pending (x.1 / 8)))
      | _ => e }

/-- A write of local memory by an engine. -/
def Core.engineWrite (k : Core) (a : Nat) (bs : List Byte) : Core := (k.overwriteDelayed a bs.length).writeLocal a bs

/-- The engine moves its next group in this cycle unless a bank it needs is taken (R178): `busy` lists the banks that
commit writes and core accesses hold. Answers the banks it takes itself. -/
def State.engineCycle (s : State) (c : Nat) (busy : List Nat) : State × List Nat :=
  let k := s.core c
  match k.engine, k.fifo with
  | some r, e :: _ =>
    if r.groups ≤ r.group || decide (s.now < r.start + 8) then (s, [])
    else
      let a := e.l.toNat + 32 * r.group
      let h := e.image
      let n := min 32 (h.imageSize - 32 * r.group)
      let banks := (List.range 4).map fun i => (a / 8 + i) % 192
      if banks.any busy.contains then (s, [])
      else
        let s := if e.op = .tld then
            s.modCore c fun k => { k with engine := some { r with group := r.group + 1, ends := s.now + 1, srcD := (if r.group = 0 then [] else r.srcD) ++ k.readLocal a n } }
          else
            s.modCore c fun k =>
              { k.engineWrite a (((imageBytes h r.srcA).drop (32 * r.group)).take n) with engine := some { r with group := r.group + 1, ends := s.now + 1 } }
        (if r.group + 1 = r.groups then s.sched (s.now + 1) (.tileOpComplete c) else s, banks)
  | _, _ => (s, [])

/-- The soft error of seinj applied to a tile that an operation completes into (R99); of seinj only arm is cleared (log entry 73). -/
def Core.inject (k : Core) (e : TileEntry) (bs : List Byte) : Core × List Byte :=
  let v := k.seinj.toNat
  let hit := match e.op with
    | .tmma | .tmmas | .tmmac | .tadd | .tcvt => bitOf v 0 && bitsOf v 1 4 == e.td
    | _ => false
  if hit then
    ({ k with seinj := k.seinj &&& ~~~ 1 }, (fullTile bs).modify (bitsOf v 5 12) fun b => b ^^^ BitVec.ofNat 8 (2 ^ bitsOf v 17 3))
  else (k, bs)

/-- TILE_OP_COMPLETE (R140, R173, R182, R186): the operation at the head ends; its destination becomes FULL and its
counters are added. -/
def execTileOpComplete (s : State) : Outcome :=
  match s.ev with
  | .tileOpComplete c =>
    let k := s.core c
    match k.engine, k.fifo with
    | some r, e :: _ =>
      if r.ends ≠ s.now ∨ r.group ≠ r.groups then .next s
      else
        let s := match e.op with
          | .tst => s
          | .tld => s.modCore c fun k => { k with tiles := k.tiles.put e.td ⟨.full, tileOfImage e.image r.srcD⟩ }
          | _ =>
            match e.compute r.srcD r.srcA r.srcB with
            | none => s
            | some o =>
              let s := s.countEx c o.ev
              match o.tile, o.reg with
              | some bs, _ =>
                s.modCore c fun k =>
                  let (k, bs) := k.inject e bs
                  { k with tiles := k.tiles.put e.td ⟨.full, bs⟩ }
              | none, some v => s.sched s.now (.producerCompletion c e.ctx (match e.op with | .tckv => .gr | _ => .vr) e.reg v true e.id)
              | none, none => s
        .next (s.popFifo c)
    | _, _ => .next s
  | _ => .next s

/-- The tiles of a context that exits or is killed (R175): its fields of tom are cleared, its entries leave the FIFO, and
an operation of it that executes is abandoned. -/
def State.dropTiles (s : State) (c x : Nat) : State :=
  let k := s.core c
  let s := if x = 0 then s else s.clearTom c x
  match k.engine, k.fifo with
  | some _, e :: _ =>
    if e.ctx = x then
      ((s.spoil c e).purgeFifo c x 1).popFifo c
    else s.purgeFifo c x 1
  | _, _ => s.purgeFifo c x 0

end Sys2Proof.Machine
end

