-- ==== Sys2Proof/Machine/Copy.lean ====
section
/-!
DEFINITION. The copy engine (R252 to R259, R302, R303): CPY and CPYW, the descriptor and its checks, the sequence of
elements and runs, reads, writes and format windows, and the completion of a command.
-/

namespace Sys2Proof.Machine

/-- CPY (R252): the descriptor is read when the command is released. -/
def execCpy (pm : Pm) (g : BitVec 6) (s : State) : Outcome := .next (s.fireEff pm fun _ => .ok (.copy false g.toNat))
/-- CPYW (R252). -/
def execCpyw (pm : Pm) (g : BitVec 6) (s : State) : Outcome := .next (s.fireEff pm fun _ => .ok (.copy true g.toNat))

/-! ### The descriptor (R253, R254) -/

/-- A word of the descriptor. -/
def CopyCmd.word (m : CopyCmd) (i : Nat) : Nat := (m.ox.getD i {}).val.toNat
/-- cmode. -/
def CopyCmd.cmode (m : CopyCmd) : Nat := bitsOf (m.word 2) 56 2
/-- esz. -/
def CopyCmd.esz (m : CopyCmd) : Nat := bitsOf (m.word 2) 48 3
/-- The size of an element in bytes. -/
def CopyCmd.size (m : CopyCmd) : Nat := 2 ^ m.esz
/-- swap. -/
def CopyCmd.swap (m : CopyCmd) : Bool := bitOf (m.word 2) 51
/-- Source extent 0, 1 or 2. -/
def CopyCmd.sx (m : CopyCmd) (i : Nat) : Nat := bitsOf (m.word 2) (16 * i) 16
/-- Destination extent. -/
def CopyCmd.dx (m : CopyCmd) (i : Nat) : Nat := bitsOf (m.word 3) (16 * i) 16
/-- Source stride. -/
def CopyCmd.ss (m : CopyCmd) (i : Nat) : Int :=
  if i = 0 then signedOf (m.word 5) 32 else if i = 1 then signedOf (m.word 4) 32 else signedOf (m.word 4 / 2 ^ 32) 32
/-- Destination stride. -/
def CopyCmd.ds (m : CopyCmd) (i : Nat) : Int :=
  if i = 0 then signedOf (m.word 5 / 2 ^ 32) 32 else if i = 1 then signedOf (m.word 6) 32 else signedOf (m.word 6 / 2 ^ 32) 32
/-- N (R254). -/
def CopyCmd.count (m : CopyCmd) : Nat := m.sx 0 * m.sx 1 * m.sx 2
/-- The byte count. -/
def CopyCmd.bytes (m : CopyCmd) : Nat := m.count * m.size

/-- src[k] (R254). -/
def CopyCmd.src (m : CopyCmd) (k : Nat) : Nat :=
  let i0 := k % m.sx 0
  let i1 := k / m.sx 0 % m.sx 1
  let i2 := k / (m.sx 0 * m.sx 1)
  wrapU ((m.word 0 : Int) + i2 * m.ss 2 + i1 * m.ss 1 + i0 * m.ss 0) 64

/-- dst[k] (R254). -/
def CopyCmd.dst (m : CopyCmd) (k : Nat) : Nat :=
  if m.swap then
    let i0 := k % m.sx 0
    let i1 := k / m.sx 0 % m.sx 1
    let i2 := k / (m.sx 0 * m.sx 1)
    wrapU ((m.word 1 : Int) + i2 * m.ds 2 + i0 * m.ds 1 + i1 * m.ds 0) 64
  else
    let j0 := k % m.dx 0
    let j1 := k / m.dx 0 % m.dx 1
    let j2 := k / (m.dx 0 * m.dx 1)
    wrapU ((m.word 1 : Int) + j2 * m.ds 2 + j1 * m.ds 1 + j0 * m.ds 0) 64

/-- The number of elements of the run that begins with element `k` (R254), with the fuel of the elements that may still
follow. -/
def CopyCmd.runFrom (m : CopyCmd) : Nat → Nat → Nat
  | 0, _ => 1
  | fuel + 1, k =>
    let s0 := m.src k
    let d0 := m.dst k
    let s1 := m.src (k + 1)
    let d1 := m.dst (k + 1)
    if k + 1 < m.count ∧ s1 = s0 + m.size ∧ d1 = d0 + m.size ∧ s1 / 32 = s0 / 32 ∧ d1 / 32 = d0 / 32 then
      1 + m.runFrom fuel (k + 1)
    else 1

/-- The descriptor's own fields are in range, and the extents agree (R253, R254, R258). -/
def CopyCmd.shapeOk (m : CopyCmd) : Bool :=
  bitsOf (m.word 2) 58 6 == 0 && bitsOf (m.word 3) 48 16 == 0 && decide (m.esz < 6) && m.cmode != 3
    && (m.windowed || bitsOf (m.word 2) 52 4 == 0)
    && (if m.swap then m.dx 0 == m.sx 1 && m.dx 1 == m.sx 0 && m.dx 2 == m.sx 2 else m.dx 0 * m.dx 1 * m.dx 2 == m.count)

/-! ### Translation for a command -/

/-- What the checks of a command know of an address (R204): its leaf, that it has none, or nothing before a walk. -/
def State.copyPage (s : State) (c : Nat) (m : CopyCmd) (va : Nat) : Option (Option Leaf) :=
  if va < 0x100000 ∨ 2 ^ 48 ≤ va then some none
  else match m.pages.lookup (va / 65536) with
  | some l => some l
  | none => (s.leaf? c m.asid m.gen va).map some

/-- The leaf that the checks of a command have found for an address. -/
def State.copyLeaf (s : State) (c : Nat) (m : CopyCmd) (va : Nat) : Option Leaf := (s.copyPage c m va).join

/-- The first of some addresses that the checks of a command must walk for. -/
def State.unknown (s : State) (c : Nat) (m : CopyCmd) (vas : List Nat) : Option Nat := vas.find? fun va => (s.copyPage c m va).isNone

/-- Format window `w` of package `p`, the package that holds the alias (R256). -/
def State.copyWin (s : State) (p w : Nat) : Window := (s.pkg p).windows.get {} w

/-- The alias offset of an address in a window (R303), if its page is an alias page and lies in the range. -/
def Window.offset? (w : Window) (l : Leaf) (va : Nat) : Option Nat :=
  let pa := l.pa va
  let lo := w.abase * 65536
  if w.v && l.isAlias && decide (lo ≤ pa) && decide (pa < lo + 64 * w.nblk) then some (pa - lo) else none

/-- The alias offset of an address of a command. -/
def State.aliasAt (s : State) (c : Nat) (m : CopyCmd) (w va : Nat) : Option Nat :=
  (s.copyLeaf c m va).bind fun l => (s.copyWin (paPkg (l.pa va)) w).offset? l va

/-- The package that holds the page of an address of a command. -/
def State.aliasPkg (s : State) (c : Nat) (m : CopyCmd) (va : Nat) : Nat :=
  match s.copyLeaf c m va with
  | some l => paPkg (l.pa va)
  | none => pkgOf c

/-- The window index of a command. -/
def CopyCmd.win (m : CopyCmd) : Nat := bitsOf (m.word 2) 52 4

/-- The addresses at which the groups of 32 elements begin on one side. -/
def CopyCmd.groups (m : CopyCmd) (at_ : Nat → Nat) : List Nat := (List.range (m.count / 32)).map fun j => at_ (32 * j)

/-- Every group of 32 elements lies in two runs (R256). -/
def CopyCmd.twoRuns (m : CopyCmd) : Bool :=
  (List.range (m.count / 32)).all fun j => m.runFrom 31 (32 * j) == 16 && m.runFrom 31 (32 * j + 16) == 16

/-- The rules of R256 for the side that lies in the alias range: element size, innermost stride `s0` and extent `x0`, and groups that begin
at `vas`. -/
def State.aliasSide (s : State) (c : Nat) (m : CopyCmd) (x0 : Nat) (s0 : Int) (vas : List Nat) : Bool :=
  m.size == 2 && s0 == 2 && x0 % 32 == 0 && m.twoRuns && vas.all fun va => match s.aliasAt c m m.win va with
    | some o => o % 64 == 0
    | none => false

/-- The blocks that a write through a window covers are whole pairs, from an even one on (R256; log entry 59). -/
def pairsWhole : List Nat → Bool
  | [] => true
  | b :: bs => b % 2 == 0 && (bs.length + 1) % 2 == 0
      && (b :: bs).all fun a => (b :: bs).contains (if a % 2 = 0 then a + 1 else a - 1)

/-- The sides of a command that lie in a window, or none where R256 raises TSHAPE; the address of a translation that is missing comes
first. -/
def State.windowSides (s : State) (c : Nat) (m : CopyCmd) : Except Nat (Option (Bool × Bool)) :=
  if !m.windowed then .ok (some (false, false))
  else match s.unknown c m [m.word 0, m.word 1] with
  | some va => .error va
  | none =>
    match s.aliasAt c m m.win (m.word 0), s.aliasAt c m m.win (m.word 1) with
    | some _, none =>
      let vas := m.groups m.src
      match s.unknown c m vas with
      | some va => .error va
      | none => .ok (if s.aliasSide c m (m.sx 0) (m.ss 0) vas then some (true, false) else none)
    | none, some _ =>
      let vas := m.groups m.dst
      match s.unknown c m vas with
      | some va => .error va
      | none =>
        let blocks := vas.map fun va => (s.aliasAt c m m.win va).getD 0 / 64
        let pairs := !(s.copyWin (s.aliasPkg c m (m.word 1)) m.win).sfill || pairsWhole blocks
        .ok (if s.aliasSide c m (m.dx 0) (m.ds 0) vas && pairs then some (false, true) else none)
    | _, _ => .ok none

/-- The value a completion join carries (R253). -/
def CopyCmd.joinVal (m : CopyCmd) : Nat := if m.cmode = 1 then m.bytes else 1

/-- The checks of the completion location, in the order of R255. -/
def State.checkCloc (s : State) (c : Nat) (m : CopyCmd) : Option Cause :=
  let a := m.word 7
  let f (k : FaultCode) : Option Cause := some { code := k, va := a }
  if m.cmode = 0 then none
  else if 0x60000 ≤ a ∧ a < 0x100000 then f .lbound
  else if a < 0x60000 then f .prot
  else if 2 ^ 48 ≤ a then f .xlat
  else match s.copyLeaf c m a with
  | none => f .xlat
  | some l =>
    if l.isAlias || l.cls != .lat || !l.wr then f .prot
    else if l.lat.ty != .cnt || !l.lat.fits (BitVec.ofNat 64 m.joinVal) then f .ltype
    else if a % 2 ^ l.lat.width ≠ 0 then f .align
    else none

/-- What the release of a command finds (R252, R255, R256, R258): VUNDEF of a descriptor register, TSHAPE, then the
completion location; or the address of a translation it has to walk for (R204). DESIGN CHOICE (log entry 24): the record of a TSHAPE by a window
names word 1, that of another 0. -/
def State.checkCopy (s : State) (c : Nat) (m : CopyCmd) : Except Nat (Option Cause) :=
  let read := (List.range 7) ++ if m.cmode = 0 then [] else [7]
  match read.find? fun i => (m.ox.getD i {}).st != .full with
  | some i => .ok (some (vundef .ox i (m.ox.getD i {}).st))
  | none =>
    if !m.shapeOk then .ok (some { code := .tshape })
    else match s.windowSides c m with
    | .error va => .error va
    | .ok none => .ok (some { code := .tshape, va := if m.windowed then m.word 1 else 0 })
    | .ok (some _) =>
      match if m.cmode = 0 then none else s.unknown c m [m.word 7] with
      | some va => .error va
      | none => .ok (s.checkCloc c m)

/-! ### Faults and completion -/

/-- A fault of a command reaches its thread (R242, R258), or the trap queue if the thread has left. -/
def State.postCopy (s : State) (c : Nat) (m : CopyCmd) (k : Cause) (cmb : Bool) : State :=
  let r : TrapRec := { core := c, ctx := m.ctx, pair := m.pair, dfr := true, cmb := cmb, emp := k.emp, file := k.file, sub := k.sub
                       cause := k.code, gtid := m.gtid, va := k.va, rblk := m.rblk, rslot := m.rslot, tb := s.tbase (pkgOf c) }
  if (s.ctx c m.ctx).gtid = m.gtid then s.postDeferred r else s.queueRecord c r

/-- The destination register of a command becomes FULL with a value, or INVALID. -/
def State.endCopyReg (s : State) (c : Nat) (m : CopyCmd) (v : Nat) (ok : Bool) : State :=
  if m.g = 0 then s else s.endProducer c m.ctx .gr m.g (BitVec.ofNat 1024 v) ok m.id

/-- A command ends in a fault (R258): its register is INVALID, the context's later commands go with theirs, and the next
command may begin in the next cycle. DESIGN CHOICE (log entry 24): later ones that have begun go too, and runs that are read but not written are
dropped. Faults that answer its writes later are further deferred faults (R242). -/
def State.copyFault (s : State) (c : Nat) (m : CopyCmd) (k : Cause) (cmb : Bool := false) : State :=
  let q := s.core c
  let later := q.copyq.filter fun n => n.ctx == m.ctx && decide (m.id < n.id)
  let begun := q.copying.filter fun r => r.cmd.ctx == m.ctx && decide (m.id < r.cmd.id)
  let s := s.modCore c fun q =>
    { q with copyq := q.copyq.filter fun n => n.id != m.id && !later.any (·.id == n.id)
             copying := q.copying.filter fun r => r.cmd.id != m.id && !begun.any (·.cmd.id == r.cmd.id)
             copyEnded := q.copyEnded ++ ((q.copying.filter fun r => r.cmd.id == m.id) ++ begun).filterMap fun r =>
               if r.outw = 0 then none else some (r.cmd, r.outw) }
  let s := (m :: later ++ begun.map (·.cmd)).foldl (fun s n => s.endCopyReg c n 0 false) s
  (s.postCopy c m k cmb).sched (s.now + 1) (.copyCommandBegin c)

/-- The command in progress with a number. -/
def Core.copyRun? (k : Core) (id : Nat) : Option CopyRun := k.copying.find? fun r => r.cmd.id == id
/-- Changes the command in progress with a number. -/
def State.modCopy (s : State) (c id : Nat) (f : CopyRun → CopyRun) : State :=
  s.modCore c fun k => { k with copying := k.copying.map fun r => if r.cmd.id = id then f r else r }

/-- Changes a command that waits. -/
def State.modCmd (s : State) (c id : Nat) (f : CopyCmd → CopyCmd) : State :=
  s.modCore c fun k => { k with copyq := k.copyq.map fun m => if m.id = id then f m else m }

/-- The addresses that the checks of a command look up, its source or its destination being in the alias range (R255, R256). -/
def CopyCmd.lookups (m : CopyCmd) (sides : Bool × Bool) : List Nat :=
  (if m.windowed then [m.word 0, m.word 1] else []) ++ (if sides.1 then m.groups m.src else if sides.2 then m.groups m.dst else [])
    ++ if m.cmode = 0 then [] else [m.word 7]

/-- The translations of some addresses of a command become the most recently used ones (R204). -/
def State.touchAll (s : State) (c : Nat) (m : CopyCmd) (vas : List Nat) : State :=
  vas.foldl (fun s va => if va < 0x100000 ∨ 2 ^ 48 ≤ va then s else s.touchTlb c m.asid m.gen va) s

/-- A received command makes its checks (R258), or goes on with them; it keeps the sides that lie in the alias range. -/
def State.checkCommand (s : State) (c : Nat) (m : CopyCmd) : State :=
  match s.checkCopy c m with
  | .error va => (s.modCmd c m.id fun n => { n with walking := true }).startWalk c 16 (2 * m.id) m.asid m.gen va none
  | .ok (some k) => s.copyFault c m k
  | .ok none =>
    let sides := match s.windowSides c m with
      | .ok (some b) => b
      | _ => (false, false)
    (s.touchAll c m (m.lookups sides)).modCmd c m.id fun n =>
      { n with checked := true, cleaf := s.copyLeaf c m (m.word 7), srcAlias := sides.1, dstAlias := sides.2
               wpkg := s.aliasPkg c m (m.word (if sides.2 then 1 else 0)) }

/-- COPY_COMMAND_BEGIN (R257, R258): the commands received are checked; the oldest begins if no command reads
and the core is not stopped. A command with N = 0 moves nothing. -/
def execCopyCommandBegin (s : State) : Outcome :=
  match s.ev with
  | .copyCommandBegin c =>
    let fresh := (s.core c).copyq.filter fun m => decide (m.ready ≤ s.now) && !m.checked && !m.walking
    let s := fresh.foldl (fun s m => if (s.core c).copyq.any (·.id == m.id) then s.checkCommand c m else s) s
    let k := s.core c
    match k.copyq with
    | [] => .next s
    | m :: rest =>
      if k.copying.any (fun r => !r.readDone) || !m.checked || s.stopped c || decide (s.now < k.copyNext) then .next s
      else
        let r : CopyRun := { cmd := m, readDone := m.count == 0 }
        let s := s.modCore c fun k =>
          { k with copyq := rest, copying := k.copying ++ [r], copyNext := if m.count = 0 then s.now + 1 else k.copyNext }
        .next (if m.count = 0 then (s.sched s.now (.copyCommandComplete c)).sched (s.now + 1) (.copyCommandBegin c)
          else s.sched s.now (.copyRun c))
  | _ => .next s

/-- A command has read and written all it is to move. -/
def CopyRun.moved (r : CopyRun) : Bool := r.readDone && r.pend.isEmpty && r.localW.isEmpty && r.outw == 0 && r.elems.isEmpty

/-- COPY_COMMAND_COMPLETE (R140, R257): a command whose writes are all done sends its completion join; when that is
accepted, or without one at once, gN becomes FULL with the byte count and the conversions' events are counted. -/
def execCopyCommandComplete (s : State) : Outcome :=
  match s.ev with
  | .copyCommandComplete c =>
    .next ((s.core c).copying.foldl (fun s r =>
      let m := r.cmd
      if !r.moved then s
      else if m.cmode != 0 && !r.joinSent then
        match m.cleaf with
        | none => s.copyFault c m { code := .xlat, va := m.word 7 }
        | some l =>
          let (id, s) := s.freshId
          let q : Req := { kind := .join, pa := l.pa (m.word 7), va := m.word 7, lat := l.lat, val := m.joinVal, asid := m.asid
                           gen := m.gen, lid := m.lid, who := [⟨c, m.ctx, id, m.word 7, m.rblk, m.rslot, some m.id⟩] }
          (s.modCopy c m.id fun r => { r with joinSent := true, outw := 1 }).releaseReq (s.now + 1) c q
      else
        ((s.modCore c fun k => { k with copying := k.copying.filter fun q => q.cmd.id != m.id }).countEx c r.ev).endCopyReg c m
          m.bytes true) s)
  | _ => .next s

/-- One write less of a command that has ended is to be answered. -/
def Core.endedWrite (k : Core) (id : Nat) : Core :=
  { k with copyEnded := k.copyEnded.filterMap fun e =>
      if e.1.id ≠ id then some e else if e.2 ≤ 1 then none else some (e.1, e.2 - 1) }

/-- A write or the completion join of a command is accepted (R257). -/
def State.copyAccepted (s : State) (c id : Nat) : State :=
  match (s.core c).copyRun? id with
  | some _ => (s.modCopy c id fun r => { r with outw := r.outw - 1 }).sched s.now (.copyCommandComplete c)
  | none => s.modCore c fun k => k.endedWrite id

/-- A write of a command is answered by a fault (R242, R258): the command ends in it, or it is a further fault of one that has ended. -/
def State.copyRefused (s : State) (c id : Nat) (k : Cause) (cmb : Bool) : State :=
  match (s.core c).copyRun? id with
  | some r => (s.modCopy c id fun r => { r with outw := r.outw - 1 }).copyFault c r.cmd k cmb
  | none =>
    match (s.core c).copyEnded.find? fun e => e.1.id == id with
    | some e => (s.modCore c fun q => q.endedWrite id).postCopy c e.1 k cmb
    | none => s

/-! ### Runs (R254 to R258) -/

/-- What the page check of one side of a run comes to. -/
inductive Side where
  | local
  | page (l : Leaf)
  | walk
  | wait
  | fault (k : FaultCode)
deriving DecidableEq, Repr, Inhabited

/-- The launch that a command belongs to, if its package runs it: of the head context, that of its core. -/
def State.copyLaunch (s : State) (c : Nat) (m : CopyCmd) : Option Run :=
  (if m.ctx = 0 then (s.core c).lid else some m.lid).bind fun l => (s.pkg (pkgOf c)).runAt? l c

/-- The entry of its window that a command's next run sees (R303): that of the block's earlier runs; that of the block which shares a FILL
unit of scales with it, if the command has taken it; else the entry as it stands. -/
def State.runWin (s : State) (c : Nat) (r : CopyRun) : Window :=
  let m := r.cmd
  let now := s.copyWin m.wpkg m.win
  match r.bwin with
  | some (b, w) => if b = r.k / 32 then w else later m now
  | none => later m now
where
  /-- A later block than the last one that was taken. -/
  later (m : CopyCmd) (now : Window) : Window :=
    let d := m.dst r.k
    match if m.dstAlias then s.leaf? c m.asid m.gen d else none with
    | some l => (r.partners.findSome? fun e => if (e.2.offset? l d).map (· / 64) = some e.1 then some e.2 else none).getD now
    | none => now

/-- The side of a run of `n` bytes at `a` (R255). -/
def State.copySide (s : State) (c : Nat) (r : CopyRun) (a n : Nat) (dst : Bool) : Side :=
  let m := r.cmd
  if a < 0x60000 then (if 0x60000 < a + n then .fault .lbound else .local)
  else if a < 0x100000 then .fault .lbound
  else if 2 ^ 48 ≤ a then .fault .xlat
  else match s.leaf? c m.asid m.gen a with
  | none => if r.noMap.contains a then .fault .xlat else .walk
  | some l =>
    let thru := if dst then m.dstAlias else m.srcAlias
    if thru then
      (if dst && !l.wr then .fault .prot else if ((s.runWin c r).offset? l a).isSome then .page l else .fault .tshape)
    else if l.isAlias then .fault .prot
    else if dst && !l.wr then .fault .prot
    else match l.cls with
    | .sched => .fault .prot
    | .priv =>
      if l.owner ≠ c then .fault .prot
      else if !dst && (s.core c).psb.any (fun e => frameKey e.pa == frameKey (l.pa a)) then .wait
      else .page l
    | .code => .page l
    | .hostm => if (match s.copyLaunch c m with | some q => q.rc.strict | none => false) then .fault .escape else .page l
    | .lat =>
      if dst then (if l.lat.ty != .fill then .fault .prot else if a % 4 ≠ 0 ∨ n % 4 ≠ 0 then .fault .align else .page l)
      else if l.lat.ty != .fill && l.lat.width != m.esz then .fault .ltype
      else .page l

/-- A request of a command. -/
def CopyCmd.req (m : CopyCmd) (c id : Nat) (kind : ReqKind) (pa va : Nat) : Req :=
  { kind := kind, pa := pa, va := va, asid := m.asid, gen := m.gen, lid := m.lid
    who := [⟨c, m.ctx, id, va, m.rblk, m.rslot, none⟩], rblk := m.rblk, rslot := m.rslot }

/-- Reads of `n` bytes at a physical address for part `part` of a run, exactly if the frame holds FILL tiles. -/
def State.copyRead (s : State) (c : Nat) (m : CopyCmd) (run part : Nat) (kind : ReqKind) (lat : LatAttr) (code : Bool)
    (home pa va n : Nat) : State :=
  let (id, s) := s.freshId
  let q : Req := { m.req c id kind pa va with lat := lat, code := code, n := n, bytes := List.replicate n (some 0)
                                              ret := .copyRead m.id (2 * run + part) }
  s.sendCounted (s.now + 2) c (.req home q)

/-- The attributes of the frame that a physical address lies in, as a window's FILL writes and reads carry them. -/
def State.frameAttr (s : State) (pa : Nat) : LatAttr := (s.frame pa).lat.getD { ty := .fill }

/-- Reads a run of half a block through a format window (R256, R303): its packed bytes, and its block's scale pair. -/
def State.readAlias (s : State) (c : Nat) (r : CopyRun) (w : Window) (off n : Nat) : State :=
  let b := off / 64
  let e := off % 64 / 2
  let pa := if w.bfx4 then w.pbase + 16 * b + e / 2 else w.pbase + 32 * b + e
  let sp := w.sbase + 2 * b
  let rd (s : State) (part : Nat) (fill : Bool) (pa n : Nat) : State :=
    s.copyRead c r.cmd r.run part (if fill then .exact else .read) (if fill then s.frameAttr pa else {}) false (homeOf pa) pa pa n
  rd (rd s 0 w.pfill pa (if w.bfx4 then n / 4 else n / 2)) 1 w.sfill sp 2

/-- A command takes a run, the last of them if `last`, under an entry of its window. -/
def CopyRun.take (r : CopyRun) (p : CopyPend) (last : Bool) (w : Window) : CopyRun :=
  { r with k := r.k + p.len, run := r.run + 1, readDone := last, pend := r.pend ++ [p], bwin := some (r.k / 32, w) }

/-- A command begins on window block `b` of an entry whose scales are on FILL frames (R256): the block that shares its unit is to see the
same entry. -/
def CopyRun.pairUp (r : CopyRun) (w : Window) (b : Nat) : CopyRun :=
  let mate := if b % 2 = 0 then b + 1 else b - 1
  if !(r.cmd.dstAlias && w.sfill) || r.bwin.map (·.1) == some (r.k / 32) then r
  else if r.partners.contains (b, w) then { r with partners := r.partners.erase (b, w) }
  else { r with partners := r.partners ++ [(mate, w)] }

/-- COPY_RUN (R254, R255, R257, R258): the engine reads the next run of the command it works on, unless it must wait for a
bank, a translation or the store buffer; a failed check faults the command, the alignment of both elements before any page (log
entry 24). -/
def execCopyRun (s : State) : Outcome :=
  match s.ev with
  | .copyRun c =>
    let k := s.core c
    match k.copying.find? fun r => !r.readDone with
    | none => .next s
    | some r =>
      let m := r.cmd
      if r.walking || decide (s.now < k.copyNext) then .next s
      else
        let len := m.runFrom 31 r.k
        let n := len * m.size
        let a := m.src r.k
        let d := m.dst r.k
        let again (s : State) : State := s.sched (s.now + 1) (.copyRun c)
        let walk (va : Nat) : State := (s.modCopy c m.id fun r => { r with walking := true }).startWalk c 16 (2 * m.id + 1) m.asid m.gen va none
        if a % m.size ≠ 0 then .next (s.copyFault c m { code := .align, va := a })
        else if d % m.size ≠ 0 then .next (s.copyFault c m { code := .align, va := d })
        else match s.copySide c r a n false, s.copySide c r d n true with
        | .fault f, _ => .next (s.copyFault c m { code := f, va := a })
        | .walk, _ => .next (walk a)
        | .wait, _ => .next (again s)
        | _, .fault f => .next (s.copyFault c m { code := f, va := d })
        | _, .walk => .next (walk d)
        | _, .wait => .next (again s)
        | src, dst =>
          let host (x : Side) : Bool := match x with
            | .page l => l.cls == .hostm && !l.isAlias
            | _ => false
          let s := match if host src || host dst then s.copyLaunch c m else none with
            | some q => s.escape (pkgOf c) q.rc.lid
            | none => s
          let banks := (wordsOf ((List.range n).map (a + ·))).map (· % 192)
          let held := heldBanks s.now k.banks
          let engine := match k.engine, k.fifo with
            | some e, f :: _ =>
              if e.group < e.groups ∧ e.start + 8 ≤ s.now then (List.range 4).map fun i => ((f.l.toNat + 32 * e.group) / 8 + i) % 192
              else []
            | _, _ => []
          if src == .local && banks.any fun b => held.contains b || engine.contains b then .next (again s)
          else
            let w := s.runWin c r
            let offset (x : Side) (va : Nat) : Nat := match x with
              | .page l => (w.offset? l va).getD 0
              | _ => 0
            let p : CopyPend :=
              { run := r.run, k := r.k, len := len, dst := d, parts := if m.srcAlias then 2 else 1, win := w
                leaf := match dst with
                  | .page l => some l
                  | _ => none
                off := if m.dstAlias then offset dst d else 0 }
            let last := decide (m.count ≤ r.k + len)
            let s := ((s.touchAll c m [a, d]).modCore c fun k => { k with copyNext := s.now + 1 }).modCopy c m.id fun r =>
              (r.pairUp w (p.off / 64)).take p last w
            let s := match src with
              | .local => (s.modCore c fun k => { k with copyBanks := banks }).sched s.now
                  (.loadResult c 16 m.id 0 (2 * r.run) (k.readLocal a n) none)
              | .page l =>
                if m.srcAlias then s.readAlias c r w (offset src a) n
                else if l.cls == .lat then s.copyRead c m r.run 0 .exact l.lat false (homeOf (l.pa a)) (l.pa a) a n
                else s.copyRead c m r.run 0 .read {} (l.cls == .code) (if l.cls == .hostm then hostHome l.owner else homeOf (l.pa a))
                  (l.pa a) a n
              | _ => s
            .next (if last then s.sched (s.now + 1) (.copyCommandBegin c) else again s)
  | _ => .next s

/-! ### Writes -/

/-- Two ranges of bytes, each its first byte and its length, overlap. -/
def overlap (a b : Nat × Nat) : Bool := decide (a.1 < b.1 + b.2) && decide (b.1 < a.1 + a.2)

/-- The cycle in which a command's write enters the router: `e`, or the cycle after an earlier one of the same bytes (R254: the higher
element remains). -/
def CopyRun.entry (r : CopyRun) (e : Nat) (range : Nat × Nat) : Nat :=
  r.entered.foldl (fun t w => if overlap w.2 range then max t (w.1 + 1) else t) e

/-- A write of a command to a page: a FILL write on a FILL page, else a store (R255, R257). It enters the router in cycle
`e`, or later behind one of the same bytes. -/
def State.copyWrite (s : State) (c : Nat) (m : CopyCmd) (e : Nat) (fill : Option LatAttr) (home pa va : Nat) (bs : List Byte) :
    State :=
  let (id, s) := s.freshId
  let q : Req := { m.req c id (if fill.isSome then .fill else .store) pa va with
    lat := fill.getD {}, bytes := bs.map some, who := [⟨c, m.ctx, id, va, m.rblk, m.rslot, some m.id⟩] }
  let e := (((s.core c).copyRun? m.id).map fun r => r.entry e (pa, bs.length)).getD e
  let s := s.modCopy c m.id fun r =>
    { r with outw := r.outw + 1, entered := (r.entered.filter fun w => decide (s.now ≤ w.1)) ++ [(e, pa, bs.length)] }
  match fill with
  | some _ => s.releaseReq e c q
  | none => s.sendCounted e c (.req home q)

/-- The elements of 2 bytes of a byte list, as 16-bit patterns. -/
def halves : List Byte → List Nat
  | a :: b :: l => (a.toNat + 256 * b.toNat) :: halves l
  | _ => []

/-- A whole BFX block is written through a window (R133, R256): its packed bytes, then its scale pair, a FILL unit of scales
waiting for both its blocks. -/
def State.writeBlock (s : State) (c : Nat) (r : CopyRun) (w : Window) (b : Nat) (els : List Nat) : State :=
  let m := r.cmd
  let (es, eh, el, ev) := quantise w.bfx4 (els.map fun h => unpack .f32 (h * 65536))
  let packed := packBfx w.bfx4 es
  let pair : List Byte := [BitVec.ofNat 8 eh, BitVec.ofNat 8 el]
  let pa := w.pbase + (if w.bfx4 then 16 else 32) * b
  let sp := w.sbase + 2 * b
  let s := s.modCopy c m.id fun r => { r with ev := r.ev ++ ev }
  let s := s.copyWrite c m (s.now + 2) (if w.pfill then some (s.frameAttr pa) else none) (homeOf pa) pa (pa % 2 ^ 48) packed
  if w.sfill then
    let other := if b % 2 = 0 then sp + 2 else sp - 2
    let unit := min sp other
    match r.scales.get? other with
    | some q =>
      (s.modCopy c m.id fun r => { r with scales := r.scales.drop other }).copyWrite c m (s.now + 3) (some (s.frameAttr unit))
        (homeOf unit) unit (unit % 2 ^ 48) (if b % 2 = 0 then pair ++ q else q ++ pair)
    | none => s.modCopy c m.id fun r => { r with scales := r.scales.put sp pair }
  else
    s.copyWrite c m (s.now + 3) none (homeOf sp) sp (sp % 2 ^ 48) pair

/-- The bytes of a run as read through a window: its elements decoded to BF16 (R134, R256), and the events. -/
def decodeRun (four : Bool) (packed scale : List Byte) : List Byte × List (Nat × Nat) :=
  let eh := (scale.getD 0 0).toNat
  let el := (scale.getD 1 0).toNat
  let es := if four then packed.flatMap fun b => [b.toNat % 16, b.toNat / 16] else packed.map (·.toNat)
  let rs := es.map fun e => dequantise four .bf16 e eh el
  (rs.flatMap fun r => leBytes r.1 2, rs.flatMap fun r => r.2.map fun k => (k, 1))

/-- A run's bytes are at hand: they go to its destination (R256, R257): local memory four cycles after a local read, or the
cycle after the data arrive; a page two cycles later; a window once its block is whole. -/
def State.writeRun (s : State) (c : Nat) (r : CopyRun) (p : CopyPend) (bs : List Byte) : State :=
  let m := r.cmd
  if m.dstAlias then
    let blk := p.k / 32 * 32
    let s := s.modCopy c m.id fun r => { r with elems := r.elems.put p.k bs }
    let r := ((s.core c).copyRun? m.id).getD r
    let mine := r.elems.filter fun e => e.1 / 32 * 32 == blk
    let all := mine.flatMap (·.2)
    if all.length < 64 then s
    else
      (s.modCopy c m.id fun r => { r with elems := r.elems.filter fun e => e.1 / 32 * 32 != blk }).writeBlock c r p.win (p.off / 64)
        (halves all)
  else if p.dst < 0x60000 then
    s.modCopy c m.id fun q =>
      { q with localW := q.localW ++ [(if m.src p.k < 0x60000 then s.now + 4 else s.now + 1, p.dst, bs)] }
  else match p.leaf with
  | none => s
  | some l =>
    let pa := l.pa p.dst
    s.copyWrite c m (s.now + 2) (if l.cls == .lat then some l.lat else none)
      (if l.cls == .hostm then hostHome l.owner else homeOf pa) pa p.dst bs

/-- The bytes of the destination that a run writes, whole blocks through a window: first and length. -/
def CopyRun.extent (r : CopyRun) (p : CopyPend) : Nat × Nat :=
  if r.cmd.dstAlias then (p.dst / 64 * 64, 64) else (p.dst, p.len * r.cmd.size)

/-- The first run whose data are at hand and that overlaps no earlier one (R254: of two elements that write one byte the higher
remains). -/
def CopyRun.writable? (r : CopyRun) : Option CopyPend :=
  r.pend.find? fun p => p.parts == 0 && r.pend.all fun q => decide (p.run ≤ q.run) || !overlap (r.extent p) (r.extent q)

/-- The runs of a command whose turn has come are written. -/
def State.writeRuns (s : State) (c id : Nat) : Nat → State
  | 0 => s
  | fuel + 1 =>
    match (s.core c).copyRun? id with
    | none => s
    | some r =>
      match r.writable? with
      | none => s
      | some p =>
        let s := s.modCopy c id fun r => { r with pend := r.pend.filter fun q => q.run != p.run }
        let s := if r.cmd.srcAlias then
            let d := decodeRun p.win.bfx4 (p.got.get [] 0) (p.got.get [] 1)
            (s.modCopy c id fun r => { r with ev := r.ev ++ d.2 }).writeRun c r p d.1
          else s.writeRun c r p (p.got.get [] 0)
        State.writeRuns s c id fuel

/-- A part of a run's data arrives (R257): a fault ends the command; the last part lets the run be written. -/
def State.copyArrive (s : State) (c id tag : Nat) (bs : List Byte) (err : Option Cause) (message : Bool) : State :=
  let s := if message then s.countRecv c else s
  match (s.core c).copyRun? id with
  | none => s
  | some r =>
    match err with
    | some k => s.copyFault c r.cmd k
    | none =>
      match r.pend.find? fun p => p.run == tag / 2 with
      | none => s
      | some p =>
        let p := { p with parts := p.parts - 1, got := p.got.put (tag % 2) bs }
        let s := s.modCopy c id fun r => { r with pend := r.pend.map fun q => if q.run = p.run then p else q }
        s.writeRuns c id r.pend.length

/-- The local writes of commands that find their banks free in this cycle (R193, R194, R257): none passes an earlier one of its command
that writes the same bytes (R254). `blocked` lists the ranges of those left. -/
def State.copyWrites (s : State) (c : Nat) (busy : List Nat) (blocked : List (Nat × Nat × Nat)) :
    List (Nat × Nat × Nat × List Byte) → State
  | [] => s
  | (id, w) :: ws =>
    let range := (w.2.1, w.2.2.length)
    let banks := (wordsOf ((List.range w.2.2.length).map (w.2.1 + ·))).map (· % 192)
    if decide (s.now < w.1) || banks.any busy.contains || blocked.any fun b => b.1 == id && overlap b.2 range then
      State.copyWrites s c busy ((id, range) :: blocked) ws
    else
      let s := s.modCopy c id fun r => { r with localW := r.localW.erase w }
      let s := (s.modCore c fun k => k.engineWrite w.2.1 w.2.2).sched (s.now + 1) (.copyCommandComplete c)
      State.copyWrites s c (banks ++ busy) blocked ws

/-- The copy engine's local writes in this cycle; `busy` lists the banks that others hold, and those it has read itself count. -/
def State.copyCycle (s : State) (c : Nat) (busy : List Nat) : State :=
  let k := s.core c
  let s := if k.copyBanks.isEmpty then s else s.modCore c fun k => { k with copyBanks := [] }
  s.copyWrites c (k.copyBanks ++ busy) [] (k.copying.flatMap fun r => r.localW.map fun w => (r.cmd.id, w))

/-- The commands of a context that exits or is killed and have not begun are removed (R258). -/
def State.dropCopies (s : State) (c x : Nat) : State :=
  s.modCore c fun k => { k with copyq := k.copyq.filter fun m => m.ctx != x }

/-- A command is released at a commit (R252, R257): its descriptor is read now, and the engine receives it in cycle `e`. -/
def State.enqueueCopy (s : State) (c x slot blk e : Nat) (windowed : Bool) (g : Nat) : State :=
  let t := s.ctx c x
  let (id, s) := s.freshId
  let m : CopyCmd := { id := id, windowed := windowed, g := g, ox := (List.range 8).map t.oxReg, ctx := x, pair := t.pair
                       asid := t.asid, gen := t.gen, lid := lidOf t.gtid, gtid := t.gtid, rblk := blk, rslot := slot, ready := e }
  let s := s.modCore c fun k => { k with copyq := k.copyq ++ [m] }
  let s := if g = 0 then s else
    s.addProducer c x { id := id, file := .gr, reg := g, kind := if windowed then .cpyw else .cpy }
  s.sched e (.copyCommandBegin c)

end Sys2Proof.Machine
end

