-- ==== Sys2Proof/Machine/PrivStore.lean ====
section
/-!
DEFINITION. The private store buffer (R198): how a commit's stores enter it, the room they need, its draining to
the homes, and the acknowledgements.
-/

namespace Sys2Proof.Machine

/-- The youngest entry of a 32-byte group, if it can still take bytes. -/
def Core.psbOpen (k : Core) (g : Nat) : Option PsbEntry :=
  match k.psb.reverse.find? fun e => e.pa == g with
  | some e => if e.draining then none else some e
  | none => none

/-- The new entries that stores of these cells need. -/
def Core.psbNeed (k : Core) (cs : List Host.Cell) : Nat :=
  (((cs.map fun e => e.1 / 32 * 32).eraseDups).filter fun g => (k.psbOpen g).isNone).length

/-- The buffer has room for stores of these cells. -/
def Core.psbRoom (k : Core) (cs : List Host.Cell) : Bool := decide (k.psb.length + k.psbNeed cs ≤ 64)

/-- One byte of a committed store enters the buffer: into the youngest entry of its group, or a new one. -/
def State.psbByteIn (s : State) (c asid gen lid : Nat) (e : Host.Cell) : State :=
  let g := e.1 / 32 * 32
  match (s.core c).psbOpen g with
  | some p =>
    s.modCore c fun k => { k with psb := k.psb.map fun q =>
      if q.id = p.id then { q with bytes := q.bytes.set (e.1 % 32) (some e.2) } else q }
  | none =>
    let (id, s) := s.freshId
    let p : PsbEntry := { id := id, pa := g, asid := asid, gen := gen, lid := lid
                          bytes := (List.replicate 32 none).set (e.1 % 32) (some e.2) }
    s.modCore c fun k => { k with psb := k.psb ++ [p] }

/-- A drain step of a core's buffer takes place in the cycle `t`, if none is to come already. -/
def State.wakeDrain (s : State) (c t : Nat) : State :=
  if s.agenda.any fun e => e.2 == .privStoreDrain c then s else s.sched t (.privStoreDrain c)

/-- Committed stores of PRIV bytes enter the buffer, in order; draining goes on in the cycle `t`. -/
def State.privStoresAs (s : State) (c asid gen lid t : Nat) (cs : List Host.Cell) : State :=
  if cs.isEmpty then s else (cs.foldl (fun s e => s.psbByteIn c asid gen lid e) s).wakeDrain c t

/-- Stores of a context's commit in the rotation that begins at `t`: until its end loads see the bytes that stood there (R54). -/
def State.privStores (s : State) (c x t : Nat) (cs : List Host.Cell) : State :=
  if cs.isEmpty then s
  else
    let k := s.ctx c x
    let old := (cs.map (·.1)).eraseDups.map fun pa => (pa, ((s.core c).psbByte pa).getD (s.readByte pa))
    (s.modCore c fun k => { k with privOld := (k.privOld.filter fun e => decide (s.now < e.1)) ++ [(t + 16, old)] }).privStoresAs
      c k.asid k.gen (lidOf k.gtid) t cs

/-- The bytes of a PRIV page with the stores in the buffer (R198). -/
def State.privBytes (s : State) (c pa n : Nat) : List Byte :=
  (List.range n).map fun i => ((s.core c).psbByte (pa + i)).getD (s.readByte (pa + i))

/-- An entry of the buffer that is not draining is released in the next cycle, if there is one. The buffer is the oldest 64 entries:
those behind them, of a dump or of exit messages, wait to enter it (log entry 26). -/
def State.drainOn (s : State) (c : Nat) : State :=
  if ((s.core c).psb.take 64).any fun e => !e.draining then s.wakeDrain c (s.now + 1) else s

/-- PRIV_STORE_DRAIN (R198): the oldest entry that is not draining is released, one a cycle. -/
def execPrivStoreDrain (s : State) : Outcome :=
  match s.ev with
  | .privStoreDrain c =>
    match ((s.core c).psb.take 64).find? fun e => !e.draining with
    | none => .next s
    | some p =>
      let s := s.modCore c fun k => { k with psb := k.psb.map fun q => if q.id = p.id then { q with draining := true } else q }
      let r : Req := { kind := .store, pa := p.pa, bytes := p.bytes, asid := p.asid, gen := p.gen, lid := p.lid, ret := .psb p.id }
      let s := s.sendCounted (s.now + 2) c (.req (homeOf p.pa) (r.by c 0 p.id))
      .next (s.drainOn c)
  | _ => .next s

/-- An entry of the buffer is gone. -/
def Core.psbFree (k : Core) (id : Nat) : Core := { k with psb := k.psb.filter fun e => e.id != id }

/-- An entry leaves the buffer of a core, and one that waits to enter it may do so. -/
def State.psbLeave (s : State) (c id : Nat) : State := (s.modCore c fun k => k.psbFree id).drainOn c

/-- PRIV_STORE_ACK (R198): the acknowledgement frees the entry. -/
def execPrivStoreAck (s : State) : Outcome :=
  match s.ev with
  | .privStoreAck c entry => .next ((s.countRecv c).psbLeave c entry)
  | _ => .next s

end Sys2Proof.Machine
end

