-- ==== Sys2Proof/Machine/Responses.lean ====
section
/-!
DEFINITION. What comes back to a core (R84, R199, R231, R241, R242): results of reads, acceptances, results of waits and
scheduling requests, and deferred faults; and what waits in the core for acceptances before it leaves.
-/

namespace Sys2Proof.Machine

/-! ### Barrier objects' places (R314, R323) -/

/-- The key of the barrier object that an identifier names on a core: its scope code, container and index. -/
def barKey (c bar : Nat) : Nat :=
  let box := match bar / 256 with
    | 1 => c
    | 2 => pkgOf c * 8192 + quadOf c
    | 3 => dieOf c
    | 4 => pkgOf c
    | _ => 0
  bar / 256 * 2 ^ 32 + box * 256 + bar % 256

/-- The scope code of a barrier object. -/
def barScope (obj : Nat) : Nat := obj / 2 ^ 32
/-- The identifier that names a barrier object. -/
def barId (obj : Nat) : Nat := barScope obj * 256 + obj % 256
/-- The container of a barrier object. -/
def barBox (obj : Nat) : Nat := obj / 256 % 2 ^ 24

/-- B = 2L + s, the pod barrier path (R386): s as the switches' capability messages declare it. -/
def State.podPath (s : State) : Nat :=
  160 + s.pkgs.foldl (fun m p => p.2.ports.foldl (fun m q => if q.2.switched then max m q.2.s else m) m) 0

/-- U and D of a barrier object (R323), which are equal in every scope. -/
def State.barTime (s : State) (obj : Nat) : Nat :=
  match barScope obj with
  | 1 => 0
  | 2 => 4
  | 3 => 24
  | 4 => 96
  | _ => 96 + s.podPath

/-! ### Departures that wait for acceptances (R231, R283, R322, R325) -/

/-- A message that waits at its sender, among those that wait there, in the order of their release (R272, R283). -/
def insertOrd {α : Type} (ord : α → Nat) (m : α × Bool) (l : List (α × Bool)) : List (α × Bool) :=
  l.takeWhile (fun e => decide (ord e.1 < ord m.1)) ++ m :: l.dropWhile fun e => decide (ord e.1 < ord m.1)

/-- A delegation request of a context waits behind an earlier one to the same core that awaits its retry (R283). -/
def Ctx.delegWaits (t : Ctx) (dst : Nat) : Bool := t.delegs.any fun e => e.1.dst == dst

/-- The cycle in which a departure enters the router: its own slot, or a later one if that has passed (R222). -/
def State.heldSlot (s : State) (c : Nat) (h : Held) : Nat × State :=
  if s.now ≤ h.notBefore then (h.notBefore, s) else s.outSlot c (s.now - 2)

/-- A departure leaves its core, at the earliest in its own slot; a delegation request may have to wait on, behind an earlier one that
awaits its retry (R283). -/
def State.departHeld (s : State) (c : Nat) (h : Held) : State :=
  let e := max s.now h.notBefore
  match h.what with
  | .req r =>
    let (e, s) := s.heldSlot c h
    s.releaseReq e c r
  | .deleg m =>
    if (s.ctx c m.sctx).delegWaits m.dst then s.modCtx c m.sctx fun t => { t with delegs := insertOrd DelegMsg.ord (m, false) t.delegs }
    else
      let (e, s) := s.heldSlot c h
      s.sendCounted e c (.deleg m)
  | .arrive obj counts drops how => s.sched e (.barrierArrivalDepart obj c counts drops how)
  | .ecomb obj phase vals => s.sched (e + s.barTime obj) (.ecombAdd obj phase vals)

/-- A departure waits for acceptances, or leaves if it awaits none. -/
def State.hold (s : State) (c : Nat) (h : Held) : State :=
  if h.wait.isEmpty then s.departHeld c h else s.modCore c fun k => { k with held := k.held ++ [h] }

/-- The launch that a core works for is being switched, or is switched out (R372). -/
def State.away (s : State) (c : Nat) : Bool :=
  match (s.core c).lid with
  | some l => ((s.pkg (pkgOf c)).runsOf l).any fun r => r.st == .switching || r.st == .out || r.st == .resuming
  | none => false

/-- Departures of a core that await nothing any more leave; those of a launch that is switched stay with its image until it resumes
(R326, R373; log entry 76). -/
def State.freeHeld (s : State) (c : Nat) : State :=
  if s.away c then s
  else
    let (ready, rest) := (s.core c).held.partition fun h => h.wait.isEmpty
    ready.foldl (fun s h => s.departHeld c h) (s.modCore c fun k => { k with held := rest })

/-- A request has ended: departures that awaited only it may leave. -/
def State.releaseHeld (s : State) (c id : Nat) : State :=
  let answer (h : Held) : Held := { h with wait := h.wait.filter (· != id) }
  (s.modCore c fun k => { k with held := k.held.map answer }).freeHeld c

/-- A context that exits is looked at again (R350). -/
def State.tryExit (s : State) (c x : Nat) : State :=
  if (s.ctx c x).st = .exiting then s.sched s.now (.exitMessageDepart c x) else s

/-- The request of a context with a number has ended, with an acceptance, a result or a fault (R241): the count falls,
and what waited for it may leave. -/
def State.endRequest (s : State) (c x id : Nat) : State :=
  let s := s.modCtx c x fun t => { t with outs := t.outs.filter fun o => o.1 != id }
  ((s.releaseHeld c id).tryDepart c x).tryExit c x

/-! ### The responses -/

/-- Adds an answer for the host. -/
def State.toHost (s : State) (p : Nat) (o : HostOut) : State := s.modPkg p fun k => { k with out := k.out ++ [o] }

/-- LOAD_RESULT (R50, R194, R199, R257): a part of a load's bytes, of a copy run's, or, at a service core, of a host read's. -/
def execLoadResult (s : State) : Outcome :=
  match s.ev with
  | .loadResult c x serial slot part bs err =>
    if isService c then .next (s.toHost (pkgOf c) (.readData c serial bs))
    else .next (if x = 16 then s.copyArrive c serial part bs err (slot == 1) else s.loadArrive c x serial slot part bs err)
  | _ => .next s

/-- A freeze request of service core 0 for a launch has ended (R250). -/
def State.endFrzq (s : State) (p lid : Nat) : State := s.modRun p lid fun r => { r with frzOut := r.frzOut - 1 }

/-- ACCEPTANCE (R241, R250, R257): of a context's request, of a copy engine's write, of a freeze request of a service
core, or of a host write, whose completion leaves 8 cycles later (R381). -/
def execAcceptance (s : State) : Outcome :=
  match s.ev with
  | .acceptance w ret =>
    match ret with
    | .copyWrite k => .next ((s.countRecv w.core).copyAccepted w.core k)
    | .service p => .next (s.endFrzq p w.id)
    | .host off =>
      if w.ctx = 0 then .next (s.sched (s.now + 8) (.acceptance { w with ctx := 1 } ret))
      else .next (s.toHost (pkgOf w.core) (.writeDone w.core off))
    | _ => .next ((s.countRecv w.core).endRequest w.core w.ctx w.id)
  | _ => .next s

/-- PRODUCER_COMPLETION (R82, R84): the result of a wait or scheduling request, which also ends the request, or of a tile
operation. -/
def execProducerCompletion (s : State) : Outcome :=
  match s.ev with
  | .producerCompletion c x f r v ok id =>
    if (s.ctx c x).outs.any fun o => o.1 == id then
      .next (((s.countRecv c).endProducer c x f r v ok id).endRequest c x id)
    else .next (s.endProducer c x f r v ok id)
  | _ => .next s

/-- A faulted code line (R205): the fetch whose own request it answers becomes a block that raises the fault in its first slot. -/
def State.lineFault (s : State) (c id : Nat) (code : FaultCode) : State :=
  (List.range 16).foldl (fun s x =>
    match (s.ctx c x).fetch with
    | some f => if f.reqs.contains id then s.install c x (badBlock f.addr (s.nextRot c) { code := code, va := f.addr }) else s
    | none => s) s

/-- DEFERRED_FAULT (R84, R205, R242, R301): a fault that answers a request. Uncorrectable data fences the smallest rectangle
around the core that consumes it; the fault of a load or fetch belongs to its block, that of a copy to its command; any
other is delivered to the thread, and the register that the request was to fill becomes INVALID. What comes to a fenced core is discarded
(R369). -/
def execDeferredFault (s : State) : Outcome :=
  match s.ev with
  | .deferredFault r ret id message =>
    let c := r.core
    let x := r.ctx
    let p := pkgOf c
    if (s.core c).fenced then .next (if message then s.countRecv c else s)
    else match ret with
    | .service q => .next ((s.logError q r.va r.cause).endFrzq q id)
    | .host off =>
      if x = 2 then .next (s.toHost p (.poison c off))
      else .next (((s.logError p off r.cause).hostApplied c id).sched (s.now + 8) (.acceptance ⟨c, 1, id, 0, 0, 0, none⟩ ret))
    | .load serial slot part =>
      if r.cause = .uecc then .next ((s.countRecv c).sched s.now (.fence p (s.fenceRect c) .uecc))
      else .next (s.loadArrive c x serial slot part [] (some { code := r.cause, sub := r.sub, va := r.va }))
    | ret =>
      let s := if message then s.countRecv c else s
      if r.cause = .uecc then .next (s.sched s.now (.fence p (s.fenceRect c) .uecc))
      else match ret with
      | .copyRead cmd tag => .next (s.copyArrive c cmd tag [] (some { code := r.cause, va := r.va }) false)
      | .copyWrite cmd => .next (s.copyRefused c cmd { code := r.cause, va := r.va } r.cmb)
      | .line _ => .next (s.lineFault c id r.cause)
      | .psb e => .next ((s.psbLeave c e).queueRecord c r)
      | _ =>
        let t := s.ctx c x
        let s := match t.prods.find? fun q => q.id == id with
          | some q => s.endProducer c x q.file q.reg 0 false id
          | none => s
        .next ((s.postDeferred r).endRequest c x id)
  | _ => .next s

end Sys2Proof.Machine
end

