-- ==== Sys2Proof/Machine/Stream.lean ====
section
/-!
DEFINITION. Stream entries and the way of stream flits (R265 to R267, R298 to R300): output queues, links, forward and
combine sets, markers, ejection into the input queues, and the debug holds that markers set.
-/

namespace Sys2Proof.Machine

/-- The stream entry of a router. -/
def State.stream (s : State) (router strm : Nat) : StreamEntry := (s.core router).streams.get {} strm

/-- The current set of a stream entry. -/
def StreamEntry.set (e : StreamEntry) : StreamSet := e.sets.getD e.cur {}

/-- A mask names a port. -/
def hasPort (m p : Nat) : Bool := bitOf m p

/-- The input ports of a set: bit 4 is ignored (R298). -/
def StreamSet.ins (q : StreamSet) : List Nat := [0, 1, 2, 3, 5].filter (hasPort q.inp)

/-- The Brineline port that a router has (R13). -/
def portAt (router : Nat) : Option Nat := (List.range 32).find? fun n => portRouter (pkgOf router) n == router

/-- The input queue for a port: its own, or for the Brineline port that of the edge it is on (R298). -/
def queueOfPort (router p : Nat) : Nat :=
  if p < 4 then p
  else match portAt router with
    | some n => if n < 12 then 0 else if n < 16 then 1 else if n < 28 then 2 else 3
    | none => 0

/-- The flits that wait at an input port for a stream. -/
def State.waitingAt (s : State) (router strm p : Nat) : List Flit := (s.core router).streamIn.get [] (strm * 8 + p)
/-- Takes the flit that heads a stream at an input port. -/
def State.takeFlit (s : State) (router strm p : Nat) : State :=
  (s.countRecv router).modCore router fun k =>
    { k with streamIn := k.streamIn.put (strm * 8 + p) ((k.streamIn.get [] (strm * 8 + p)).drop 1) }
/-- Changes the flits that wait at an input port for a stream. -/
def State.modWaiting (s : State) (router strm p : Nat) (f : List Flit → List Flit) : State :=
  s.modCore router fun k => { k with streamIn := k.streamIn.put (strm * 8 + p) (f (k.streamIn.get [] (strm * 8 + p))) }

/-- The time from a router to its neighbour (R17). -/
def linkTime (a b : Nat) : Nat := meshTime a b

/-- The kind of a marker (R270). -/
def Flit.kind (f : Flit) : Nat := bitsOf f.word.toNat 4 2
/-- A marker that steps the entry. -/
def Flit.isStep (f : Flit) : Bool := f.marker && f.kind == 0

/-- A flit leaves a router through the ports of a mask, `delay` cycles from now; `q` is the input queue it is ejected
into (R298, R299). Each copy counts as sent, and each flit that a set takes as received (R374). -/
def State.sendOut (s : State) (router mask q delay : Nat) (f : Flit) : State :=
  let t := s.now + delay
  let s := [Dir.north, .east, .south, .west].foldl (fun s d =>
    if hasPort mask d.num then
      match neighbour router d with
      | some n => (s.countSent router).sched (t + linkTime router n) (.streamFlitForward n d.opp.num f)
      | none => s
    else s) s
  let s := if hasPort mask 4 then (s.countSent router).sched (t + 2) (.streamFlitForward router (8 + q) f) else s
  if hasPort mask 5 then
    match portAt router with
    | some n =>
      let p := pkgOf router
      (s.countSent router).sched t (.codeword p n { leg := .out, msgs := [(0, .flit f)], src := (p, n), dst := (p, n) } true)
    | none => s
  else s

/-- The heads of a stream at the ports of a set, if every one has a flit there. -/
def State.heads (s : State) (router strm : Nat) (q : StreamSet) : Option (List Flit) :=
  q.ins.mapM fun p => (s.waitingAt router strm p).head?

/-- The input queue that a flit from a port is ejected into: a marker's is that of the set's lowest port (R298, R300). -/
def StreamSet.queue (q : StreamSet) (router p : Nat) (f : Flit) : Nat := queueOfPort router (if f.marker then q.ins.headD 0 else p)

/-- A forward set passes on the flits at a port, up to a marker that steps the entry (R299, R300). -/
def State.forwardPort (s : State) (router strm p : Nat) : Nat → State
  | 0 => s
  | fuel + 1 =>
    let q := (s.stream router strm).set
    match s.waitingAt router strm p with
    | f :: _ =>
      if f.isStep then s
      else State.forwardPort ((s.takeFlit router strm p).sendOut router q.out (q.queue router p f) 0 f)
        router strm p fuel
    | [] => s

/-- Debug markers that head a combine set's ports go on as they arrive (R300). -/
def State.forwardDebug (s : State) (router strm p : Nat) : Nat → State
  | 0 => s
  | fuel + 1 =>
    let q := (s.stream router strm).set
    match s.waitingAt router strm p with
    | f :: _ =>
      if f.marker && f.kind != 0 then
        State.forwardDebug ((s.takeFlit router strm p).sendOut router q.out (q.queue router p f) 0 f)
          router strm p fuel
      else s
    | [] => s

/-- A router looks at a stream (R299, R300): it passes on what the current set lets through, and starts a combining or a
step that is due. -/
def State.runStream (s : State) (router strm : Nat) : State :=
  let e := s.stream router strm
  if !e.v then s
  else
    let q := e.set
    let s := q.ins.foldl (fun s p =>
      let n := (s.waitingAt router strm p).length
      if q.op = 0 then s.forwardPort router strm p n else s.forwardDebug router strm p n) s
    match s.heads router strm q with
    | none => s
    | some [] => s
    | some fs =>
      if fs.all Flit.isStep then s.sched s.now (.markerStep router strm)
      else if q.op ≠ 0 ∧ fs.all (fun f => !f.marker) then s.sched s.now (.streamCombine router strm)
      else s

/-- A write of the stream's entry is to be applied in this cycle (R300). -/
def State.entryWriteDue (s : State) (router strm : Nat) : Bool :=
  (s.core router).sysops.any fun o => o.1 == s.now && !o.2.1 && (match o.2.2 with
    | .tblw 2 i _ => i == strm
    | _ => false)

/-- A flit enters a core's input queue (R266): a queue of 8 flits; more are held by the router. -/
def Core.eject (k : Core) (q : Nat) (f : Flit) : Core :=
  let l := k.linkIn.get [] q
  let w := k.streamIn.get [] (512 + q)
  if decide (l.length < 8) && w.isEmpty then { k with linkIn := k.linkIn.put q (l ++ [f]) }
  else { k with streamIn := k.streamIn.put (512 + q) (w ++ [f]) }

/-- POPs have taken `n` words of an input queue; flits that the router holds follow (R260, R268). -/
def Core.popLink (k : Core) (q n : Nat) : Core :=
  let l := (k.linkIn.get [] q).drop n
  let w := k.streamIn.get [] (512 + q)
  let room := 8 - l.length
  { k with linkIn := k.linkIn.put q (l ++ w.take room), streamIn := k.streamIn.put (512 + q) (w.drop room) }

/-- A debug marker reaches a core (R330): kind 1 sets the hold of its partition, kind 2 ends it. -/
def State.debugHold (s : State) (c : Nat) (f : Flit) : State :=
  if !f.marker then s
  else if f.kind = 1 then s.modCore c fun k => { k with hold := true }
  else if f.kind = 2 then
    match s.runOf c 0 with
    | some r =>
      let free (e : Nat × Core) : Nat × Core :=
        if pkgOf e.1 = pkgOf c ∧ r.rc.rect.has e.1 then (e.1, { e.2 with hold := false }) else e
      { s with cores := s.cores.map free }
    | none => s.modCore c fun k => { k with hold := false }
  else s

/-- The flits that reach a router for a stream in this cycle, with their ports in ascending order. -/
def insertByPort (x : Nat × Flit) : List (Nat × Flit) → List (Nat × Flit)
  | [] => [x]
  | y :: l => if x.1 < y.1 then x :: y :: l else y :: insertByPort x l

/-- STREAM_FLIT_FORWARD (R266, R299): a flit leaves an output queue, enters an input queue, or reaches a router, where the
stream's entry decides. Flits that reach the router in one cycle are taken in port order. -/
def execStreamFlitForward (s : State) : Outcome :=
  match s.ev with
  | .streamFlitForward router port f =>
    if 16 ≤ port then
      let d := dirOf (port - 16)
      match neighbour router d with
      | none => .next s
      | some n =>
        let s := s.modCore router fun k => { k with linkOut := k.linkOut.put d.num ((k.linkOut.get [] d.num).drop 1) }
        .next (s.sched (s.now + linkTime router n) (.streamFlitForward n d.opp.num f))
    else if 8 ≤ port then .next (((s.countRecv router).modCore router fun k => k.eject (port - 8) f).debugHold router f)
    else
      let same (e : Event) : Option (Nat × Flit) := match e with
        | .streamFlitForward r p g => if r = router ∧ p < 8 ∧ g.strm = f.strm then some (p, g) else none
        | _ => none
      let more := s.agenda.filterMap fun e => if e.1 ≤ s.now then same e.2 else none
      let s := { s with agenda := s.agenda.filter fun e => decide (s.now < e.1) || (same e.2).isNone }
      let s := (more.foldl (fun l x => insertByPort x l) [(port, f)]).foldl (fun s x =>
        s.modWaiting router f.strm x.1 (· ++ [x.2])) s
      if s.entryWriteDue router f.strm then
        let e := s.stream router f.strm
        match s.heads router f.strm e.set with
        | some (g :: gs) => .next (if e.v && (g :: gs).all Flit.isStep then s.sched s.now (.markerStep router f.strm) else s)
        | _ => .next s
      else .next (s.runStream router f.strm)
  | _ => .next s

/-- The join of words under a combine set (R210, R299): 8 MAX, 9 MIN, 10 OR, 11 CNT, 12 SUM. -/
def combineWords (q : StreamSet) (ws : List W64) : W64 :=
  let ty : LType := match q.op with
    | 8 => .max | 9 => .min | 10 => .or | 11 => .cnt | _ => .sum
  let a : LatAttr := ⟨ty, q.width, q.sgn, 0⟩
  match ws with
  | [] => 0
  | w :: l => BitVec.ofNat 64 (l.foldl (fun v u => a.join v (u.toNat % 2 ^ a.bits)) (w.toNat % 2 ^ a.bits))

/-- STREAM_COMBINE (R299): a combine set takes one data flit from every input port and sends their join 4 cycles later. -/
def execStreamCombine (s : State) : Outcome :=
  match s.ev with
  | .streamCombine router strm =>
    let e := s.stream router strm
    let q := e.set
    match s.heads router strm q with
    | some (f :: fs) =>
      if !e.v || q.op == 0 || (f :: fs).any (·.marker) then .next s
      else
        let s := q.ins.foldl (fun s p => s.takeFlit router strm p) s
        let g : Flit := ⟨false, strm, combineWords q ((f :: fs).map (·.word))⟩
        .next ((s.sendOut router q.out (queueOfPort router (q.ins.headD 0)) 4 g).runStream router strm)
    | _ => .next s
  | _ => .next s

/-- MARKER_STEP (R300): kind-0 markers head every input port; one goes on, and the next set is current. -/
def execMarkerStep (s : State) : Outcome :=
  match s.ev with
  | .markerStep router strm =>
    let e := s.stream router strm
    let q := e.set
    match s.heads router strm q with
    | some (f :: fs) =>
      if !e.v || !(f :: fs).all Flit.isStep then .next s
      else
        let s := q.ins.foldl (fun s p => s.takeFlit router strm p) s
        let s := s.sendOut router q.out (queueOfPort router (q.ins.headD 0)) 0 f
        let s := s.modCore router fun k => { k with streams := k.streams.put strm { e with cur := (e.cur + 1) % (e.nset + 1) } }
        .next (if s.entryWriteDue router strm then s else s.runStream router strm)
    | _ => .next s
  | _ => .next s

/-- A flit of a commit goes into an output queue (R264, R266) and enters the router in cycle `e`. -/
def State.pushFlit (s : State) (c d e : Nat) (f : Flit) : State :=
  ((s.countSent c).modCore c fun k =>
    { k with linkOut := k.linkOut.put d (k.linkOut.get [] d ++ [f]), reserved := k.reserved.put d (k.reserved.get 0 d - 1) }).sched e
      (.streamFlitForward c (16 + d) f)

end Sys2Proof.Machine
end

