-- ==== Sys2Proof/Machine/Queues.lean ====
section
/-!
DEFINITION. Queues that instructions reach (R268 to R272): POP and QSTAT, STRM and MARK, SEND with the mailboxes, its
refusals and retries.
-/

namespace Sys2Proof.Machine

/-- A POP fires (R268): it delivers the word after those that the block has taken. A link queue belongs to context 1. -/
def State.firePop (s : State) (pm : Pm) (q : Nat) (ts : List (BitVec 8)) : State :=
  let c := s.cur.core
  let x := s.cur.ctx
  if s.offScalar pm then s.fireNull ts
  else if q ≠ 4 ∧ x ≠ 1 then s.raise { code := .priv }
  else if q = 4 ∧ s.strict c x then s.raise { code := .escape }
  else s.paired ts fun s =>
    let n := s.cblk.taken.get 0 q
    let w := (s.popWords c x q).getD n 0
    (s.modBlock c x fun b => { b with taken := b.taken.put q (n + 1) }).deliverValue ts w

/-- POPN. -/
def execPopn (pm : Pm) (t0 : BitVec 8) (s : State) : Outcome := .next (s.firePop pm 0 [t0])
/-- POPE. -/
def execPope (pm : Pm) (t0 : BitVec 8) (s : State) : Outcome := .next (s.firePop pm 1 [t0])
/-- POPS. -/
def execPops (pm : Pm) (t0 : BitVec 8) (s : State) : Outcome := .next (s.firePop pm 2 [t0])
/-- POPW. -/
def execPopw (pm : Pm) (t0 : BitVec 8) (s : State) : Outcome := .next (s.firePop pm 3 [t0])
/-- POP of a link queue. -/
def execPop (pm : Pm) (d : Dir) (t1 t0 : BitVec 8) (s : State) : Outcome := .next (s.firePop pm d.num [t0, t1])
/-- POP of the mailbox. -/
def execPopMb (pm : Pm) (t1 t0 : BitVec 8) (s : State) : Outcome := .next (s.firePop pm 4 [t0, t1])

/-- A continuation is being received by a core: its first flit has been ejected and its last has not (R269, R277). -/
def State.receiving (s : State) (c : Nat) : Nat :=
  (s.agenda.filter fun e => match e.2 with
    | .continuationArrival k => k.dst == c && decide (e.1 + 1 ≤ s.now + k.flits)
    | _ => false).length

/-- The occupancy that QSTAT delivers (R269). -/
def State.occupancy (s : State) (c x fn : Nat) : Nat :=
  let k := s.core c
  if fn < 4 then (k.linkIn.get [] fn).length
  else if fn < 8 then (k.linkOut.get [] (fn - 4)).length + k.reserved.get 0 (fn - 4)
  else if fn = 8 then (k.ctx x).mbox.length
  else if fn = 9 then k.spawnq.length
  else k.arrq.length + s.receiving c

/-- QSTAT (R269): ESCAPE in a STRICT launch (R31). -/
def execQstat (pm : Pm) (fn : BitVec 6) (t0 : BitVec 8) (s : State) : Outcome :=
  let c := s.cur.core
  let x := s.cur.ctx
  if s.offScalar pm then .next (s.fireNull [t0])
  else if s.strict c x then .next (s.raise { code := .escape })
  else .next (s.paired [t0] fun s => s.deliverValue [t0] (BitVec.ofNat 64 (s.occupancy c x fn.toNat)))

/-! ### STRM and MARK -/

/-- STRM (R270): PRIV outside context 1, LBOUND for a stream number of 64 or more. -/
def execStrm (pm : Pm) (s : State) : Outcome :=
  .next (s.fireEff pm fun s =>
    let l := s.slot.l.tok.scal.toNat
    if s.cur.ctx ≠ 1 then .error { code := .priv }
    else if 64 ≤ l then .error { code := .lbound }
    else .ok (.strm l))

/-- The queues that a marker word names (R270). -/
def markQueues (w : W64) : List Nat := (List.range 4).filter fun i => w.getLsbD i

/-- MARK (R270): it reserves an entry of each queue its mask names. -/
def execMark (pm : Pm) (s : State) : Outcome :=
  let l := s.slot.l.tok.scal
  if s.offScalar pm then .next (s.fired true)
  else if s.cur.ctx ≠ 1 then .next (s.raise { code := .priv })
  else if bitsOf l.toNat 4 2 = 3 then .next (s.raise { code := .lbound })
  else .next ((s.fired false (.mark l)).modCore s.cur.core fun k =>
    (markQueues l).foldl (fun k d => { k with reserved := k.reserved.put d (k.reserved.get 0 d + 1) }) k)

/-! ### SEND (R271, R272) -/

/-- SEND (R271): PROT for a destination that no message may have. DESIGN CHOICE (log entry 78): ESCAPE of a STRICT launch comes before it. -/
def execSend (pm : Pm) (s : State) : Outcome :=
  .next (s.fireEff pm fun s =>
    let l := s.slot.l.tok.scal.toNat
    let c := s.cur.core
    let t := s.cctx
    let dst := coreKey (bitsOf l 19 8) (bitsOf l 4 15)
    if s.strict c s.cur.ctx then .error { code := .escape }
    else if 2 ^ 27 ≤ l ∨ isService dst ∨ l % 16 = 0 then .error { code := .prot, va := l }
    else .ok (.send { src := c, sctx := s.cur.ctx, dst := dst, dctx := l % 16, lid := lidOf t.gtid, gtid := t.gtid
                      word := s.slot.r.tok.scal, rblk := t.blkAddr, rslot := s.cur.slot }))

/-- A SEND to a context waits behind an earlier one of the same sender that awaits its retry (R272). -/
def Ctx.sendWaits (t : Ctx) (m : SendMsg) : Bool := t.sends.any fun e => e.1.dst == m.dst && e.1.dctx == m.dctx

/-- A committed SEND leaves in cycle `e`, or waits behind an earlier one. -/
def State.releaseSend (s : State) (e : Nat) (m : SendMsg) : State :=
  let (n, s) := s.freshId
  let m := { m with ord := n }
  if (s.ctx m.src m.sctx).sendWaits m then s.modCtx m.src m.sctx fun t => { t with sends := t.sends ++ [(m, false)] }
  else s.sendCounted e m.src (.send m)

/-- SEND_ARRIVAL (R271): the word joins the mailbox of a thread of the sender's launch, or is refused; a context without
such a thread discards it with PROT. -/
def execSendArrival (s : State) : Outcome :=
  match s.ev with
  | .sendArrival m =>
    let s := s.countRecv m.dst
    let t := s.ctx m.dst m.dctx
    let reply (k : Option FaultCode) : State := s.sendCounted (s.now + 2) m.dst (.sendRefused m k)
    if (s.core m.dst).fenced then .next (s.answerFenced m.src m.dst (.sendRefused m (some .fenced)))
    else if t.st == .vacant || lidOf t.gtid != m.lid then .next (reply (some .prot))
    else if (s.core m.dst).mustFollow m.mark || decide (8 ≤ t.mbox.length) then .next ((reply none).noteRefused m.dst m.mark true)
    else .next ((s.modCtx m.dst m.dctx fun t => { t with mbox := t.mbox ++ [m.word] }).noteRefused m.dst m.mark false)
  | _ => .next s

/-- The trap record of a message's deferred fault (R242). -/
def msgRec (src x : Nat) (gtid : W64) (va rblk rslot : Nat) (code : FaultCode) : TrapRec :=
  { core := src, ctx := x, dfr := true, cause := code, gtid := gtid, va := va, rblk := rblk, rslot := rslot }

/-- A SEND that is sent again, or given up, lets the ones behind it go, up to one that awaits its own retry (R272). -/
def State.freeSends (s : State) (m : SendMsg) : State :=
  let t := s.ctx m.src m.sctx
  let mine (e : SendMsg × Bool) : Bool := e.1.dst == m.dst && e.1.dctx == m.dctx
  let go := (t.sends.filter mine).takeWhile fun e => !e.2
  let rest := (t.sends.filter mine).dropWhile fun e => !e.2
  let s := s.modCtx m.src m.sctx fun t => { t with sends := (t.sends.filter fun e => !mine e) ++ rest }
  go.foldl (fun s e =>
    let (u, s) := s.outSlot m.src s.now
    s.sendCounted u m.src (.send e.1)) s

/-- SEND_REFUSAL (R271, R272, R369): a fault is delivered to the sender; a full mailbox is tried again after 64 rotations, at
most 16 times. A fenced core's boundary router answers it with FENCED, for which nothing waits. -/
def execSendRefusal (s : State) : Outcome :=
  match s.ev with
  | .sendRefusal m cause =>
    let s := s.countRecv m.src
    let give (k : FaultCode) : State :=
      ((s.postDeferred (msgRec m.src m.sctx m.gtid 0 m.rblk m.rslot k)).noteRefused m.dst m.mark false).freeSends m
    if (s.core m.src).fenced then .next s
    else match cause with
    | some k => .next (give k)
    | none =>
      if 15 ≤ m.tries then .next (give .qfull)
      else
        let m := { m with tries := m.tries + 1 }
        .next ((s.modCtx m.src m.sctx fun t => { t with sends := insertOrd SendMsg.ord (m, true) t.sends }).sched (s.now + 1024) (.sendRetry m))
  | _ => .next s

/-- SEND_RETRY (R272): behind an earlier one that still awaits its retry it waits on. -/
def execSendRetry (s : State) : Outcome :=
  match s.ev with
  | .sendRetry m =>
    let first := (s.ctx m.src m.sctx).sends.find? fun e => e.1.dst == m.dst && e.1.dctx == m.dctx
    if !(s.ctx m.src m.sctx).sends.contains (m, true) then .next s
    else if first ≠ some (m, true) then
      .next (s.modCtx m.src m.sctx fun t => { t with sends := t.sends.map fun e => if e = (m, true) then (m, false) else e })
    else
      let s := s.modCtx m.src m.sctx fun t => { t with sends := t.sends.erase (m, true) }
      let (u, s) := s.outSlot m.src s.now
      .next ((s.sendCounted u m.src (.send m)).freeSends m)
  | _ => .next s

end Sys2Proof.Machine
end

