-- ==== Sys2Proof/Machine/Delegate.lean ====
section
/-!
DEFINITION. Delegation and the head context's turn between blocks (R282 to R286, R356): DELEG, DCALL and DRET, the
delegation queue, routines, the trap handler's entry.
-/

namespace Sys2Proof.Machine

/-! ### The head context between blocks -/

/-- The head context goes on at `target` in cycle `t`, or runs nothing. -/
def State.headGo (s : State) (c t : Nat) (target : Option Nat) : State :=
  match target with
  | some a => (s.modCtx c 0 fun x => { x with st := .active }).enterBlock c 0 a t
  | none => s.modCtx c 0 fun x => { x with st := .vacant, blk := none, fetch := none }

/-- The head context enters the handler at tvec (R356). -/
def State.enterHandler (s : State) (c t : Nat) (target : Option Nat) : State :=
  (s.modCore c fun k => { k with head := { k.head with handler := true, retBlk := target } }).headGo c t (some (s.core c).tvec.toNat)

/-- The head context begins a routine in delegated mode (R284, R87). DESIGN CHOICE (log entry 79): its gtid reads as the requester's meanwhile. -/
def State.enterRoutine (s : State) (c t : Nat) (target : Option Nat) (m : DelegMsg) : State :=
  let h := s.ctx c 0
  let s := s.modCore c fun k =>
    { k with delq := k.delq.drop 1
             head := { k.head with routine := some m, retBlk := target, savedAsid := h.asid, savedGen := h.gen, savedGtid := h.gtid } }
  (s.modCtx c 0 fun x =>
    (List.range 4).foldl (fun x i => x.setOx i (m.args.getD i 0)) { x with asid := m.asid, gen := m.gen, gtid := m.gtid }).headGo
    c t (some m.routine)

/-- The head context's next block, when its own is at `target`: in a handler or routine that block; else the handler, if a
record is queued and tvec is not 0; else the oldest routine; else its own (R284, R356). -/
def State.headNext (s : State) (c t : Nat) (target : Option Nat) : State :=
  let k := s.core c
  if k.head.handler || k.head.routine.isSome then s.headGo c t target
  else if k.tvec ≠ 0 ∧ !k.trapq.isEmpty then s.enterHandler c t target
  else match k.delq with
    | m :: _ => s.enterRoutine c t target m
    | [] => (s.modCore c fun k => { k with head := { k.head with retBlk := none } }).headGo c t target

/-- The head context is between blocks: nothing in its window, nothing fetched, nothing awaited. -/
def State.headFree (s : State) (c : Nat) : Bool :=
  let t := s.ctx c 0
  let h := (s.core c).head
  t.blk.isNone && t.fetch.isNone && t.after.isEmpty && !h.handler && h.routine.isNone

/-- The head context looks for work if it is between blocks. -/
def State.headLook (s : State) (c : Nat) : State :=
  let k := s.core c
  if s.headFree c && !s.stopped c && ((k.tvec != 0 && !k.trapq.isEmpty) || !k.delq.isEmpty || k.head.retBlk.isSome) then
    s.headNext c (s.nextRot c) k.head.retBlk
  else s

/-- TRAP_HANDLER_ENTRY (R356). -/
def execTrapHandlerEntry (s : State) : Outcome :=
  match s.ev with
  | .trapHandlerEntry c => .next (s.headLook c)
  | _ => .next s

/-- DELEGATION_BEGIN (R284). -/
def execDelegationBegin (s : State) : Outcome :=
  match s.ev with
  | .delegationBegin c => .next (s.headLook c)
  | _ => .next s

/-! ### DELEG and DCALL (R282, R283) -/

/-- DELEG and DCALL fire (R282): VUNDEF of an argument register, ALIGN of the routine's address, then the checks of L. DESIGN CHOICE
(log entry 78): ESCAPE of a STRICT launch comes after them all. -/
def State.fireDeleg (s : State) (pm : Pm) (call : Bool) (g : Nat) : State :=
  if s.offScalar pm then s.fired true
  else
    let c := s.cur.core
    let t := s.cctx
    let a := s.slot.l.tok.scal.toNat
    let b := s.slot.r.tok.scal.toNat
    match (List.range 4).find? fun r => (t.oxReg r).st != .full with
    | some r => s.raise (vundef .ox r (t.oxReg r).st)
    | none =>
      if b % 8 ≠ 0 then s.raise { code := .align, va := b }
      else
        let go (s : State) (dst : Nat) : State :=
          if s.strict c s.cur.ctx then s.raise { code := .escape, va := a }
          else s.fired false (.deleg
            { call := call, src := c, sctx := s.cur.ctx, dst := dst, reg := g, routine := b, asid := t.asid, gen := t.gen
              gtid := t.gtid, addr := BitVec.ofNat 64 a, args := (List.range 4).map fun i => (t.oxReg i).val
              rblk := t.blkAddr, rslot := s.cur.slot })
        s.withLeaf a (fun s => go s c) fun l s =>
          if l.isAlias || l.cls != .priv then s.raise { code := .prot, va := a } else go s l.owner

/-- DELEG (R282). -/
def execDeleg (pm : Pm) (s : State) : Outcome := .next (s.fireDeleg pm false 0)
/-- DCALL (R282). -/
def execDcall (pm : Pm) (g : BitVec 6) (s : State) : Outcome := .next (s.fireDeleg pm true g.toNat)

/-- A committed request leaves in cycle `e` at the earliest, once the acceptances of R231 have returned, or waits behind an
earlier one (R283). -/
def State.releaseDeleg (s : State) (e : Nat) (m : DelegMsg) : State :=
  let t := s.ctx m.src m.sctx
  let (n, s) := s.freshId
  let m := { m with wait := (t.outs.filter (·.2)).map (·.1), ord := n }
  if t.delegWaits m.dst then s.modCtx m.src m.sctx fun t => { t with delegs := t.delegs ++ [(m, false)] }
  else s.hold m.src ⟨m.sctx, m.wait, e, .deleg m⟩

/-- The register that a DCALL left EMPTY completes (R285), with the reply or INVALID. -/
def State.endDcall (s : State) (c x r : Nat) (v : W64) (ok : Bool) : State :=
  match (s.ctx c x).prods.find? fun p => p.kind == .dcall && p.file == .gr && p.reg == r with
  | some p => s.endProducer c x .gr r (v.setWidth 1024) ok p.id
  | none => s

/-- DELEGATION_ARRIVAL (R283). -/
def execDelegationArrival (s : State) : Outcome :=
  match s.ev with
  | .delegationArrival m =>
    let s := s.countRecv m.dst
    let reply (k : Option FaultCode) : State := s.sendCounted (s.now + 2) m.dst (.delegRefused m k)
    if (s.core m.dst).fenced then .next (s.answerFenced m.src m.dst (.delegRefused m (some .fenced)))
    else if ((s.pkg (pkgOf m.dst)).run? (lidOf m.gtid)).isNone then .next (reply (some .prot))
    else if (s.core m.dst).mustFollow m.mark || decide (16 ≤ (s.core m.dst).delq.length) then
      .next ((reply none).noteRefused m.dst m.mark true)
    else .next (((s.modCore m.dst fun k => { k with delq := k.delq ++ [m] }).noteRefused m.dst m.mark false).sched s.now (.delegationBegin m.dst))
  | _ => .next s

/-- Requests that waited behind one that is sent again or given up go on (R283). -/
def State.freeDelegs (s : State) (m : DelegMsg) : State :=
  let t := s.ctx m.src m.sctx
  let mine (e : DelegMsg × Bool) : Bool := e.1.dst == m.dst
  let go := (t.delegs.filter mine).takeWhile fun e => !e.2
  let rest := (t.delegs.filter mine).dropWhile fun e => !e.2
  let s := s.modCtx m.src m.sctx fun t => { t with delegs := (t.delegs.filter fun e => !mine e) ++ rest }
  go.foldl (fun s e =>
    let (u, s) := s.outSlot m.src s.now
    let wait := e.1.wait.filter fun i => (s.ctx m.src m.sctx).outs.any fun o => o.1 == i
    s.hold m.src ⟨m.sctx, wait, u, .deleg e.1⟩) s

/-- DELEGATION_REFUSAL (R283): a fault reaches the requester, with an INVALID register for DCALL; a full queue is tried again
after 64 rotations, at most 16 times. A fenced core's boundary router answers it with FENCED, for which nothing waits (R369). -/
def execDelegationRefusal (s : State) : Outcome :=
  match s.ev with
  | .delegationRefusal m cause =>
    let s := s.countRecv m.src
    let give (k : FaultCode) : State :=
      let s := if m.call then s.endDcall m.src m.sctx m.reg 0 false else s
      ((s.postDeferred (msgRec m.src m.sctx m.gtid m.addr.toNat m.rblk m.rslot k)).noteRefused m.dst m.mark false).freeDelegs m
    if (s.core m.src).fenced then .next s
    else match cause with
    | some k => .next (give k)
    | none =>
      if 15 ≤ m.tries then .next (give .qfull)
      else
        let m := { m with tries := m.tries + 1 }
        .next ((s.modCtx m.src m.sctx fun t => { t with delegs := insertOrd DelegMsg.ord (m, true) t.delegs }).sched (s.now + 1024) (.delegationRetry m))
  | _ => .next s

/-- DELEGATION_RETRY (R283): behind an earlier one that still awaits its retry it waits on. -/
def execDelegationRetry (s : State) : Outcome :=
  match s.ev with
  | .delegationRetry m =>
    let first := (s.ctx m.src m.sctx).delegs.find? fun e => e.1.dst == m.dst
    if !(s.ctx m.src m.sctx).delegs.contains (m, true) then .next s
    else if first ≠ some (m, true) then
      .next (s.modCtx m.src m.sctx fun t => { t with delegs := t.delegs.map fun e => if e = (m, true) then (m, false) else e })
    else
      let s := s.modCtx m.src m.sctx fun t => { t with delegs := t.delegs.erase (m, true) }
      let (u, s) := s.outSlot m.src s.now
      .next ((s.sendCounted u m.src (.deleg m)).freeDelegs m)
  | _ => .next s

/-! ### DRET and replies (R285, R286) -/

/-- DRET (R285): PRIV outside delegated mode. -/
def execDret (pm : Pm) (s : State) : Outcome :=
  let c := s.cur.core
  if s.offScalar pm then .next (s.fired true)
  else if s.cur.ctx ≠ 0 ∨ (s.core c).head.routine.isNone then .next (s.raise { code := .priv })
  else if s.strict c 0 then .next (s.raise { code := .escape })
  else .next (s.fireExit { kind := .dret, value := s.slot.l.tok.scal })

/-- A routine ends (R285): the reply of a DCALL leaves, and the head context's own address space returns. -/
def State.endRoutine (s : State) (c c0 : Nat) (v : W64) : State :=
  match (s.core c).head.routine with
  | none => s
  | some m =>
    let h := (s.core c).head
    let s := if m.call then s.sendCounted (c0 + 2) c (.reply m.src m.sctx m.reg v) else s
    let s := s.modCore c fun k => { k with head := { k.head with routine := none } }
    s.modCtx c 0 fun t => { t with asid := h.savedAsid, gen := h.savedGen, gtid := h.savedGtid }

/-- DCALL_REPLY (R285). -/
def execDcallReply (s : State) : Outcome :=
  match s.ev with
  | .dcallReply c x r v => .next ((s.countRecv c).endDcall c x r v true)
  | _ => .next s

/-- ROUTINE_FAULT_REPLY (R286): a deferred fault for the requester that names the routine's block. -/
def execRoutineFaultReply (s : State) : Outcome :=
  match s.ev with
  | .routineFaultReply m k =>
    let s := s.countRecv m.src
    let s := if m.call then s.endDcall m.src m.sctx m.reg 0 false else s
    if (s.core m.src).fenced then .next s
    else .next (s.postDeferred { msgRec m.src m.sctx m.gtid k.va m.rblk m.rslot k.code with
      dlg := true, sub := k.sub, file := k.file, emp := k.emp, cmb := k.cmb, more := k.more })
  | _ => .next s

end Sys2Proof.Machine
end

