-- ==== Sys2Proof/Machine/Tables.lean ====
section
/-!
DEFINITION. System tables and the instructions that write them (R288 to R305, R370): TBLW with its table codes, TLBI and
GENB, their completion, and the correction history.
-/

namespace Sys2Proof.Machine

/-! ### Firing (R76, R284, R290) -/

/-- A class H instruction fires (R76, R284): PRIV in a context other than 0, or in delegated mode. -/
def State.fireHead (s : State) (pm : Pm) (f : State → Except Cause Eff) : State :=
  s.fireEff pm fun s =>
    if s.cur.ctx ≠ 0 ∨ s.ccore.head.routine.isSome then .error { code := .priv } else f s

/-- The number of entries of the tables of codes 1 to 6 (R288, R290). -/
def tableSize (code : Nat) : Nat :=
  match code with
  | 1 => 4096 | 2 => 64 | 3 => 64 | 4 => 16 | 5 => 32 | 6 => 1536 * 4096 | _ => 2 ^ 52

/-- The number of ox registers a table's data takes (R290). -/
def tableWords (code : Nat) : Nat :=
  match code with
  | 3 | 6 | 7 => 1
  | 4 => 4
  | _ => 2

/-- A word of the data. -/
def dataWord (ws : List W64) (i : Nat) : Nat := (ws.getD i 0).toNat

/-- A stream entry's set `s` (R298). -/
def streamSetOf (e s : Nat) : StreamSet :=
  let b := 20 * s
  ⟨bitOf e (b + 18), bitsOf e (b + 16) 2, bitsOf e (b + 12) 4, bitsOf e (b + 6) 6, bitsOf e b 6⟩

/-- A stream entry from its 128 bits (R298). -/
def streamOf (e : Nat) : StreamEntry :=
  { v := bitOf e 84, cur := bitsOf e 82 2, nset := bitsOf e 80 2, sets := (List.range 4).map (streamSetOf e) }

/-- An operation code of a set is admitted (R298): forward, or a combination, SUM with 64-bit words only. -/
def StreamSet.ok (q : StreamSet) : Bool := q.op == 0 || (decide (8 ≤ q.op) && decide (q.op ≤ 12) && (q.op != 12 || q.width == 3))

/-- A containment rectangle from its word (R301); a write clears its fence. -/
def containOf (w : Nat) : Contain := ⟨bitOf w 0, false, ⟨bitsOf w 2 8, bitsOf w 10 8, bitsOf w 18 8, bitsOf w 26 8⟩⟩

/-- A format window from its words (R302). -/
def windowOf (ws : List W64) : Window :=
  { v := bitOf (dataWord ws 0) 0, bfx4 := bitOf (dataWord ws 0) 1, abase := bitsOf (dataWord ws 0) 16 36
    nblk := bitsOf (dataWord ws 1) 0 32, pbase := bitsOf (dataWord ws 2) 0 52, pfill := bitOf (dataWord ws 2) 63
    sbase := bitsOf (dataWord ws 3) 0 52, sfill := bitOf (dataWord ws 3) 63 }

/-- A breakpoint from its words (R304). -/
def bkptOf (ws : List W64) : Bkpt :=
  { v := bitOf (dataWord ws 0) 0, any := bitOf (dataWord ws 0) 1, act := bitsOf (dataWord ws 0) 2 2
    blk := bitsOf (dataWord ws 0) 16 48, gtid := ws.getD 1 0 }

/-- The attributes that TBLW code 7 gives a frame (R297), or none where they are not admitted. -/
def frameAttrOf (w : Nat) : Option (Option LatAttr) :=
  if bitsOf w 11 53 ≠ 0 then none
  else if !bitOf w 10 then some none
  else (latAttr? (bitsOf w 0 3) (bitsOf w 3 2) (bitsOf w 5 1) (bitsOf w 6 4)).map some

/-- The data fields of a table write are in range (R290, R291, R293, R297, R298, R301, R302, R304). -/
def tableData (code : Nat) (ws : List W64) : Bool :=
  let e := dataWord ws 0 + 2 ^ 64 * dataWord ws 1
  match code with
  | 0 => bitsOf e 87 41 == 0 && bitsOf e 56 8 == 0 && !bitOf e 17 && bitsOf e 1 2 != 3
  | 1 => bitsOf e 52 76 == 0 && bitsOf e 1 11 == 0
  | 2 => (streamOf e).sets.all StreamSet.ok
  | 3 =>
    let r := (containOf e).rect
    decide (r.col0 ≤ r.col1) && decide (r.col1 ≤ 191) && decide (r.row0 ≤ r.row1) && decide (r.row1 ≤ 135)
  | 4 =>
    let w := windowOf ws
    w.nblk != 0 && w.pbase % (if w.bfx4 then 16 else 32) == 0 && w.sbase % 2 == 0
  | 5 => bitsOf e 16 3 == 0 && decide (bitsOf e 2 2 < 2)
  | 6 => dataWord ws 0 == 0
  | _ => (frameAttrOf (dataWord ws 0)).isSome

/-- The alignment of an address that a table write names. -/
def tableAlign (code : Nat) : Nat := match code with | 0 => 16 | 7 => 65536 | _ => 1

/-- TBLW fires (R290): its selector, the registers its code reads, its index and alignment, its data. -/
def State.fireTblw (s : State) (pm : Pm) (code : Nat) : State :=
  s.fireHead pm fun s =>
    let l := s.slot.l.tok.scal.toNat
    let idx := bitsOf l 0 52
    let bad (k : FaultCode) : Except Cause Eff := .error { code := k, va := if k = .align then idx else 0 }
    if bitsOf l 60 4 ≠ 0 ∨ bitsOf l 52 4 ≠ 0 ∨ bitsOf l 56 4 ≠ code then bad .lbound
    else match (List.range (tableWords code)).find? fun r => (s.cctx.oxReg r).st != .full with
    | some r => .error (vundef .ox r (s.cctx.oxReg r).st)
    | none =>
      let ws := (List.range (tableWords code)).map fun r => (s.cctx.oxReg r).val
      if tableSize code ≤ idx ∨ ((code = 0 ∨ code = 7) ∧ !paOk idx) then bad .lbound
      else if idx % tableAlign code ≠ 0 then bad .align
      else if !tableData code ws then bad .lbound
      else .ok (.tblw code idx ws)

/-- TBLW code 0, and the codes 8 to 15, which raise LBOUND (R290, R291). -/
def execTblwTranslation (pm : Pm) (s : State) : Outcome := .next (s.fireTblw pm 0)
/-- TBLW code 1 (R293). -/
def execTblwAsidRoot (pm : Pm) (s : State) : Outcome := .next (s.fireTblw pm 1)
/-- TBLW code 2 (R298). -/
def execTblwStreamEntry (pm : Pm) (s : State) : Outcome := .next (s.fireTblw pm 2)
/-- TBLW code 3 (R301). -/
def execTblwContainment (pm : Pm) (s : State) : Outcome := .next (s.fireTblw pm 3)
/-- TBLW code 4 (R302). -/
def execTblwFormatWindow (pm : Pm) (s : State) : Outcome := .next (s.fireTblw pm 4)
/-- TBLW code 5 (R304). -/
def execTblwBreakpoint (pm : Pm) (s : State) : Outcome := .next (s.fireTblw pm 5)
/-- TBLW code 6 (R305). -/
def execTblwCorrectionHistory (pm : Pm) (s : State) : Outcome := .next (s.fireTblw pm 6)
/-- TBLW code 7 (R297). -/
def execTblwFrameState (pm : Pm) (s : State) : Outcome := .next (s.fireTblw pm 7)

/-- TLBI (R295). -/
def execTlbi (pm : Pm) (s : State) : Outcome :=
  .next (s.fireHead pm fun s =>
    let l := s.slot.l.tok.scal.toNat
    if bitsOf l 62 2 = 3 ∨ bitsOf l 12 50 ≠ 0 then .error { code := .lbound }
    else .ok (.tlbi (bitsOf l 62 2) (bitsOf l 0 12) s.slot.r.tok.scal.toNat))

/-- GENB (R294). -/
def execGenb (pm : Pm) (s : State) : Outcome :=
  .next (s.fireHead pm fun s =>
    let l := s.slot.l.tok.scal.toNat
    if 4096 ≤ l then .error { code := .lbound } else .ok (.genb l))

/-! ### The effects -/

/-- The path time to a home, through the ports for another package (R17, R386), if there is a way. -/
def State.homePath (s : State) (c pa : Nat) : Option Nat :=
  let h := homeOf pa
  let p := pkgOf c
  if paPkg pa = p then some (meshTime (routerOf c) (xtalRouter h))
  else
    let e := (s.pkg p).portmap.get 0 (paPkg pa)
    let n := e.toNat % 32
    match s.farPort p n (paPkg pa) with
    | some far =>
      if e.getLsbD 5 then
        let q := s.port p n
        some (meshTime (routerOf c) (portRouter p n) + (if q.switched then 80 + q.f + 80 else 80) + meshTime (portRouter (paPkg pa) far) (xtalRouter h))
      else none
    | none => none

/-- A mailbox command waits while its service core is in another (R382). -/
def State.inMailbox (s : State) (svc : Nat) (k : State → State) : State :=
  match (s.pkg (pkgOf svc)).cmds.get? svc with
  | some q => s.modPkg (pkgOf svc) fun k => { k with cmds := k.cmds.put svc (q ++ [s.ev]) }
  | none => k s

/-- A service core's command takes time: those behind it wait (R382). -/
def State.commandBegins (s : State) (svc : Nat) : State := s.modPkg (pkgOf svc) fun k => { k with cmds := k.cmds.put svc [] }

/-- A service core's command is complete, if it is in one: it is answered, and those behind it are taken in their order (R382). -/
def State.commandDone (s : State) (svc : Nat) : State :=
  let p := pkgOf svc
  match (s.pkg p).cmds.get? svc with
  | some q => (((s.modPkg p fun k => { k with cmds := k.cmds.drop svc }).toHost p (.success svc [])).schedFirst s.now q)
  | none => s

/-- A step of a system operation of a core: applied, or (true) complete, in cycle `t`. -/
def State.sysStep (s : State) (c t : Nat) (done : Bool) (o : SysOp) : State :=
  (s.modCore c fun k => { k with sysops := k.sysops ++ [(t, done, o)] }).sched t (.systemOpComplete c)

/-- A table entry is written (R288). A write of a fenced containment entry readmits traffic once it is complete (R301). A frame's reassignment begins here and ends 1,024 cycles later (R297). -/
def State.writeTable (s : State) (c code idx : Nat) (ws : List W64) : State :=
  let p := pkgOf c
  let e := dataWord ws 0 + 2 ^ 64 * dataWord ws 1
  match code with
  | 0 => s.writeMem idx (leBytes e 16)
  | 1 => s.modPkg p fun k => { k with roots := k.roots.put idx (BitVec.ofNat 128 e) }
  | 2 => (s.modCore c fun k => { k with streams := k.streams.put idx (streamOf e) }).runStream c idx
  | 3 =>
    let old := (s.pkg p).rects.get {} idx
    let s := s.modPkg p fun k => { k with rects := k.rects.put idx (containOf e) }
    if old.fenced then s.sysStep c (s.now + 256) false (.unfence old.rect) else s
  | 4 => s.modPkg p fun k => { k with windows := k.windows.put idx (windowOf ws) }
  | 5 => s.modPkg p fun k => { k with bkpts := k.bkpts.put idx (bkptOf ws) }
  | 6 => s.modXtal (p * 2048 + idx / 4096) fun k => { k with history := k.history.drop (idx % 4096) }
  | _ =>
    let h := homeOf idx
    let f := frameKey idx
    (s.modXtal h fun k => { k with frameBusy := k.frameBusy.put f (s.now + 1024) }).sched (s.now + 1024)
      (.frameReassign h f ((frameAttrOf (dataWord ws 0)).getD none))

/-- The entries a TLBI removes (R295). -/
def tlbiHits (scope asid va : Nat) (e : TlbEntry) : Bool :=
  match scope with
  | 0 => e.asid == asid
  | 1 => e.asid == asid && e.vpage == vpageOf e.leaf.big va
  | _ => true

/-- Entries leave every translation buffer of a package. -/
def State.purgeTlbs (s : State) (p : Nat) (hit : TlbEntry → Bool) : State :=
  let c (e : Nat × Core) : Nat × Core := if pkgOf e.1 = p then (e.1, { e.2 with tlb := e.2.tlb.filter fun x => !hit x }) else e
  let d (e : Nat × Die) : Nat × Die := if e.1 / 32 = p then (e.1, { e.2 with tlb := e.2.tlb.filter fun x => !hit x }) else e
  { s with cores := s.cores.map c, dies := s.dies.map d }

/-- A system operation takes effect. -/
def State.applySysOp (s : State) (c : Nat) (o : SysOp) : State :=
  match o with
  | .tlbi scope asid va => s.purgeTlbs (pkgOf c) (tlbiHits scope asid va)
  | .tblw code idx ws => s.writeTable c code idx ws
  | .genb _ => s
  | .unfence rect =>
    let p := pkgOf c
    let free (e : Nat × Core) : Nat × Core :=
      if pkgOf e.1 = p ∧ rect.has e.1 ∧ !((s.pkg p).rects.any fun q => q.2.v && q.2.fenced && q.2.rect.has e.1) then
        (e.1, { e.2 with fenced := false })
      else e
    let inside (r : Rect) : Bool := rect.col0 ≤ r.col0 && rect.row0 ≤ r.row0 && r.col1 ≤ rect.col1 && r.row1 ≤ rect.row1
    ({ s with cores := s.cores.map free } : State).modPkg p fun k => { k with fences := k.fences.filter fun r => !inside r }

/-- The head context parks until its operations are complete (R289). -/
def State.parkSys (s : State) (c : Nat) : State := s.modCtx c 0 fun t => { t with after := .sys :: t.after.filter (· != .sys) }

/-- A TBLW or TLBI of a core or service core whose message enters the router in cycle `e` (R289). -/
def State.startSysOp (s : State) (c e : Nat) (o : SysOp) : State :=
  let wide (s : State) : State := (s.sysStep c (e + 256) false o).sysStep c (e + 512) true o
  match o with
  | .tblw 2 _ _ => (s.sysStep c e false o).sysStep c e true o
  | .tblw 0 idx _ =>
    match s.homePath c idx with
    | some m => (s.sysStep c (e + m + 4) false o).sysStep c (e + 2 * m + 6) true o
    | none => (s.sysStep c (e + 2) true o).postDeferred { core := c, ctx := 0, cause := .fenced, va := idx }
  | .tblw 6 idx _ =>
    let m := meshTime (routerOf c) (xtalRouter (pkgOf c * 2048 + idx / 4096))
    (s.sysStep c (e + m + 4) false o).sysStep c (e + 2 * m + 6) true o
  | .tblw 7 idx _ =>
    match s.homePath c idx with
    | some m => (s.sysStep c (e + m) false o).sysStep c (e + 2 * m + 1026) true o
    | none => (s.sysStep c (e + 2) true o).postDeferred { core := c, ctx := 0, cause := .fenced, va := idx }
  | _ => wide s

/-- A head context's TBLW or TLBI is released; the context parks (R289). -/
def State.releaseSysOp (s : State) (c e : Nat) (o : SysOp) : State := (s.parkSys c).startSysOp c e o

/-- GENB begins (R294), for a head context or for a service core. -/
def State.startGenb (s : State) (p asid e : Nat) (core : Option Nat) : State :=
  (s.modPkg p fun k => { k with genbs := k.genbs ++ [{ asid := asid, core := core, next := e + 256 }] }).sched (e + 256) (.genbApply p asid)

/-- SYSTEM_OP_COMPLETE (R289): the steps of a core's operations that are due; a core of a lower index goes first. A stream entry is
written after all else of the cycle, and so after a step of it (R300). With the last operation complete the head context goes on. -/
def execSystemOpComplete (s : State) : Outcome :=
  match s.ev with
  | .systemOpComplete c =>
    let lower := s.agenda.any fun e => decide (e.1 ≤ s.now) && (match e.2 with
      | .systemOpComplete d => decide (d < c)
      | _ => false)
    let due := (s.core c).sysops.filter fun o => decide (o.1 ≤ s.now)
    let entry := due.any fun o => !o.2.1 && (match o.2.2 with
      | .tblw 2 _ _ => true
      | _ => false)
    let others := s.agenda.any fun e => decide (e.1 ≤ s.now) && (match e.2 with
      | .systemOpComplete _ => false
      | _ => true)
    if lower || (entry && others) then .next (s.sched s.now s.ev)
    else
      let s := s.modCore c fun k => { k with sysops := k.sysops.filter fun o => decide (s.now < o.1) }
      let s := due.foldl (fun s o => if o.2.1 then s else s.applySysOp c o.2.2) s
      let busy := !(s.core c).sysops.isEmpty || (s.pkg (pkgOf c)).genbs.any fun g => g.core == some c
      if !busy && isService c then .next (s.commandDone c)
      else if !busy && (s.ctx c 0).after.contains .sys then
        .next ((s.modCtx c 0 fun t => { t with after := t.after.filter (· != .sys) }).sched s.now (.trapHandlerEntry c))
      else .next s
  | _ => .next s

/-! ### Generations (R294) -/

/-- The cores of a package whose store buffers hold entries of an ASID. -/
def State.psbCores (s : State) (p asid : Nat) : List Nat :=
  (s.cores.filter fun e => pkgOf e.1 == p && e.2.psb.any fun b => b.asid == asid).map (·.1)

/-- A core takes the new generation of an ASID (R294). -/
def Core.newGen (k : Core) (asid g : Nat) : Core :=
  let sp (e : Spawn) : Spawn := if e.asid = asid then { e with gen := g } else e
  let ct (e : Nat × Ctx) : Nat × Ctx :=
    (e.1, { e.2 with gen := if e.2.asid = asid ∧ (e.2.st ≠ .vacant ∨ e.1 = 0) then g else e.2.gen
                     spawns := e.2.spawns.map fun q => (q.1, sp q.2.1, q.2.2) })
  { k with
      ctxs := k.ctxs.map ct, spawnq := k.spawnq.map sp
      head := if k.head.savedAsid = asid then { k.head with savedGen := g } else k.head
      bcache := k.bcache.filter fun l => !(l.asid == asid && l.gen == g) }

/-- The new generation reaches every home and core of a package (R237, R294). -/
def State.newGen (s : State) (p asid : Nat) : State :=
  let g := ((s.pkg p).genOf asid + 1) % 2 ^ 16
  let s := s.modPkg p fun k => { k with gens := k.gens.put asid g }
  let s := (s.xtals.filter fun e => e.1 / 2048 == p).foldl (fun s e =>
    let gone := (e.2.waiters ++ e.2.overflow).filter fun w => w.req.asid == asid
    let s := s.modXtal e.1 fun k =>
      { k with waiters := k.waiters.filter fun w => w.req.asid != asid, overflow := k.overflow.filter fun w => w.req.asid != asid }
    gone.foldl (fun s w => s.refuseReq e.1 w.req .stalegen) s) s
  let c (e : Nat × Core) : Nat × Core := if pkgOf e.1 = p then (e.1, e.2.newGen asid g) else e
  let i (e : Nat × Nat × Core) : Nat × Nat × Core := if pkgOf (e.1 / 65536) = p then (e.1, e.2.1, e.2.2.newGen asid g) else e
  ({ s with cores := s.cores.map c, images := s.images.map i }).purgeTlbs p fun e => e.asid == asid && e.gen == g

/-- GENB_APPLY (R294): the drain request reaches the cores; each core reports when it holds no entry of the ASID; then the
new generation arrives, and the acknowledgements return. -/
def execGenbApply (s : State) : Outcome :=
  match s.ev with
  | .genbApply p asid =>
    match (s.pkg p).genbs.find? fun g => g.asid == asid && g.next == s.now with
    | none => .next s
    | some g =>
      let put (g' : Genb) (s : State) : State :=
        (s.modPkg p fun k => { k with genbs := k.genbs.map fun q => if q = g then g' else q }).sched g'.next s.ev
      match g.phase with
      | 0 =>
        let now := s.psbCores p asid
        let left := (g.waiting.getD now).filter now.contains
        .next (if left.isEmpty then put { g with phase := 1, next := s.now + 512, waiting := some [] } s
          else put { g with next := s.now + 1, waiting := some left } s)
      | 1 => .next (put { g with phase := 2, next := s.now + 256 } (s.newGen p asid))
      | _ =>
        let s := s.modPkg p fun k => { k with genbs := k.genbs.erase g }
        match g.core with
        | some c => .next (s.sched s.now (.systemOpComplete c))
        | none => .next s
  | _ => .next s

/-! ### The correction history (R305, R370) -/

/-- SCRUB (R305, R370): a row is read; a corrected error is written back, which leaves the contents, and counted. -/
def execScrub (s : State) : Outcome :=
  match s.ev with
  | .scrub h bank row corrected => .next (s.modXtal h fun k => if corrected then k.corrected bank row else k)
  | _ => .next s

end Sys2Proof.Machine
end

