-- ==== Sys2Proof/Machine/Barriers.lean ====
section
/-!
DEFINITION. Barriers (R26, R314 to R326): BINIT, ARV, ARVD, BWT and ECOMB, the enrolment table, arrivals, drops, phases
and their completion at the root and at the member cores.
-/

namespace Sys2Proof.Machine

/-- A barrier identifier names an object (R26). -/
def barOk (b : Nat) : Bool :=
  match b / 256 with
  | 1 => decide (b % 256 < 8)
  | 2 => decide (b % 256 < 4)
  | 3 => decide (b % 256 < 64)
  | 4 => decide (b % 256 < 64)
  | 5 => decide (b % 256 < 16)
  | _ => false

/-- A barrier object. -/
def State.bar (s : State) (obj : Nat) : Bar := s.bars.get {} obj
/-- Changes a barrier object. -/
def State.modBar (s : State) (obj : Nat) (f : Bar → Bar) : State := { s with bars := s.bars.put obj (f (s.bar obj)) }

/-- A context's enrolment entry for an object (R315). -/
def Core.enrolOf (k : Core) (x bar : Nat) : Option Enrol := k.enrol.find? fun e => e.ctx == x && e.bar == bar
/-- Writes an enrolment entry. -/
def Core.setEnrol (k : Core) (e : Enrol) : Core :=
  { k with enrol := k.enrol.filter (fun f => !(f.ctx == e.ctx && f.bar == e.bar)) ++ [e] }

/-- The context that holds a thread's enrolment: the leading one of a pair (R365; DEDUCED, log entry 77). -/
def State.enrolCtx (s : State) (c x : Nat) : Nat := if (s.ctx c x).pair then leader x else x

/-- The contexts in a scope (R316). -/
def scopeContexts (scope : Nat) : Nat :=
  match scope with
  | 1 => 16 | 2 => 64 | 3 => 17408 | 4 => 417792 | _ => 106954752

/-! ### Firing (R314 to R317, R321, R325) -/

/-- An instruction with a barrier identifier in L fires (R314): LBOUND for an identifier that names no object. -/
def State.fireBar (s : State) (pm : Pm) (f : State → Nat → Except Cause Eff) : State :=
  s.fireEff pm fun s =>
    let b := s.slot.l.tok.scal.toNat
    if !barOk b then .error { code := .lbound } else f s b

/-- The object is initialised by the issuing context's launch, as its core knows (R317). -/
def State.barMine (s : State) (b : Nat) : Bool :=
  let o := s.bar (barKey s.cur.core b)
  o.kInit && o.kLid == lidOf s.cctx.gtid

/-- BINIT (R316). -/
def execBinit (pm : Pm) (s : State) : Outcome :=
  .next (s.fireBar pm fun s b =>
    let n := s.slot.r.tok.scal.toNat
    let o := s.bar (barKey s.cur.core b)
    let other := o.kInit && o.kLid != lidOf s.cctx.gtid && ((s.pkg o.pkg).run? o.kLid).isSome
    if n = 0 ∨ scopeContexts (b / 256) < n then .error { code := .lbound }
    else if other ∧ s.cur.ctx ≠ 0 then .error { code := .prot }
    else .ok (.binit b n))

/-- ARV and ARVD fire (R317). -/
def State.fireArrive (s : State) (pm : Pm) (drop : Bool) : State :=
  s.fireBar pm fun s b =>
    let e := s.ccore.enrolOf (s.enrolCtx s.cur.core s.cur.ctx) b
    let o := s.bar (barKey s.cur.core b)
    if !s.barMine b || (match e with | some e => e.dropped | none => decide (o.kE = 0)) then .error { code := .bovr }
    else .ok (.arrive b drop)

/-- ARV (R317). -/
def execArv (pm : Pm) (s : State) : Outcome := .next (s.fireArrive pm false)
/-- ARVD (R317). -/
def execArvd (pm : Pm) (s : State) : Outcome := .next (s.fireArrive pm true)

/-- BWT (R321): BOVR without an arrival since BINIT; one that a lower slot of the block has fired counts. -/
def execBwt (pm : Pm) (s : State) : Outcome :=
  .next (s.fireBar pm fun s b =>
    let own := (s.cblk.slots.take s.cur.slot).any fun q => match q.eff with
      | .arrive d _ => d == b
      | _ => false
    if own || (s.ccore.enrolOf (s.enrolCtx s.cur.core s.cur.ctx) b).isSome then .ok (.bwt b) else .error { code := .bovr })

/-- ECOMB (R325). -/
def execEcomb (pm : Pm) (s : State) : Outcome :=
  .next (s.fireBar pm fun s b => if s.barMine b then .ok (.ecomb b) else .error { code := .bovr })

/-! ### Release (R315, R318, R319, R322) -/

/-- The phase that a context's next arrival counts toward (R315). -/
def State.nextPhase (s : State) (c x b : Nat) : Nat :=
  match (s.core c).enrolOf (s.enrolCtx c x) b with
  | some e => e.next
  | none => (s.bar (barKey c b)).kP

/-- An arrival of a block would be for phase P + 4 (R318): `seen` counts the arrivals of the block before it. -/
def State.arrivalHeld (s : State) (c x : Nat) (effs : List Eff) : Bool :=
  (effs.foldl (fun (r : List Nat × Bool) e => match e with
    | .arrive b _ =>
      let q := s.nextPhase c x b + r.1.countP (· == b)
      (b :: r.1, r.2 || decide ((s.bar (barKey c b)).kP + 4 ≤ q))
    | _ => r) ([], false)).2

/-- The requests whose acceptances a release by a thread awaits (R231). -/
def Ctx.awaited (t : Ctx) : List Nat := (t.outs.filter (·.2)).map (·.1)

/-- A committed arrival in a commit rotation that begins at `c0` (R315, R317, R318, R322): the thread's next phase and its core's lead
counter advance; a dropped bit stays set. -/
def State.releaseArrive (s : State) (c x b : Nat) (drop : Bool) (c0 : Nat) : State :=
  let q := s.nextPhase c x b
  let out := match (s.core c).enrolOf x b with
    | some e => e.dropped
    | none => false
  let s := s.modCore c fun k => k.setEnrol ⟨b, x, drop || out, q + 1⟩
  let s := s.modBar (barKey c b) fun o => { o with leads := o.leads.put c (max (o.leads.get 0 c) (q - o.kP)) }
  s.hold c ⟨x, (s.ctx c x).awaited, c0 + 16, .arrive (barKey c b) [(q, x)] (if drop then [(q + 1, 1)] else []) (if drop then 1 else 0)⟩

/-- A committed ECOMB (R325). -/
def State.releaseEcomb (s : State) (c x b c0 : Nat) : State :=
  let vals := (List.range 16).map fun i => (s.core c).counter (0x030 + i)
  s.hold c ⟨x, (s.ctx c x).awaited, c0 + 16, .ecomb (barKey c b) (s.nextPhase c x b) vals⟩

/-- A committed BINIT (R316): it takes effect at c0 + 16 + U + D; its context parks until then. -/
def State.releaseBinit (s : State) (c x b n c0 : Nat) : State :=
  let obj := barKey c b
  ((s.team c x).foldl (fun s y => s.modCtx c y fun t => { t with after := t.after ++ [.binit] }) s).sched (c0 + 16 + 2 * s.barTime obj)
    (.binitTakeEffect obj (lidOf (s.ctx c x).gtid) n c x)

/-- A committed BWT (R321): the context parks until the phase of its most recent arrival is complete. -/
def State.releaseBwt (s : State) (c x b : Nat) : State :=
  let obj := barKey c b
  match (s.core c).enrolOf x b with
  | none => s
  | some e =>
    if e.next ≤ (s.bar obj).kP then s
    else (s.team c x).foldl (fun s y => s.modCtx c y fun t => { t with after := t.after ++ [.bwt obj (e.next - 1)] }) s

/-- A thread leaves its context for good (R319): it drops from every object it is enrolled in, from cycle `t`; `how` is 2 for
EXIT and 4 for KILL. Its entries are removed. -/
def State.dropBarriers (s : State) (c x how t : Nat) : State :=
  let es := (s.core c).enrol.filter fun e => e.ctx == x
  let s := s.modCore c fun k => { k with enrol := k.enrol.filter fun e => e.ctx != x }
  (es.filter fun e => !e.dropped).foldl (fun s e => s.sched t (.barrierArrivalDepart (barKey c e.bar) c [] [(e.next, 1)] how)) s

/-! ### The objects -/

/-- A core is a member of an object's scope. -/
def barHas (obj c : Nat) : Bool := barKey c (barId obj) == obj

/-- BINIT_TAKE_EFFECT (R316): the object and what its members know of it start afresh; contexts that wait on it, and held
arrivals to it, receive BOVR. -/
def execBinitTakeEffect (s : State) : Outcome :=
  match s.ev with
  | .binitTakeEffect obj lid count c x =>
    let b := barId obj
    let members := (s.cores.map (·.1)).filter (barHas obj)
    let waits (s : State) : List (Nat × Nat) := members.flatMap fun d => ((s.core d).ctxs.filter fun e =>
      e.2.after.any (fun w => match w with
        | .bwt o _ => o == obj
        | _ => false) ||
      (match e.2.blk with
        | some k => k.complete && s.arrivalHeld d e.1 ((k.slots.map (·.eff)).filter fun f => match f with
          | .arrive g _ => g == b
          | _ => false)
        | none => false)).map fun e => (d, e.1)
    let hit := waits s
    let fresh : Bar := { init := true, lid := lid, e := count, kInit := true, kLid := lid, kE := count, pkg := pkgOf c }
    let s := s.modBar obj fun _ => fresh
    let s := members.foldl (fun s d => s.modCore d fun k => { k with enrol := k.enrol.filter fun e => e.bar != b }) s
    let s := hit.foldl (fun s e => s.postDeferred { core := e.1, ctx := e.2, cause := .bovr }) s
    .next ((s.team c x).foldl (fun s y => s.modCtx c y fun t => { t with after := t.after.erase .binit }) s)
  | _ => .next s

/-- The expected count of a phase from the oldest incomplete one on (R314). -/
def Bar.expected (o : Bar) (q : Nat) : Int :=
  o.e - ((o.reds.filter fun r => decide (r.1 ≤ q)).map fun r => (r.2 : Int)).sum

/-- Drops reduce the expected count of a phase and every later one (R317, R319). -/
def Bar.drop (o : Bar) (ds : List (Nat × Nat)) : Bar :=
  ds.foldl (fun o d => if d.1 ≤ o.p then { o with e := o.e - d.2 } else { o with reds := o.reds.put d.1 (o.reds.get 0 d.1 + d.2) }) o

/-- Status bits counted into a phase. -/
def Bar.mark (o : Bar) (q how : Nat) : Bar := { o with how := o.how.put q (o.how.get 0 q ||| how) }

/-- The packages of the launch that has initialised an object. -/
def State.barPackages (s : State) (obj : Nat) : List Nat :=
  let o := s.bar obj
  match (s.pkg o.pkg).run? o.lid with
  | some r => r.rc.packages o.pkg
  | none => [o.pkg]

/-- The package at which a pod barrier has its root: the coordinator's (log entry 47). -/
def State.podRoot (s : State) (obj : Nat) : Nat := (s.barPackages obj).headD 0

/-- BARRIER_ARRIVAL_DEPART (R317, R319, R320, R322, R323): a message leaves its core, and counts at the root U cycles later. An
arrival above the expected count, or for a phase that is complete, is discarded, with BOVR for its context. -/
def execBarrierArrivalDepart (s : State) : Outcome :=
  match s.ev with
  | .barrierArrivalDepart obj c counts drops how =>
    let u := s.barTime obj
    if how < 8 then
      .next ((if barScope obj = 5 then s.barrierHop (pkgOf c) (s.podRoot obj) else s).sched (s.now + u)
        (.barrierArrivalDepart obj c counts drops (how + 8)))
    else
      let s := counts.foldl (fun s a =>
        let o := s.bar obj
        if a.1 < o.p ∨ o.expected a.1 < (o.counts.get 0 a.1 : Int) + 1 then
          s.sched (s.now + u) (.deferredFault { core := c, ctx := a.2, cause := .bovr } .ctx 0 false)
        else s.modBar obj fun o => { o with counts := o.counts.put a.1 (o.counts.get 0 a.1 + 1) }) s
      let q := match counts, drops with
        | a :: _, _ => a.1
        | [], d :: _ => d.1
        | [], [] => 0
      let s := s.modBar obj fun o => (o.drop drops).mark q (how % 8)
      .next (s.sched s.now (.phaseComplete obj))
  | _ => .next s

/-- PHASE_COMPLETE (R320, R324, R325): the oldest incomplete phase completes when its arrivals equal its expected count, which
is not 0; the completion travels D cycles to the members. -/
def execPhaseComplete (s : State) : Outcome :=
  match s.ev with
  | .phaseComplete obj =>
    let o := s.bar obj
    if !o.init || decide (o.e ≤ 0) || decide ((o.counts.get 0 o.p : Int) ≠ o.e) then .next s
    else
      let p := o.p
      let e := o.expected (p + 1)
      let s := s.modBar obj fun o =>
        { o with p := p + 1, e := e, reds := o.reds.drop (p + 1), counts := o.counts.drop p, how := o.how.drop p, recs := o.recs.drop p
                 news := o.news.put p (e, o.how.get 0 p, o.recs.get (List.replicate 16 0) p) }
      let s := if barScope obj = 5 then (s.barPackages obj).foldl (fun s q => s.barrierHop (s.podRoot obj) q) s else s
      .next ((s.sched (s.now + s.barTime obj) (.phaseCompletionArrive obj p)).sched s.now (.phaseComplete obj))
  | _ => .next s

/-- The waits of a context without those for phases of an object up to `p` (R321). -/
def Ctx.wakeBwt (t : Ctx) (obj p : Nat) : Ctx :=
  { t with after := t.after.filter fun w => match w with
      | .bwt o q => !(o == obj && decide (q ≤ p))
      | _ => true }

/-- A core learns, when a stop ends, of the phases that were completed in it (R326). -/
def State.learnPhases (s : State) (c : Nat) : State :=
  s.modCore c fun k => { k with ctxs := k.ctxs.map fun e =>
    (e.1, { e.2 with after := e.2.after.filter fun w => match w with
      | .bwt o q => decide ((s.bar o).kP ≤ q)
      | _ => true }) }

/-- PHASE_COMPLETION_ARRIVE (R318, R321, R323, R326): the member cores learn of the completion; their lead counters fall, and contexts
whose phase it completes wake, those of a stopped core when its stop ends. -/
def execPhaseCompletionArrive (s : State) : Outcome :=
  match s.ev with
  | .phaseCompletionArrive obj p =>
    match (s.bar obj).news.get? p with
    | none => .next s
    | some (e, how, rec_) =>
      let s := s.modBar obj fun o =>
        { o with kP := p + 1, kE := e, kStat := how, kRec := rec_, news := o.news.drop p
                 leads := o.leads.map fun l => (l.1, l.2 - (p + 1 - o.kP)) }
      let wake (e : Nat × Ctx) : Nat × Ctx := (e.1, e.2.wakeBwt obj p)
      let core (e : Nat × Core) : Nat × Core :=
        if barHas obj e.1 && !s.stopped e.1 then (e.1, { e.2 with ctxs := e.2.ctxs.map wake }) else e
      let image (e : Nat × Nat × Core) : Nat × Nat × Core :=
        if barHas obj (e.1 / 65536) ∧ (s.bar obj).kLid = e.2.1 then (e.1, e.2.1, { e.2.2 with ctxs := e.2.2.ctxs.map wake }) else e
      .next { s with cores := s.cores.map core, images := s.images.map image }
  | _ => .next s

/-- ECOMB_ADD (R325): the root adds the values into the record of the oldest incomplete phase that is not below the sender's. -/
def execEcombAdd (s : State) : Outcome :=
  match s.ev with
  | .ecombAdd obj phase vals =>
    .next (s.modBar obj fun o =>
      let q := max phase o.p
      let old := o.recs.get (List.replicate 16 0) q
      { o with recs := o.recs.put q ((old.zip vals).map fun (a, v) => (a + v) % 2 ^ 64) })
  | _ => .next s

/-- A core's lead counter for an object (R314, R318): how far its newest arrival is ahead of the completed phases. -/
def State.lead (s : State) (c b : Nat) : Nat := (s.bar (barKey c b)).leads.get 0 c

/-- The status word of a barrier (R324), in the copy of a core. -/
def State.barStatus (s : State) (c b : Nat) : W64 :=
  let o := s.bar (barKey c b)
  BitVec.ofNat 64 (o.kE.toNat % 2 ^ 32 * 2 ^ 32 + o.kP % 2 ^ 24 * 2 ^ 8 + s.lead c b % 4 * 2 ^ 6
    + (if o.kInit then 8 else 0) + (if bitOf o.kStat 2 then 4 else 0) + (if bitOf o.kStat 1 then 2 else 0)
    + (if bitOf o.kStat 0 then 1 else 0))

end Sys2Proof.Machine
end

