-- ==== Sys2Proof/Machine/Counters.lean ====
section
/-!
DEFINITION. The counter instructions (R309 to R311, R328, R332, R333): RCNT, WCNT, DIGR, TRMK and HBT.
-/

namespace Sys2Proof.Machine

/-- A number that names a counter with an overflow flag (R309), as the issuing context's numbering gives it. -/
def flagCounter (x n : Nat) : Option Nat :=
  if 0x030 ≤ n ∧ n ≤ 0x03F then some n
  else if 0x040 ≤ n ∧ n ≤ 0x043 then some (slotCounter x (n - 0x040))
  else if (0x100 ≤ n ∧ n ≤ 0x140) ∨ (0x150 ≤ n ∧ n ≤ 0x160) then some n
  else none

/-- The value RCNT delivers for a number, or none where R309 raises LBOUND. -/
def State.rcount (s : State) (c x n : Nat) : Option W64 :=
  let k := s.core c
  if n = 0x007 ∨ n = 0x182 then some (s.creg c x n)
  else if n = 0x181 then some (BitVec.ofInt 64 (s.die (dieOf c)).erem)
  else if 0x8000 ≤ n ∧ n < 0x10000 then (flagCounter x (n - 0x8000)).map fun m => if k.overflowed m then 1 else 0
  else if 0x10000 ≤ n ∧ n < 0x20000 then
    let b := n - 0x10000
    if barOk b then some (s.barStatus c b) else none
  else if 0x20000 ≤ n then
    let b := (n - 0x20000) / 16
    if barOk b then some (BitVec.ofNat 64 ((s.bar (barKey c b)).kRec.getD (n % 16) 0)) else none
  else (flagCounter x n).map fun m => BitVec.ofNat 64 (k.counter m)

/-- RCNT (R308 to R310). DESIGN CHOICE (log entry 78): ESCAPE of a STRICT launch comes before LBOUND. -/
def execRcnt (pm : Pm) (t0 : BitVec 8) (s : State) : Outcome :=
  let c := s.cur.core
  let x := s.cur.ctx
  if s.offScalar pm then .next (s.fireNull [t0])
  else if s.strict c x then .next (s.raise { code := .escape })
  else .next (s.paired [t0] fun s =>
    match s.rcount c x s.slot.l.tok.scal.toNat with
    | some v => s.deliverValue [t0] v
    | none => s.raise { code := .lbound })

/-- What WCNT of a number does (R309): LBOUND outside the space, PRIV where no write is allowed. -/
def wcntCheck (x n : Nat) : Option FaultCode :=
  let m := if 0x8000 ≤ n ∧ n < 0x10000 then n - 0x8000 else n
  if m = 0x007 ∨ m = 0x181 ∨ m = 0x182 then (if m = n then some .priv else some .lbound)
  else if 0x10000 ≤ n ∧ n < 0x20000 then (if barOk (n - 0x10000) then some .priv else some .lbound)
  else if 0x20000 ≤ n then (if barOk ((n - 0x20000) / 16) then some .priv else some .lbound)
  else match flagCounter x m with
    | none => some .lbound
    | some _ => if m ≤ 0x03F ∨ (0x100 ≤ m ∧ x = 0) then none else some .priv

/-- WCNT (R309, R311). -/
def execWcnt (pm : Pm) (s : State) : Outcome :=
  .next (s.fireEff pm fun s =>
    let n := s.slot.l.tok.scal.toNat
    match wcntCheck s.cur.ctx n with
    | some k => .error { code := k, va := n }
    | none => .ok (.wcnt n s.slot.r.tok.scal))

/-- The newest sum of a die's digest slot that is ready (R332): a sum is ready 256 cycles after its values are taken. -/
def State.readyDigest (s : State) (d slot : Nat) : Nat :=
  let k := s.die d
  (((k.digrNext.filter fun e => decide (e.1 ≤ s.now)).getLast?).map (·.2) |>.getD k.digr).get 0 slot

/-- DIGR (R332): the newest ready sum of the issuing launch's digest slot on the die. -/
def execDigr (pm : Pm) (t0 : BitVec 8) (s : State) : Outcome :=
  let c := s.cur.core
  if s.offScalar pm then .next (s.fireNull [t0])
  else if s.strict c s.cur.ctx then .next (s.raise { code := .escape })
  else .next (s.paired [t0] fun s =>
    let v := match s.runOf c s.cur.ctx with
      | some r => s.readyDigest (dieOf c) r.slot
      | none => 0
    s.deliverValue [t0] (BitVec.ofNat 64 v))

/-- TRMK (R333). -/
def execTrmk (pm : Pm) (s : State) : Outcome := .next (s.fireEff pm fun s => .ok (.trmk s.slot.l.tok.scal))
/-- HBT, W form (R328). -/
def execHbt (pm : Pm) (s : State) : Outcome := .next (s.fireEff pm fun _ => .ok .hbt)
/-- HBT, H form (R328). -/
def execHbtH (pm : Pm) (s : State) : Outcome := .next (s.fireEff pm fun _ => .ok .hbt)

end Sys2Proof.Machine
end

