-- ==== Sys2Proof/Machine/Parked.lean ====
section
/-!
DEFINITION. What a context waits for (R53, R83, R172, R198, R241, R257, R312, R318, R338, R376): the further conditions of
a commit, whether a context is parked, on what, and how its wait is charged.
-/

namespace Sys2Proof.Machine

/-- The requests that an effect adds to the outstanding count (R241). -/
def Eff.requests : Eff → Nat
  | .reqs _ rs => rs.length
  | .freeze rs => rs.length
  | .wait _ => 1
  | .sched _ => 1
  | _ => 0

/-- The register that an effect leaves EMPTY (R82). -/
def Eff.dest? : Eff → Option (RegFile × Nat)
  | .wait r => some (.gr, r.dst)
  | .sched r => some (.gr, r.dst)
  | .copy _ g => if g = 0 then Option.none else some (.gr, g)
  | .tile e => match e.op with
    | .tckv => some (.gr, e.reg)
    | .trow => some (.vr, e.reg)
    | _ => Option.none
  | .deleg m => if m.call then some (.gr, m.reg) else Option.none
  | .merge g _ _ => some (.gr, g)
  | _ => Option.none

/-- The bytes an effect stores to PRIV pages through the buffer, but for a dump's: those of a trap record are counted by their places
alone. -/
def Eff.privCells : Eff → List Host.Cell
  | .privStore cs => cs
  | .reapTrap pa => (List.range 64).map fun i => (pa + i, 0)
  | _ => []

/-- The effect is the dump of a context, which needs more entries than the buffer has (R353; log entry 26). -/
def Eff.isDump : Eff → Bool
  | .reapDump _ _ => true
  | _ => false

/-- The effects a block has recorded, in slot order. -/
def Block.effs (b : Block) : List Eff := b.slots.map (·.eff)

/-- The register a WR names (R105). -/
def Slot.wrReg? (q : Slot) : Option (RegFile × Nat) :=
  match q.instr? with
  | some (.wr f r) => some (f, r.toNat)
  | _ => none

/-- The registers whose EMPTY state holds a block's commit (R83, R105): those its WRs name, those its producers leave EMPTY, and g1 where
its exit writes the link there. -/
def Block.wants (b : Block) : List (RegFile × Nat) :=
  b.slots.filterMap Slot.wrReg? ++ b.effs.filterMap Eff.dest? ++
    (match b.exit with
      | some e => if e.kind = .call ∨ e.kind = .calli then [(.gr, 1)] else []
      | none => [])

/-- A wait: charged to memory or to a message, and on what (R312, R376). -/
structure Wait where
  memory : Bool
  on : WaitOn
deriving DecidableEq, Repr, Inhabited

/-- The wait for a register that a producer is to fill (R82, R376). -/
def Ctx.regWait (t : Ctx) (f : RegFile) (r : Nat) : Wait :=
  match t.prods.find? fun p => p.file == f && p.reg == r with
  | some p => ⟨!p.kind.msg, .reg f r (some p.kind) p.loc⟩
  | none => ⟨true, .reg f r none none⟩

/-- What a complete block waits for before it may commit, beside R53, if anything; waits on memory come first. -/
def State.commitWait (s : State) (c x : Nat) (b : Block) : Option Wait :=
  let t := s.ctx c x
  let k := s.core c
  let es := b.effs
  let empty := (b.wants.filter fun w => t.regState w.1 w.2 == .empty).map fun w => t.regWait w.1 w.2
  let tiles := es.countP fun e => match e with | .tile _ => true | _ => false
  let copies := es.countP fun e => match e with | .copy _ _ => true | _ => false
  let room := decide (k.fifo.length + tiles ≤ 8) && decide (k.copyq.length + k.copying.length + copies ≤ 8 ∨ copies = 0)
    && k.psbRoom (es.flatMap Eff.privCells) && (k.psb.isEmpty || !es.any Eff.isDump)
    && decide (t.outs.length + (es.map Eff.requests).sum ≤ 256)
  let held := s.arrivalHeld c x es
  let ws := empty ++ (if room then [] else [⟨true, .commit⟩]) ++ (if held then [⟨false, .commit⟩] else [])
  (ws.find? (·.memory)).or ws.head?

/-- The partner of a pair's context has a complete block of the same address (R365). -/
def State.pairReady (s : State) (c x : Nat) (b : Block) : Bool :=
  !(s.ctx c x).pair || (match (s.ctx c (partner x)).blk with
    | some d => d.complete && d.addr == b.addr
    | none => false)

/-- The queue that an instruction waits for, by the number QSTAT gives it (R269), or 11 for the load-value queue (R364, R376). -/
def State.queueWait (s : State) (c x : Nat) (b : Block) (i : Instr) (q : Slot) : Nat :=
  let k := s.core c
  match i with
  | .fork .. => 9
  | .mark _ => 4 + (((List.range 4).find? fun d => q.l.tok.scal.getLsbD d && !k.queueRoom d).getD 0)
  | i =>
    match (pushQueues i).find? fun d => !k.queueRoom d, i.popQueue? with
    | some d, _ => 4 + d
    | none, some d =>
      if decide (b.taken.get 0 d < (s.popWords c x d).length) || ((s.ctx c x).pair && x % 2 == 1) then 11
      else if d = 4 then 8 else d
    | none, none => 11

/-- Where a scan of the window stands still: the slot, and the register an RD waits for, or a queue. -/
def State.scanWait (s : State) (c x : Nat) (b : Block) : Option (Nat × Wait) :=
  let t := s.ctx c x
  (b.slots.zip (List.range b.slots.length)).findSome? fun (q, k) =>
    if q.fired then none
    else match q.instr? with
      | some i =>
        let parked : Option Wait := match i with
          | .rd f r _ _ => if t.regState f r.toNat = .empty then some (t.regWait f r.toNat) else none
          | _ => none
        if parked.isSome then parked.map fun w => (k, w)
        else if q.walking || !operandsPresent q i.needs || !loadOrder b k i || s.roomFor c x b k q i then none
        else some (k, ⟨false, .queue (s.queueWait c x b i q)⟩)
      | none => none

/-- What an ACTIVE context waits for that has nothing ready, if it waits for something outside it: a fetch, a translation, a
load, an operation after its commit, a register, a queue, or a condition of its commit (R312). -/
def State.waitOf (s : State) (c x : Nat) : Option Wait :=
  let t := s.ctx c x
  match t.after with
  | .bwt o p :: _ => some ⟨false, .barrier (barId o) p⟩
  | .binit :: _ => some ⟨false, .commit⟩
  | .sys :: _ => some ⟨true, .commit⟩
  | [] =>
    match t.blk with
    | none => if t.fetch.isSome then some ⟨true, .commit⟩ else none
    | some b =>
      if decide (s.now < b.firstAt) || !b.loads.isEmpty || b.slots.any (·.walking) then some ⟨true, .commit⟩
      else if b.complete then
        match s.commitWait c x b with
        | some w => some w
        | none => if s.pairReady c x b then none else some ⟨false, .commit⟩
      else (s.scanWait c x b).map (·.2)

/-- The context is PARKED (R338): it has nothing ready, in flight or being fetched, and waits on a register, a BWT, a queue or a
condition of its commit. -/
def State.parked (s : State) (c x : Nat) : Bool :=
  let t := s.ctx c x
  t.st == .active && t.pend.isNone && !t.committing s.now && s.turnOf c x == .none &&
    (!t.after.isEmpty ||
      match t.blk with
        | none => false
        | some b =>
          decide (b.firstAt ≤ s.now) && b.bad.isNone && b.flights.isEmpty && b.loads.isEmpty && !b.slots.any (·.walking)
            && (s.waitOf c x).isSome)

/-- The state of a context as R338 numbers its rows: VACANT 0, ACTIVE 1, PARKED 2, LATCHED 3, DEPARTING 4, EXITING 5,
SWITCHED 6. -/
def State.ctxState (s : State) (c x : Nat) : Nat :=
  match (s.ctx c x).st with
  | .vacant => 0
  | .active => if s.parked c x then 2 else 1
  | .latched => 3
  | .departing => 4
  | .exiting => 5
  | .switched => 6

/-- The class that a rotation's slot of a context is charged to (R312): 0 issued, 1 not ready on memory, 2 not ready on message,
3 vacant. A thread that departs is charged as the register it waits for (R88); one that exits to memory (R338). -/
def State.slotClass (s : State) (c x : Nat) : Nat :=
  let t := s.ctx c x
  if t.issued != 0 || t.committing s.now then 0
  else match t.st with
  | .vacant | .latched | .switched => 3
  | .exiting => 1
  | .departing =>
    let es := (t.g.filter fun e => e.2.st == .empty).map fun e => t.regWait .gr e.1
    if es.any (·.memory) || t.v.any (fun e => e.2.st == .empty) then 1 else 2
  | .active => if t.memWait then 1 else if t.msgWait then 2 else if t.syncWait then 0 else 2

/-- What a core's cycle shows of a context that does not issue: ready, or waiting on what (R312, R313). -/
def State.noteTurn (s : State) (c x : Nat) : State :=
  let t := s.ctx c x
  if t.st != .active || t.committing s.now then s
  else match s.turnOf c x with
  | .issue _ => if t.readyRot then s else s.modCtx c x fun t => { t with readyRot := true }
  | .deferred _ =>
    if t.readyRot || !t.after.isEmpty || (s.scanCtx c x).slot.isNone then s else s.modCtx c x fun t => { t with readyRot := true }
  | .none =>
    match s.waitOf c x with
    | some w =>
      if w.memory then (if t.memWait then s else s.modCtx c x fun t => { t with memWait := true })
      else if t.msgWait then s else s.modCtx c x fun t => { t with msgWait := true }
    | none => if t.syncWait then s else s.modCtx c x fun t => { t with syncWait := true }
  | _ => s

end Sys2Proof.Machine
end

