-- ==== Sys2Proof/Machine/Tasks.lean ====
section
/-!
DEFINITION. Tasks (R33, R261, R306, R345 to R351, R358): FORK, MERGE, EXIT, RETAIN and TRAP, the placement hash, spawn
entries and their admission, exit messages, and the end of a thread.
-/

namespace Sys2Proof.Machine

/-! ### Placement (R306) -/

/-- The path hash of a root task. -/
def rootHash (lid : Nat) : Nat := mix lid 0

/-- The path hash of the child with ordinal `o`. -/
def childHash (ph o : Nat) : Nat := mix o (bitsOf ph 0 32) + 2 ^ 32 * (mix o (bitsOf ph 8 32) % 256)

/-- The core of a path hash in a partition. -/
def placeOf (pkg : Nat) (r : Launch) (ph : Nat) : Nat :=
  let i := ph % (r.width * r.height)
  routerAt pkg (r.col0 + i % r.width) (r.row0 + i / r.width)

/-- The GTID of a child (R348). -/
def childGtid (g : W64) (o : Nat) : W64 :=
  BitVec.ofNat 64 (lidOf g * 2 ^ 48 + (depthOf g + 1) % 256 * 2 ^ 40 + childHash (bitsOf g.toNat 0 40) o)

/-! ### The merge word (R347) -/

/-- An ox register that an instruction reads, as VUNDEF if it is not FULL (R346). -/
def State.oxOr (s : State) (r : Nat) (k : W64 → State → State) : State :=
  let q := s.cctx.oxReg r
  if q.st = .full then k q.val s else s.raise (vundef .ox r q.st)

/-- The checks of a merge base (R347): ALIGN, then PROT for a page that is not PRIV. -/
def State.mergeBase (s : State) (b : Nat) (k : Leaf → State → State) : State :=
  if b % 8 ≠ 0 then s.raise { code := .align, va := b }
  else s.withPage b fun l s => if l.cls != .priv then s.raise { code := .prot, va := b } else k l s

/-- A slot of a merge area lies in its base's 64 KiB page (R348). -/
def slotInPage (b o : Nat) : Bool := (b + 8 + 8 * o) / 65536 == b / 65536

/-- The FORKs of the block in lower slots that fired non-null (R348). -/
def State.lowerForks (s : State) : Nat :=
  (s.cblk.slots.take s.cur.slot).countP fun q => match q.eff with
    | .fork _ _ => true
    | _ => false

/-- FORK (R345 to R348): the ordinal word to T0, the spawn entry at commit. -/
def execFork (pm : Pm) (t0 : BitVec 8) (s : State) : Outcome :=
  let c := s.cur.core
  let x := s.cur.ctx
  if s.offScalar pm then .next (s.fireNull [t0])
  else if x = 0 ∧ s.ccore.head.routine.isSome then .next (s.raise { code := .priv })
  else .next (s.oxOr 7 fun w s =>
    let b := bitsOf w.toNat 0 48
    s.mergeBase b fun _ s =>
      let t := s.cctx
      let o := bitsOf w.toNat 48 16 + s.lowerForks
      let l := s.slot.l.tok.scal.toNat
      if 65535 < o ∨ !slotInPage b o ∨ depthOf t.gtid = 255 then s.raise { code := .lbound, va := b }
      else if l % 8 ≠ 0 then s.raise { code := .align, va := l }
      else
        let ordw := BitVec.ofNat 64 (o * 2 ^ 48 + b)
        let red := match s.runOf c x with | some r => r.rc.red | none => false
        let sp : Spawn := { gtid := childGtid t.gtid o, entry := l, arg := s.slot.r.tok.scal, ordw := ordw, asid := t.asid
                            gen := t.gen, pair := red, fromCore := c, fromCtx := x, rblk := t.blkAddr, rslot := s.cur.slot }
        (s.fired false (.fork sp o)).emit [t0] (.scalar ordw))

/-- MERGE (R347, R349): a merge base on another core's page makes the thread migrate. -/
def execMerge (pm : Pm) (g : BitVec 6) (s : State) : Outcome :=
  if s.offScalar pm then .next (s.fired true)
  else .next (s.oxOr 7 fun w s =>
    let b := bitsOf w.toNat 0 48
    s.mergeBase b fun l s =>
      if l.owner ≠ s.cur.core then s.migrate l.owner b
      else s.fired false (.merge g.toNat (bitsOf w.toNat 48 16) (l.pa b)))

/-- EXIT (R284, R346, R350): PRIV in the head context. A root and a communication thread read no ox register. -/
def execExit (pm : Pm) (s : State) : Outcome :=
  let t := s.cctx
  let v := s.slot.l.tok.scal
  if s.offScalar pm then .next (s.fired true)
  else if s.cur.ctx = 0 then .next (s.raise { code := .priv })
  else if depthOf t.gtid = 0 ∨ s.cur.ctx = 1 then .next (s.fireExit { kind := .exit, value := v })
  else .next (s.oxOr 6 fun w s =>
    let b := bitsOf w.toNat 0 48
    let o := bitsOf w.toNat 48 16
    s.mergeBase b fun l s =>
      if !slotInPage b o then s.raise { code := .lbound, va := b }
      else s.fireExit { kind := .exit, value := v, slotPa := l.pa b + 8 + 8 * o, countPa := l.pa b, owner := some l.owner })

/-- RETAIN (R351). -/
def execRetain (pm : Pm) (s : State) : Outcome := .next (s.fireEff pm fun _ => .ok .retain)

/-- TRAP (R358): an exit. -/
def execTrap (pm : Pm) (code : BitVec 6) (s : State) : Outcome :=
  if s.offScalar pm then .next (s.fired true) else .next (s.fireExit { kind := .trap, target := code.toNat })

/-! ### Spawn entries (R345) -/

/-- A spawn entry leaves for its core in cycle `e`. The messages of a service core are counted where they go (R374). -/
def State.sendSpawn (s : State) (e dst : Nat) (sp : Spawn) : State :=
  (s.countSent (if isService sp.fromCore then dst else sp.fromCore)).send e sp.fromCore (.spawn dst sp)

/-- A committed FORK's entry leaves in cycle `e`, or waits behind a refused one of its context (R345). -/
def State.releaseSpawn (s : State) (e dst : Nat) (sp : Spawn) : State :=
  let t := s.ctx sp.fromCore sp.fromCtx
  if t.spawns.any (·.2.2) then s.modCtx sp.fromCore sp.fromCtx fun t => { t with spawns := t.spawns ++ [(dst, sp, false)] }
  else s.sendSpawn e dst sp

/-- SPAWN_ARRIVAL (R345, R369): the spawn queue of 32 entries takes it, or it is refused; a fenced core answers FENCED. -/
def execSpawnArrival (s : State) : Outcome :=
  match s.ev with
  | .spawnArrival c sp =>
    let s := s.countRecv c
    if (s.core c).fenced then
      .next (if isService sp.fromCore then s.logError (pkgOf c) c .fenced
        else s.answerFenced sp.fromCore c (.fault (sp.faultRec .fenced) .ctx 0))
    else if (s.core c).spawnq.length < 32 then
      .next ((s.modCore c fun k => { k with spawnq := k.spawnq ++ [sp] }).sched s.now (.taskAdmission c))
    else .next ((s.countSent c).send (s.now + 2) c (.spawnRefused sp c))
  | _ => .next s

/-- SPAWN_REFUSAL (R345, R369): the entry is sent again 64 rotations later; a fenced core forgets it. -/
def execSpawnRefusal (s : State) : Outcome :=
  match s.ev with
  | .spawnRefusal c sp =>
    if isService sp.fromCore then .next ((s.countRecv c).sched (s.now + 1024) (.spawnResend c sp))
    else if (s.core sp.fromCore).fenced then .next (s.countRecv sp.fromCore)
    else .next (((s.countRecv sp.fromCore).modCtx sp.fromCore sp.fromCtx fun t => { t with spawns := (c, sp, true) :: t.spawns }).sched
      (s.now + 1024) (.spawnResend c sp))
  | _ => .next s

/-- Entries of a context that waited behind a refused one leave, up to one that awaits its own resending. -/
def State.freeSpawns (s : State) (c x : Nat) : State :=
  let go := (s.ctx c x).spawns.takeWhile fun e => !e.2.2
  let s := s.modCtx c x fun t => { t with spawns := t.spawns.dropWhile fun e => !e.2.2 }
  go.foldl (fun s e =>
    let (u, s) := s.outSlot c s.now
    s.sendSpawn u e.1 e.2.1) s

/-- SPAWN_RESEND (R294, R345): the entry leaves again, with its ASID's generation. -/
def execSpawnResend (s : State) : Outcome :=
  match s.ev with
  | .spawnResend c sp =>
    let again := { sp with gen := (s.pkg (pkgOf sp.fromCore)).genOf sp.asid }
    if isService sp.fromCore then .next (s.sendSpawn s.now c again)
    else
      let src := sp.fromCore
      let x := sp.fromCtx
      let mine (e : Nat × Spawn × Bool) : Bool := e.2.2 && e.2.1.gtid == sp.gtid
      if !(s.ctx src x).spawns.any mine then .next s
      else
        let s := s.modCtx src x fun t => { t with spawns := t.spawns.eraseP mine }
        let (u, s) := s.outSlot src s.now
        .next ((s.sendSpawn u c again).freeSpawns src x)
  | _ => .next s

/-! ### Starting a thread (R33, R87, R261, R352) -/

/-- A context with a fresh thread (R87). -/
def startedCtx (u : Ctx) (gtid : W64) (arg ordw : W64) (asid gen : Nat) (pair : Bool) : Ctx :=
  { st := .active, serial := u.serial, sends := u.sends, delegs := u.delegs, spawns := u.spawns, issued := u.issued
    hb := u.hb, readyRot := u.readyRot, commitAt := u.commitAt, g := [(3, ⟨.full, arg⟩), (4, ⟨.full, ordw⟩)]
    gtid := gtid, asid := asid, gen := gen, pair := pair }

/-- A continuation that waits fits a context (R261). -/
def Core.contFits (k : Core) (x : Nat) : Bool :=
  k.arrq.any fun q => if q.pair then (k.ctx (leader x)).st == .vacant && (k.ctx (leader x + 1)).st == .vacant else true

/-- A spawn entry fits a context (R261, R352). -/
def Core.spawnFits (k : Core) (x : Nat) (sp : Spawn) : Bool :=
  decide (2 ≤ x) && (k.ctx x).st == .vacant && (!sp.pair || (x % 2 == 0 && (k.ctx (x + 1)).st == .vacant))

/-- Admission lets a task start on a core (R33): its launch's estimate, or the die's budget if that is less, fits erem. -/
def State.admits (s : State) (c : Nat) : Bool :=
  let d := s.die (dieOf c)
  decide ((min (s.core c).admission d.ebud.toNat : Int) ≤ d.erem)

/-- START with comm 0 (R33, R352): the oldest spawn entry that fits starts in a context, whose first block is fetched in cycle
`at_`; none where a continuation fits, nothing fits, or admission holds it. -/
def State.startTask (s : State) (c x at_ : Nat) : State :=
  let k := s.core c
  match k.spawnq.find? (k.spawnFits x) with
  | none => s
  | some sp =>
    if k.contFits x || !s.admits c then s
    else
      let s := s.modCore c fun k => { k with spawnq := k.spawnq.erase sp }
      (if sp.pair then [x, x + 1] else [x]).foldl (fun s y =>
        (s.modCtx c y fun u => startedCtx u sp.gtid sp.arg sp.ordw sp.asid sp.gen sp.pair).enterBlock c y sp.entry at_) s

/-- START with comm 1 (R352): the launch's communication thread starts in a vacant context 1. -/
def State.startComm (s : State) (c at_ : Nat) : State :=
  match s.runOf c 0 with
  | none => s
  | some r =>
    if r.rc.centry = 0 ∨ (s.ctx c 1).st ≠ .vacant then s
    else
      let g := BitVec.ofNat 64 (r.rc.lid * 2 ^ 48 + 255 * 2 ^ 40 + idxOf c)
      (s.modCtx c 1 fun u => startedCtx u g r.rc.args 0 r.asid ((s.pkg (pkgOf c)).genOf r.asid) false).enterBlock
        c 1 r.rc.centry at_

/-- The head firmware makes a task it starts the owner of the tiles that it means for it and that are free (R95; log entry 5). -/
def State.grantTiles (s : State) (c x : Nat) : State :=
  let (n, s) := s.draw
  let m := Config.taskTiles n
  let own (v i : Nat) : Nat := if bitOf m i ∧ bitsOf v (4 * i) 4 = 0 then v + x * 16 ^ i else v
  s.modCore c fun k => k.setTom (BitVec.ofNat 64 ((List.range 16).foldl own k.tom.toNat))

/-- TASK_ADMISSION (R33, R261, R343): the head context's firmware starts what waits: a requested communication thread, then
spawn entries, each in the lowest context it fits. -/
def execTaskAdmission (s : State) : Outcome :=
  match s.ev with
  | .taskAdmission c =>
    if s.stopped c || (s.core c).fenced then .next s
    else
      let s := match (s.core c).head.commReq with
        | some _ =>
          if (s.ctx c 1).st = .vacant then
            (s.startComm c (s.nextRot c)).modCore c fun k => { k with head := { k.head with commReq := none } }
          else s
        | none => s
      let k := s.core c
      match (List.range 16).find? fun x => k.spawnq.any (k.spawnFits x) && !k.contFits x with
      | some x =>
        let s' := s.startTask c x (s.nextRot c)
        .next (if (s'.core c).spawnq.length < k.spawnq.length then (s'.grantTiles c x).sched s.now (.taskAdmission c) else s')
      | none => .next s
  | _ => .next s

/-! ### The end of a thread (R175, R258, R319, R350, R354) -/

/-- A context enters EXITING (R350, R354): its block, latch, mailbox, tiles and commands not begun are gone; a deferred fault that it has
not taken goes to the trap queue (R242). It becomes vacant no earlier than cycle `t`. -/
def State.enterExiting (s : State) (c x t : Nat) (byKill : Bool) (m : Option ExitMsg) : State :=
  let s := match (s.ctx c x).pend with
    | some r => if (s.ctx c x).pair && x % 2 == 1 then s else s.queueRecord c { r with gtid := (s.ctx c x).gtid }
    | none => s
  let s := (s.dropBlock c x).modCtx c x fun k =>
    { k with st := .exiting, latch := none, pend := none, after := [], depart := none, kill := false, retained := false
             merges := [], mbox := [], exitMsg := m, exitKill := byKill, exitAt := t }
  ((s.dropTiles c x).dropCopies c x).sched t (.exitMessageDepart c (if (s.ctx c x).pair then leader x else x))

/-- KILL (R354): of both contexts of a pair; a departing thread whose continuation is on its way is only marked; an exiting one sends no
exit message any more, and its drops record dk. -/
def State.killCtx (s : State) (c x : Nat) : State :=
  (s.team c x).foldl (fun s y =>
    let t := s.ctx c y
    match t.st with
    | .vacant | .switched => s
    | .exiting => s.modCtx c y fun t => { t with exitMsg := none, exitKill := true }
    | .departing =>
      if (match t.depart with | some d => d.sent | none => false) then s.modCtx c y fun t => { t with kill := true }
      else s.enterExiting c y s.now true none
    | _ => s.enterExiting c y s.now true none) s

/-- The MERGEs of a core whose exit count is reached complete (R349). -/
def State.checkMerges (s : State) (c : Nat) : State :=
  (List.range 16).foldl (fun s x =>
    (s.ctx c x).merges.foldl (fun s m =>
      if m.n ≤ leValue (s.privBytes c m.pa 8) then
        let s := s.modCtx c x fun t => { t with merges := t.merges.filter fun q => q.id != m.id }
        match (s.ctx c x).prods.find? fun p => p.id == m.id with
        | some p => s.endProducer c x .gr p.reg (BitVec.ofNat 1024 m.n) true m.id
        | none => s
      else s) s) s

/-- EXIT_MESSAGE_DEPART (R241, R319, R350): with no request outstanding the exit message leaves, the thread drops from its
barriers, and the context, or the pair, becomes vacant. -/
def execExitMessageDepart (s : State) : Outcome :=
  match s.ev with
  | .exitMessageDepart c x =>
    let t := s.ctx c x
    if t.st != .exiting || !t.outs.isEmpty || decide (s.now < t.exitAt) then .next s
    else
      let s := match t.exitMsg with
        | some m => s.sendCounted (s.now + 2) c (.exitMsg m)
        | none => s
      .next ((s.team c x).foldl (fun s y => (s.dropBarriers c y (if t.exitKill then 4 else 2) s.now).vacate c y) s)
  | _ => .next s

/-- EXIT_MESSAGE_APPLY (R349, R350): the owner of the merge area stores the exit value and counts it, both through its private
store buffer; loads and MERGEs see them from the cycle after the message is ejected. A fenced core's is answered FENCED (R369). -/
def execExitMessageApply (s : State) : Outcome :=
  match s.ev with
  | .exitMessageApply m =>
    let c := m.dst
    if (s.core c).fenced then
      .next (if m.taken then s else (s.countRecv c).answerFenced m.src c (.fault (m.faultRec .fenced) .ctx 0))
    else if !m.taken then .next ((s.countRecv c).schedFirst (s.now + 1) [.exitMessageApply { m with taken := true }])
    else
      let put (s : State) (pa v : Nat) : State :=
        s.privStoresAs c m.asid m.gen m.lid s.now (((List.range 8).map (pa + ·)).zip (leBytes v 8))
      let s := put s m.slotPa m.value.toNat
      .next ((put s m.countPa ((leValue (s.privBytes c m.countPa 8) + 1) % 2 ^ 64)).checkMerges c)
  | _ => .next s

end Sys2Proof.Machine
end

