-- ==== Sys2Proof/Machine/Head.lean ====
section
/-!
DEFINITION. The instructions of the head context (R352 to R357, R359): START, REAP, KILL, ACKF, ERET, GSTOP and GSW, with the
dump of a context and the bytes of a trap record.
-/

namespace Sys2Proof.Machine

/-! ### Images -/

/-- The words of a trap record (R359). -/
def TrapRec.words (r : TrapRec) : List Nat :=
  let b (v : Bool) (i : Nat) : Nat := if v then 2 ^ i else 0
  let w0 := r.cause.num + r.sub % 64 * 2 ^ 8 + r.file % 4 * 2 ^ 14 + b r.dfr 16 + b r.cmb 17 + b r.emp 18 + b r.dlg 19 + b r.pair 20
    + r.more % 256 * 2 ^ 24 + r.ctx % 16 * 2 ^ 32 + idxOf r.core * 2 ^ 36 + pkgOf r.core * 2 ^ 51
  [w0, r.gtid.toNat, r.blk % 2 ^ 48, r.va % 2 ^ 64, r.rblk % 2 ^ 48 + r.rslot % 64 * 2 ^ 48, r.aux.toNat, r.tb, 0]

/-- The bytes of a trap record (R359). -/
def TrapRec.toBytes (r : TrapRec) : List Byte := r.words.flatMap fun w => leBytes w 8

/-- The fault with a number (R361). -/
def FaultCode.ofNum (n : Nat) : FaultCode :=
  let codes : List FaultCode :=
    [.illeg, .blkfmt, .priv, .align, .lbound, .xlat, .prot, .stalegen, .mref, .ltype, .wafrz, .xnf, .fillc, .vundef, .tshape, .bovr, .qfull,
      .hbmiss, .sdc, .order, .uecc, .fenced, .deadlk, .escape, .bkpt, .wdog, .trapi]
  (codes.find? fun f => f.num == n).getD .illeg

/-- The trap record that 64 bytes hold (R359). -/
def TrapRec.ofBytes (bs : List Byte) : TrapRec :=
  let w (i : Nat) : Nat := leValue ((bs.drop (8 * i)).take 8)
  { core := coreKey (bitsOf (w 0) 51 8) (bitsOf (w 0) 36 15), ctx := bitsOf (w 0) 32 4, more := bitsOf (w 0) 24 8, pair := bitOf (w 0) 20
    dlg := bitOf (w 0) 19, emp := bitOf (w 0) 18, cmb := bitOf (w 0) 17, dfr := bitOf (w 0) 16, file := bitsOf (w 0) 14 2
    sub := bitsOf (w 0) 8 6, cause := .ofNum (bitsOf (w 0) 0 8), gtid := BitVec.ofNat 64 (w 1), blk := bitsOf (w 2) 0 48, va := w 3
    rslot := bitsOf (w 4) 48 6, rblk := bitsOf (w 4) 0 48, aux := BitVec.ofNat 64 (w 5), tb := w 6 }

/-- The two bits of a register's state in a dump (R353). -/
def RegState.bits : RegState → Nat
  | .full => 1 | .empty => 2 | .invalid => 0

/-- The bytes of `n` states at two bits each. -/
def stateBytes (f : Nat → RegState) (n : Nat) : List Byte :=
  leBytes ((List.range n).foldl (fun v i => v + (f i).bits * 4 ^ i) 0) (n / 4)

/-- The bytes of `n` FULL bits. -/
def fullBytes (f : Nat → RegState) (n : Nat) : List Byte :=
  leBytes ((List.range n).foldl (fun v i => if f i = .full then v + 2 ^ i else v) 0) (n / 8)

/-- A list of bytes with zeros up to a length. -/
def padTo (n : Nat) (bs : List Byte) : List Byte := bs ++ List.replicate (n - bs.length) 0

/-- The dump of a context (R353; log entry 20 for the fields from offset 704 on). -/
def State.dump (s : State) (c x : Nat) : List Byte :=
  let t := s.ctx c x
  let vac := t.st == .vacant
  let g (i : Nat) : Reg 64 := if vac then {} else t.gReg i
  let p (i : Nat) : Reg 32 := if vac then {} else t.pReg i
  let words := [t.gtid.toNat, t.asid, t.gen, t.strm, (if t.retained then 1 else 0), s.ctxState c x, t.outs.length]
  padTo 576 (((List.range 64).flatMap fun i => leBytes (g i).val.toNat 8) ++ (List.range 8).flatMap fun i => leBytes (t.oxReg i).val.toNat 8)
    ++ padTo 32 ((List.range 8).flatMap fun i => leBytes (p i).val.toNat 4)
    ++ padTo 32 (stateBytes (fun i => (g i).st) 64 ++ stateBytes (fun i => (t.vReg i).st) 16
      ++ fullBytes (fun i => (p i).st) 8 ++ fullBytes (fun i => (t.oxReg i).st) 8)
    ++ padTo 64 (match t.latch with | some l => l.trap.toBytes | none => [])
    ++ padTo 320 (words.flatMap fun w => leBytes w 8)
    ++ (List.range 16).flatMap fun i => leBytes (t.vReg i).val.toNat 128

/-- Registers loaded from a dump (R355): an EMPTY register keeps its state, and an image's EMPTY reads as INVALID. -/
def Ctx.restore (t : Ctx) (bs : List Byte) : Ctx :=
  let at_ (o n : Nat) : Nat := leValue ((bs.drop o).take n)
  let gs := at_ 608 16
  let vs := at_ 624 4
  let t := (List.range 64).foldl (fun t i =>
    if i = 0 ∨ (t.gReg i).st = .empty then t
    else { t with g := t.g.put i (if bitsOf gs (2 * i) 2 = 1 then ⟨.full, BitVec.ofNat 64 (at_ (8 * i) 8)⟩ else {}) }) t
  let t := (List.range 16).foldl (fun t i =>
    if (t.vReg i).st = .empty then t
    else { t with v := t.v.put i (if bitsOf vs (2 * i) 2 = 1 then ⟨.full, BitVec.ofNat 1024 (at_ (1024 + 128 * i) 128)⟩ else {}) }) t
  let t := (List.range 8).foldl (fun t i =>
    if i = 0 then t
    else { t with p := t.p.put i (if bitOf (at_ 628 1) i then ⟨.full, BitVec.ofNat 32 (at_ (576 + 4 * i) 4)⟩ else {}) }) t
  (List.range 8).foldl (fun t i =>
    { t with ox := t.ox.put i (if bitOf (at_ 629 1) i then ⟨.full, BitVec.ofNat 64 (at_ (512 + 8 * i) 8)⟩ else {}) }) t

/-! ### Firing (R352, R353, R355) -/

/-- A selector of a context (R352): LBOUND for other bits, for context 0, and for a comm bit with a context other than 1. -/
def selector (l bits : Nat) : Except Cause Nat :=
  if 2 ^ (4 + bits) ≤ l ∨ l % 16 = 0 then .error { code := .lbound } else .ok (l % 16)

/-- START (R352): comm 0. -/
def execStart (pm : Pm) (s : State) : Outcome :=
  .next (s.fireHead pm fun s => (selector s.slot.l.tok.scal.toNat 1).map fun x => .start x false)

/-- START (R352): comm 1. -/
def execStartComm (pm : Pm) (s : State) : Outcome :=
  .next (s.fireHead pm fun s =>
    let l := s.slot.l.tok.scal.toNat
    match selector l 1 with
    | .error k => .error k
    | .ok x => if x ≠ 1 then .error { code := .lbound } else .ok (.start x true))

/-- A class H instruction with a selector and a PRIV address of the core (R353): PROT for another page, then ALIGN. -/
def State.fireDump (s : State) (pm : Pm) (align : Nat) (e : Nat → Nat → Eff) : State :=
  if s.offScalar pm then s.fired true
  else if s.cur.ctx ≠ 0 ∨ s.ccore.head.routine.isSome then s.raise { code := .priv }
  else match selector s.slot.l.tok.scal.toNat 1 with
  | .error k => s.raise k
  | .ok x =>
    let a := s.slot.r.tok.scal.toNat
    s.withPage a fun l s =>
      if l.cls != .priv || l.owner != s.cur.core then s.raise { code := .prot, va := a }
      else if a % align ≠ 0 then s.raise { code := .align, va := a }
      else s.fired false (e x (l.pa a))

/-- REAP mode 0 (R353). -/
def execReapDump (pm : Pm) (s : State) : Outcome := .next (s.fireDump pm 1024 fun x pa => .reapDump x pa)
/-- REAP mode 1 (R353). -/
def execReapTrap (pm : Pm) (s : State) : Outcome := .next (s.fireDump pm 64 fun _ pa => .reapTrap pa)

/-- KILL (R352, R354). -/
def execKill (pm : Pm) (s : State) : Outcome :=
  .next (s.fireHead pm fun s => (selector s.slot.l.tok.scal.toNat 0).map .kill)

/-- ACKF (R352, R355): with restore, R names a dump on a PRIV page of the core. -/
def execAckf (pm : Pm) (s : State) : Outcome :=
  if !s.offScalar pm && s.slot.l.tok.scal.getLsbD 4 then .next (s.fireDump pm 1024 fun x pa => .ackf x (some pa))
  else .next (s.fireHead pm fun s => (selector s.slot.l.tok.scal.toNat 1).map fun x => .ackf x none)

/-- ERET (R352, R356): PRIV outside a handler. -/
def execEret (pm : Pm) (s : State) : Outcome :=
  if s.offScalar pm then .next (s.fired true)
  else if s.cur.ctx ≠ 0 ∨ !s.ccore.head.handler then .next (s.raise { code := .priv })
  else .next (s.fireExit { kind := .eret })

/-- GSTOP and its resume fire (R352, R357): LBOUND for bits of L above the first. -/
def State.fireGstop (s : State) (pm : Pm) (resume : Bool) : State :=
  s.fireHead pm fun s =>
    let l := s.slot.l.tok.scal.toNat
    if 2 ≤ l then .error { code := .lbound } else .ok (.gstop resume)

/-- GSTOP with L 0 (R357). -/
def execGstop (pm : Pm) (s : State) : Outcome := .next (s.fireGstop pm false)
/-- GSTOP with L 1 (R357). -/
def execGstopResume (pm : Pm) (s : State) : Outcome := .next (s.fireGstop pm true)
/-- GSW (R357). -/
def execGsw (pm : Pm) (s : State) : Outcome := .next (s.fireHead pm fun _ => .ok .gsw)

/-! ### Effects at commit -/

/-- REAP mode 0 takes effect (R353). -/
def State.reapDump (s : State) (c x pa c0 : Nat) : State :=
  s.privStores c 0 c0 (((List.range 3072).map (pa + ·)).zip (s.dump c x))

/-- REAP mode 1 takes effect (R353): the oldest record moves from the trap queue; waiting records follow (R360). -/
def State.reapTrap (s : State) (c pa c0 : Nat) : State :=
  match (s.core c).trapq with
  | [] => s
  | r :: rest =>
    let s := s.modCore c fun k => { k with trapq := rest }
    (s.privStores c 0 c0 (((List.range 64).map (pa + ·)).zip r.toBytes)).sched s.now (.trapRecordQueued c 0)

/-- ACKF takes effect (R205, R304, R355): the latched context, or pair, becomes ACTIVE in the current generation of its ASID and fetches its
block again. -/
def State.ackf (s : State) (c x : Nat) (image : Option Nat) (c0 : Nat) : State :=
  if (s.ctx c x).st ≠ .latched then s
  else
    let bs := match image with
      | some pa => s.privBytes c pa 3072
      | none => []
    (s.team c x).foldl (fun s y =>
      match (s.ctx c y).latch with
      | none => s
      | some l =>
        (s.modCtx c y fun t =>
          let t := if image.isSome then t.restore bs else t
          { t with st := .active, latch := none, gen := (s.pkg (pkgOf c)).genOf t.asid }).enterBlock c y l.trap.blk (c0 + 16) (l.trap.cause == .bkpt)) s

/-- GSTOP and GSW reach the quadrant's service core (R357), entering the router in cycle `e`. -/
def State.askStop (s : State) (c e : Nat) (resume : Option Bool) : State :=
  match s.runOf c 0 with
  | none => s
  | some r =>
    let t := e + pathTime c (serviceOf c) + 2
    match resume with
    | some false => s.sched t (.gangStop (pkgOf c) r.rc.rect)
    | some true => s.sched t (.gangStopResume (pkgOf c) r.rc.rect)
    | none => s.sched t (.gangSwitchRequest (pkgOf c) r.rc.lid)

end Sys2Proof.Machine
end

