-- ==== Sys2Proof/Machine/Commit.lean ====
section
/-!
DEFINITION. The commit of a block (R53, R54, R58, R222, R365, R366): its conditions, the register writes and stores of step 1,
the release of its effects in step 2, and what its exit does.
-/

namespace Sys2Proof.Machine

/-! ### Conditions -/

/-- The block of a context may commit in the rotation that begins now. -/
def State.mayCommit (s : State) (c x : Nat) (b : Block) : Bool :=
  let t := s.ctx c x
  t.st == .active && t.pend.isNone && t.after.isEmpty && b.bad.isNone && b.complete && (s.commitWait c x b).isNone
    && s.pairReady c x b && !s.stopped c

/-- An effect with the context that recorded it left out, for the comparison of a pair (R365). -/
def Eff.common : Eff → Eff
  | .send m => .send { m with sctx := 0 }
  | .deleg m => .deleg { m with sctx := 0 }
  | .fork sp o => .fork { sp with fromCtx := 0 } o
  | e => e

/-- The two blocks of a pair agree (R365). -/
def Block.agrees (a b : Block) : Bool :=
  a.effs.map Eff.common == b.effs.map Eff.common && a.exit == b.exit

/-! ### Step 1 -/

/-- The FORKs of a block that fired non-null (R348). -/
def Block.forks (b : Block) : Nat := b.effs.countP fun e => match e with | .fork _ _ => true | _ => false

/-- The registers of a context after step 1 of its block's commit (R54, R82, R86, R120, R348). -/
def Ctx.commitRegs (t : Ctx) (b : Block) : Ctx :=
  let t := b.effs.foldl (fun t e => match e with
    | .wr f r k => t.writeTok f r k
    | _ => t) t
  let w := (t.oxReg 7).val.toNat
  let t := if b.forks = 0 then t
    else t.setOx 7 (BitVec.ofNat 64 ((bitsOf w 48 16 + b.forks) % 2 ^ 16 * 2 ^ 48 + w % 2 ^ 48))
  let t := match b.exit with
    | some e => if e.kind = .call ∨ e.kind = .calli then t.setG 1 (BitVec.ofNat 64 b.link) else t
    | none => t
  b.effs.foldl (fun t e => match e.dest? with
    | some d => t.makeEmpty d.1 d.2
    | none => t) t

/-- The descriptors that copy commands of a pair's blocks read at their release agree (R253, R365). -/
def State.copiesAgree (s : State) (c x : Nat) (a b : Block) : Bool :=
  let ox (x : Nat) (k : Block) (i : Nat) : Reg 64 := ((s.ctx c x).commitRegs k).oxReg i
  !(a.effs.any fun e => match e with
      | .copy _ _ => true
      | _ => false) || (List.range 8).all fun i => ox x a i == ox (partner x) b i

/-- The cells that a block writes in a space, by ascending LSID (R54, R195). -/
def Block.cells (b : Block) (sp : Space) : List Host.Cell := b.effs.flatMap fun e => e.cells sp

/-- The local stores of a block go to the banks from `c0` on, and are visible from the next rotation (R195). -/
def State.commitLocal (s : State) (c c0 : Nat) (cs : List Host.Cell) : State :=
  if cs.isEmpty then s
  else s.modCore c fun k =>
    { k with delayed := k.delayed ++ [(c0 + 16, .cells cs)]
             banks := k.banks ++ [{ pri := 0, start := c0, words := wordsOf (cs.map (·.1)), issue := c0 }] }

/-- The words that POPs of a block took leave their queues (R268). -/
def State.commitPops (s : State) (c x : Nat) (taken : Tbl Nat) : State :=
  taken.foldl (fun s e =>
    if e.1 = 4 then s.modCtx c x fun t => { t with mbox := t.mbox.drop e.2 }
    else s.modCore c fun k => k.popLink e.1 e.2) s

/-! ### Step 2 -/

/-- Requests leave, one per outbound slot (R222, R241); those of a release wait for the acceptances of R231. -/
def State.releaseReqs (s : State) (c x c0 : Nat) (rel : Bool) (rs : List Req) : State :=
  let wait := if rel then (s.ctx c x).awaited else []
  rs.foldl (fun s r =>
    let (e, s) := s.outSlot c c0
    let (id, s) := s.freshId
    let s := s.modCtx c x fun t => { t with outs := t.outs ++ [(id, true)] }
    s.hold c ⟨x, wait, e, .req (r.by c x id)⟩) s

/-- The kind of producer that a request is (R82). -/
def Req.prodKind (r : Req) : ProdKind :=
  match r.kind with
  | .faddb => .faddb
  | .incw => .incw
  | _ => .waitt

/-- A wait or scheduling request leaves; its register awaits the answer (R82, R241). -/
def State.releaseProducer (s : State) (c x e : Nat) (r : Req) : State :=
  let (id, s) := s.freshId
  let s := (s.modCtx c x fun t => { t with outs := t.outs ++ [(id, false)] }).addProducer c x
    { id := id, file := .gr, reg := r.dst, kind := r.prodKind, loc := if r.kind = .wait then some (r.va, r.trig) else none }
  s.releaseReq e c (r.by c x id)

/-- A store to host memory leaves for the page's service core (R236). -/
def State.releaseHost (s : State) (c x e slot blk svc : Nat) (cs : List Host.Cell) : State :=
  match cs with
  | [] => s
  | a :: _ =>
    let t := s.ctx c x
    let (id, s) := s.freshId
    let r : Req := { kind := .store, pa := a.1, bytes := cs.map fun e => some e.2, asid := t.asid, gen := t.gen, lid := lidOf t.gtid
                     rblk := blk, rslot := slot }
    s.sendCounted e c (.req (hostHome svc) (r.by c x id))

/-- A range is registered for a freeze at quiescence (R250): at most 16 for a launch on a package, both copies of a MIRROR launch together. -/
def State.releaseFrzq (s : State) (c x slot blk va : Nat) (pas : List Nat) : State :=
  match s.runOf c x with
  | none => s
  | some r =>
    if 16 ≤ (((s.pkg (pkgOf c)).runsOf r.rc.lid).map fun q => q.frzq.length).sum then s.postDeferred { core := c, ctx := x, cause := .qfull, va := va, rblk := blk, rslot := slot }
    else
      let (id, s) := s.freshId
      s.modRunOf c x fun q => { q with frzq := q.frzq ++ [(id, pas)] }

/-- A marker goes into every queue that its mask names, each as a push (R270). -/
def State.releaseMark (s : State) (c x c0 : Nat) (w : W64) : State :=
  (markQueues w).foldl (fun s d =>
    let (e, s) := s.outSlot c c0
    s.pushFlit c d e ⟨true, (s.ctx c x).strm, w⟩) s

/-- One recorded effect is released (R54, R222): but for requests and markers, which take a slot each, it takes one outbound
slot. -/
def State.releaseEff (s : State) (c x c0 slot blk : Nat) (f : Eff) : State :=
  match f with
  | .none | .wr .. | .localStore _ | .privStore _ | .pop _ => s
  | .reqs rel rs => s.releaseReqs c x c0 rel rs
  | .freeze rs => s.releaseReqs c x c0 false rs
  | .mark w => s.releaseMark c x c0 w
  | f =>
    let (e, s) := s.outSlot c c0
    match f with
    | .hostStore svc cs => s.releaseHost c x e slot blk svc cs
    | .wait r => s.releaseProducer c x e r
    | .sched r => s.releaseProducer c x e r
    | .frzq va pas => s.releaseFrzq c x slot blk va pas
    | .copy windowed g => s.enqueueCopy c x slot blk e windowed g
    | .tile t => s.enqueueTile c x slot blk c0 t
    | .ctl sub cn v =>
      if ctlOfContext cn then (s.team c x).foldl (fun s y => s.commitCtl c y sub cn v c0) s else s.commitCtl c x sub cn v c0
    | .wcnt n v => s.writeCounter c n v.toNat
    | .send m => s.releaseSend e m
    | .strm n => s.modCtx c x fun t => { t with strm := n }
    | .deleg m =>
      let s := if m.call then
          let (id, s) := s.freshId
          s.addProducer c x { id := id, file := .gr, reg := m.reg, kind := .dcall }
        else s
      s.releaseDeleg e m
    | .binit b n => s.releaseBinit c x b n c0
    | .arrive b drop => s.releaseArrive c x b drop c0
    | .bwt b => s.releaseBwt c x b
    | .ecomb b => s.releaseEcomb c x b c0
    | .hbt => (s.team c x).foldl (fun s y => s.modCtx c y fun t => { t with hb := 0 }) s
    | .trmk v => s.trace c x 5 0 blk (some v.toNat)
    | .fork sp _ =>
      match (s.pkg (pkgOf c)).runAt? (lidOf sp.gtid) c with
      | some r => s.releaseSpawn e (placeOf (pkgOf c) r.rc (bitsOf sp.gtid.toNat 0 40)) sp
      | none => s
    | .merge g n pa =>
      let (id, s) := s.freshId
      ((s.modCtx c x fun t => { t with merges := t.merges ++ [⟨id, pa, n⟩] }).addProducer c x
        { id := id, file := .gr, reg := g, kind := .merge }).checkMerges c
    | .retain => (s.team c x).foldl (fun s y => s.modCtx c y fun t => { t with retained := true }) s
    | .start y comm => if comm then s.startComm c (c0 + 16) else s.startTask c y (c0 + 16)
    | .reapDump y pa => s.reapDump c y pa c0
    | .reapTrap pa => s.reapTrap c pa c0
    | .kill y => s.killCtx c y
    | .ackf y image => s.ackf c y image c0
    | .tlbi scope asid va => s.releaseSysOp c e (.tlbi scope asid va)
    | .genb asid => (s.parkSys c).startGenb (pkgOf c) asid e (some c)
    | .tblw code idx ws => s.releaseSysOp c e (.tblw code idx ws)
    | .gstop resume => s.askStop c e (some resume)
    | .gsw => s.askStop c e none
    | _ => s

/-- A slot's pushes leave in their reserved entries; a null releases its entry (R264). -/
def State.releasePushes (s : State) (c x c0 : Nat) (ps : List (Dir × Option Tok)) : State :=
  ps.foldl (fun s p => match p.2 with
    | some k =>
      let (e, s) := s.outSlot c c0
      s.pushFlit c p.1.num e ⟨false, (s.ctx c x).strm, k.scal⟩
    | none => s.modCore c fun q => q.release [p.1.num]) s

/-- What the slots of a block release in step 2, in order (R54, R264): the effects of LSID carriers, then by slot the effects of the others
and the pushes of all. -/
def Block.releaseOrder (b : Block) : List (Nat × Slot) :=
  let all := (List.range b.slots.length).zip b.slots
  let carrier (q : Slot) : Bool := match q.instr? with
    | some i => i.lsid?.isSome
    | none => false
  (all.filter fun e => carrier e.2).map (fun e => (e.1, { e.2 with push := [] }))
    ++ all.map fun e => (e.1, if carrier e.2 then { e.2 with eff := .none } else e.2)

/-! ### The exit -/

/-- The thread of a context, and of its pair, begins to exit (R350). -/
def State.commitExit (s : State) (c x c0 : Nat) (e : BlkExit) : State :=
  let t := s.ctx c x
  let s := if depthOf t.gtid = 0 then s.modRunOf c x fun r => { r with rootExit := e.value } else s
  let m : Option ExitMsg := e.owner.map fun o =>
    { value := e.value, slotPa := e.slotPa, countPa := e.countPa, dst := o, asid := t.asid, gen := t.gen, lid := lidOf t.gtid
      src := c, sctx := if t.pair then leader x else x, gtid := t.gtid }
  (s.team c x).foldl (fun s y => s.enterExiting c y (c0 + 16) false (if y = x then m else none)) s

/-- A thread goes on at a block; the head context may turn to something else first (R284, R356). -/
def State.goOn (s : State) (c x c0 target : Nat) : State :=
  if x = 0 then s.headNext c (c0 + 16) (some target)
  else (s.team c x).foldl (fun s y => s.enterBlock c y target (c0 + 16)) s

/-- The slot of the TRAP that has fired as a block's exit (R358). -/
def Block.trapSlot (b : Block) : Nat :=
  (((b.slots.zip (List.range b.slots.length)).find? fun e => match e.1.instr? with
    | some (.trap pm _) => !e.1.off pm
    | _ => false).map (·.2)).getD 0

/-- What the exit of a committed block does (R54, R55, R120, R274, R281, R285, R350, R356, R358). -/
def State.takeExit (s : State) (c x c0 : Nat) (b : Block) (e : BlkExit) : State :=
  match e.kind with
  | .mig => if e.target = c then s.goOn c x c0 b.link else s.beginDepart c x e.target b.link true (b.carried true)
  | .exit => s.commitExit c x c0 e
  | .dret => (s.endRoutine c c0 e.value).headNext c (c0 + 16) (s.core c).head.retBlk
  | .trap =>
    let k : Cause := { code := .trapi, sub := e.target }
    let r := { s.trapRec c x k with blk := b.link }
    if x ≠ 0 then s.latchCtx c x r
    else match (s.core c).head.routine with
      | some m => s.endRoutineBy c m k b.addr b.trapSlot
      | none => s.headFault c r
  | .eret =>
    (s.modCore c fun k => { k with head := { k.head with handler := false } }).headNext c (c0 + 16) (s.core c).head.retBlk
  | _ => s.goOn c x c0 e.target

/-- A block, of a context or of a pair, commits in the rotation that begins at `c0` (R31, R54, R77). -/
def State.commitBlock (s : State) (c x c0 : Nat) (b : Block) (e : BlkExit) : State :=
  let s := (s.team c x).foldl (fun s y => s.modCtx c y fun t =>
    { (match t.blk with
        | some d => t.commitRegs d
        | none => t) with blk := none, commitAt := some c0, mism := none, lvq := [], serial := t.serial + 1 }) s
  let s := if !s.strict c x && (bitOf b.hdr 2 || b.slots.any (·.host)) then s.modRunOf c x fun r => { r with escaped := true } else s
  let s := s.trace c x 1 e.kind.num b.addr (some e.kind.num)
  let s := (s.commitLocal c c0 (b.cells .local)).privStores c x c0 (b.cells .priv)
  let s := s.commitPops c x b.taken
  let s := b.slots.foldl (fun s q => s.countEx c q.ex) s
  let s := b.releaseOrder.foldl (fun s q => (s.releaseEff c x c0 q.1 b.addr q.2.eff).releasePushes c x c0 q.2.push) s
  s.takeExit c x c0 b e

/-- BLOCK_COMMIT (R53, R54, R83, R365): at the first cycle of a rotation a block whose conditions held by the end of the one
before commits; a pair commits as one, or disagrees (R366). -/
def execBlockCommit (s : State) : Outcome :=
  match s.ev with
  | .blockCommit c x =>
    match (s.ctx c x).blk with
    | none => .next s
    | some b =>
      match b.exit with
      | none => .next s
      | some e =>
        let pair := (s.ctx c x).pair
        if (pair && x % 2 == 1) || !s.mayCommit c x b then .next s
        else if !pair then .next (s.commitBlock c x s.now b e)
        else match (s.ctx c (partner x)).blk with
        | none => .next s
        | some d =>
          if !s.mayCommit c (partner x) d then .next s
          else .next (if b.agrees d && s.copiesAgree c x b d then s.commitBlock c x s.now b e else s.pairMismatch c x b.addr)
  | _ => .next s

end Sys2Proof.Machine
end

