-- ==== Sys2Proof/Machine/Timers.lean ====
section
/-!
DEFINITION. What runs on the clock (R312, R313, R327 to R332, R374): slot accounting, heartbeats and watchdogs, the energy meters,
the digest sums of the dies, and the steps that begin at multiples of tbase.
-/

namespace Sys2Proof.Machine

/-! ### Slot accounting (R312, R313) -/

/-- A core takes part in a switch of its launch. -/
def State.switching (s : State) (c : Nat) : Bool :=
  (s.pkg (pkgOf c)).runs.any fun r => r.st == .switching && r.rc.rect.has c

/-- A core's rotation is charged; nothing counts during a gang stop. A gang switch is none: its contexts are charged as switched out. -/
def State.accountCore (s : State) (c : Nat) : State :=
  let ready := (List.range 16).countP fun x => (s.ctx c x).readyRot
  let s := if s.stopped c && !s.switching c then s
    else ((List.range 16).foldl (fun s x => s.count c (slotCounter x (s.slotClass c x)) 1) s).count c (0x150 + ready) 1
  s.modCore c fun k => { k with ctxs := k.ctxs.map fun e =>
    (e.1, { e.2 with issued := 0, readyRot := false, memWait := false, msgWait := false, syncWait := false }) }

/-- ROTATION_ACCOUNTING (R312, R313): every context's slot is charged, and rdh counts, at the end of a rotation of its core. A core
that is not listed is counted by its reset value. -/
def execRotationAccounting (s : State) : Outcome :=
  match s.ev with
  | .rotationAccounting => .next (((s.cores.map (·.1)).filter fun c => s.slotNow c == 15).foldl State.accountCore s)
  | _ => .next s

/-! ### Heartbeats (R328, R329) -/

/-- A debug hold is in force on a partition (R330). -/
def State.holdOn (s : State) (p : Nat) (r : Run) : Bool := s.cores.any fun e => pkgOf e.1 == p && r.rc.rect.has e.1 && e.2.hold

/-- A launch's watchdog on a package is held: by a debug hold on one of its partitions there, or by a gang stop of it on another
package (R330, R378). -/
def State.held (s : State) (p : Nat) (rs : List Run) : Bool :=
  rs.any fun r => s.holdOn p r || (r.rc.pods != 0 && s.pkgs.any fun e =>
    e.1 != p && bitOf r.rc.pods e.1 && (e.2.runsOf r.rc.lid).any fun q => q.st == .stopped)

/-- The timer of a context runs in this cycle (R328). -/
def State.hbRuns (s : State) (c x : Nat) : Bool :=
  x != 0 && (match (s.ctx c x).st with
    | .active => !s.parked c x
    | .exiting => true
    | _ => false)

/-- The timers of a core gain a cycle; one that reaches its limit is a miss. -/
def State.heartbeat (s : State) (c : Nat) : State :=
  let k := s.core c
  let hold : Bool := match s.runOf c 0 with
    | some r => s.holdOn (pkgOf c) r
    | none => k.hold
  if k.hbi = 0 ∨ s.stopped c ∨ hold then s
  else
    let xs := (k.ctxs.map (·.1)).filter (s.hbRuns c)
    let s := xs.foldl (fun s x => s.modCtx c x fun t => { t with hb := (t.hb + 1) % 2 ^ 32 }) s
    if xs.any fun x => (s.ctx c x).hb == k.hbi.toNat * 256 then s.sched (s.now + 1) (.heartbeatMiss c) else s

/-- HEARTBEAT_MISS (R329, R362): the core is fenced alone, and its mesh neighbours receive a record. -/
def execHeartbeatMiss (s : State) : Outcome :=
  match s.ev with
  | .heartbeatMiss c =>
    if (s.core c).fenced then .next s
    else
      let p := posOf c
      let ns := [Dir.north, .east, .south, .west].filterMap (neighbour c)
      let s := ns.foldl (fun s n => s.queueRecord n { core := n, cause := .hbmiss, aux := ctxid c 0, tb := s.tbase (pkgOf c) }) s
      .next (s.sched s.now (.fence (pkgOf c) ⟨p.1, p.2, p.1, p.2⟩ .hbmiss))
  | _ => .next s

/-! ### Watchdogs (R330) -/

/-- A launch ends on every package that runs it. -/
def State.endLaunch (s : State) (p lid : Nat) (outcome : Option FaultCode) : State :=
  match (s.pkg p).run? lid with
  | some r => (r.rc.packages p).foldl (fun s q => s.sched s.now (.launchEnd q lid outcome)) s
  | none => s

/-- A context of a package holds a thread of a launch. -/
def State.holdsThread (s : State) (p lid : Nat) : Bool :=
  s.cores.any fun e => pkgOf e.1 == p && e.2.ctxs.any fun t => t.1 != 0 && t.2.st != .vacant && lidOf t.2.gtid == lid

/-- The stage that a watchdog reaches at a count, if any: a limit of 0 skips its stage. -/
def watchStage (rc : Launch) (n : Nat) : Option WdogState :=
  if rc.l1 ≠ 0 ∧ n = rc.l1 * 65536 then some .preempt
  else if rc.l2 ≠ 0 ∧ n = (rc.l1 + rc.l2) * 65536 then some .kill
  else if rc.l3 ≠ 0 ∧ n = (rc.l1 + rc.l2 + rc.l3) * 65536 then some .fence
  else none

/-- A launch runs for its watchdog: until its switch completes, and outside a gang stop (R330). -/
def Run.counts (r : Run) : Bool := r.st == .running || r.st == .switching

/-- The watchdog of a launch on a package gains a cycle, one for both copies of a MIRROR launch, unless a part of it there does not run.
In the KILL stage the launch ends once no context holds a thread of it. -/
def State.watchdog (s : State) (p lid : Nat) : State :=
  let rs := (s.pkg p).runsOf lid
  match rs with
  | [] => s
  | r :: _ =>
  if (rs.any fun r => !r.counts) || s.held p rs then s
  else
    let n := min (r.wdog + 1) (2 ^ 48 - 1)
    let s := s.modRun p lid fun r => { r with wdog := n }
    if r.wst = .kill ∧ !s.holdsThread p lid then s.endLaunch p lid (some .wdog)
    else match watchStage r.rc n with
    | some .preempt => s.sched (s.now + 1) (.watchdogPreempt p lid)
    | some .kill => s.sched (s.now + 1) (.watchdogKill p lid)
    | some .fence => s.sched (s.now + 1) (.watchdogFence p lid)
    | _ => s

/-- WATCHDOG_PREEMPT (R330): the partition is to be switched out, and the host receives WDOG. -/
def execWatchdogPreempt (s : State) : Outcome :=
  match s.ev with
  | .watchdogPreempt p lid =>
    .next (((s.modRun p lid fun r => { r with wst := .preempt }).toHost p (.wdog lid)).sched s.now (.gangSwitchRequest p lid))
  | _ => .next s

/-- A context that is being switched out is in its own state again. -/
def Ctx.unswitch (t : Ctx) : Ctx := if t.st = .switched then { t with st := t.saved, saved := .vacant, resumeBlk := none } else t

/-- Every context of a launch on a package is killed (R330, R344, R354), those that are being switched out included. -/
def State.killLaunch (s : State) (p lid : Nat) : State :=
  (s.cores.map (·.1)).foldl (fun s c =>
    if pkgOf c = p then
      (List.range 16).foldl (fun s x =>
        if x ≠ 0 ∧ lidOf (s.ctx c x).gtid = lid ∧ (s.ctx c x).st ≠ .vacant then (s.modCtx c x Ctx.unswitch).killCtx c x else s) s
    else s) s

/-- WATCHDOG_KILL (R330). -/
def execWatchdogKill (s : State) : Outcome :=
  match s.ev with
  | .watchdogKill p lid => .next (((s.modRun p lid fun r => { r with wst := .kill }).toHost p (.wdog lid)).killLaunch p lid)
  | _ => .next s

/-- WATCHDOG_FENCE (R330): every core of the launch's partitions is fenced, and it ends with WDOG. -/
def execWatchdogFence (s : State) : Outcome :=
  match s.ev with
  | .watchdogFence p lid =>
    match (s.pkg p).runsOf lid with
    | [] => .next s
    | rs =>
      let s := (s.modRun p lid fun r => { r with wst := .fence }).toHost p (.wdog lid)
      .next ((rs.foldl (fun s r => s.sched s.now (.fence p r.rc.rect .wdog)) s).endLaunch p lid (some .wdog))
  | _ => .next s

/-! ### Energy (R33, R100, R327) -/

/-- ENERGY_WINDOW_START (R327): erem is set to ebud, and ewin gains one, modulo 2^32. -/
def execEnergyWindowStart (s : State) : Outcome :=
  match s.ev with
  | .energyWindowStart d =>
    .next ((s.modDie d fun k => { k with erem := k.ebud.toNat, ewin := (k.ewin + 1) % 2 ^ 32 }).admitAgain d)
  | _ => .next s

/-- ENERGY_EPOCH_END (R327): erem falls by the metered energy of the epoch, a free value (log entry 5). -/
def execEnergyEpochEnd (s : State) : Outcome :=
  match s.ev with
  | .energyEpochEnd d =>
    let (n, s) := s.draw
    .next (s.modDie d fun k => { k with erem := k.erem - Config.epochEnergy n })
  | _ => .next s

/-! ### Digest sums (R332) -/

/-- DIGEST_SNAPSHOT (R332): the die takes the values of its 64 crystallisers and sums them by slot. -/
def execDigestSnapshot (s : State) : Outcome :=
  match s.ev with
  | .digestSnapshot d =>
    let hs := (List.range 64).map fun i => d / 32 * 2048 + d % 32 * 64 + i
    let sum (slot : Nat) : Nat := (hs.foldl (fun v h => v + (s.xtal h).digest.get 0 slot) 0) % 2 ^ 64
    let old := s.die d
    let base : Tbl Nat := (((old.digrNext.filter fun e => decide (e.1 ≤ s.now)).getLast?).map (·.2)).getD old.digr
    .next (s.modDie d fun k =>
      { k with digr := base
               digrNext := (k.digrNext.filter fun e => decide (s.now < e.1)) ++ [(s.now + 256, (List.range 8).map fun i => (i, sum i))] })
  | _ => .next s

/-! ### The start of a cycle -/

/-- The dies of a package. -/
def diesOf (p : Nat) : List Nat := (List.range 24).map fun i => p * 32 + i

/-- The rows that a package's crystallisers scrub in a cycle (R370): each comes to every row in turn, one in 256 cycles, and sixteen times
as often to those that its history lists (log entry 44). -/
def State.scrubs (s : State) (p t : Nat) : List Event :=
  (List.range 1536).flatMap fun i =>
    let h := p * 2048 + i
    let n := t / 256
    let listed := ((s.xtal h).history.filterMap fun e =>
      if bitOf e.2.toNat 0 then some (bitsOf e.2.toNat 1 24) else none).filter fun k => k % 2 ^ 20 == n % 2 ^ 20 && k != n % 2 ^ 24
    ((n % 2 ^ 24) :: listed).map fun k => .scrub h (k % 64) (k / 64) (Config.scrubFinds h t (k % 64) (k / 64))

/-- The steps of a package that begin in this cycle (R327, R332, R370, R374, R388). -/
def State.periodicOf (s : State) (p : Nat) : List Event :=
  let k := s.pkg p
  let t := s.tbase p
  if k.safe then []
  else
    (if t % 250 = 0 ∧ t ≠ 0 then (diesOf p).map .energyEpochEnd else [])
      ++ (if t % 250000 = 0 then (diesOf p).map .energyWindowStart else [])
      ++ (if t % 1024 = 0 then
            (diesOf p).map .digestSnapshot ++ (((k.runs.filter fun r => r.st == .running).map fun r => r.rc.lid).eraseDups).map (.quiescenceSum p)
          else [])
      ++ (if t % 256 = 128 then s.scrubs p t else [])
      ++ (if t % 2 ^ 20 = 0 ∧ t ≠ 0 ∧ k.on then ((List.range 32).filter fun n => (k.ports.get {} n).up).map (.timeSyncInterval p) else [])

/-- A core that stops issue in this cycle records its tbase and its counts of messages, and traces the stop (R334, R371). -/
def State.noteStop (s : State) (c : Nat) : State :=
  let k := s.core c
  if k.stopAt = some s.now then
    let t := s.tbase (pkgOf c)
    (s.modCore c fun k => { k with stopTb := t, stopSent := k.sent, stopReceived := k.received }).trace c 0 7 0 0 (some t)
  else s

/-- The first part of a cycle: delayed writes become visible, stops are noted, and the steps of the clock are due. -/
def State.startCycle (s : State) : State :=
  let s := (s.cores.map (·.1)).foldl (fun s c => (s.flushDelayed c).noteStop c) s
  let s := s.schedFirst s.now ((s.pkgs.map (·.1)).flatMap s.periodicOf)
  { s with phase := .turns 0 }

end Sys2Proof.Machine
end

