-- ==== Sys2Proof/Machine/Service.lean ====
section
/-!
DEFINITION. The service cores' work on launches (R24, R25, R224, R340 to R344, R367, R368, R380, R383): launch records and their
refusals, the start and end of a launch, the comparison of twin copies, and status records.
-/

namespace Sys2Proof.Machine

/-! ### Launch records (R340, R341) -/

/-- Word `i` of a record. -/
def recWord (ws : List W64) (i : Nat) : Nat := (ws.getD i 0).toNat

/-- A launch record from its sixteen words (R340). -/
def launchOf (ws : List W64) : Launch :=
  let f (i lo n : Nat) : Nat := bitsOf (recWord ws i) lo n
  { entry := recWord ws 0, args := ws.getD 1 0, centry := recWord ws 2
    height := f 3 48 16, width := f 3 32 16, row0 := f 3 16 16, col0 := f 3 0 16
    lid := f 4 48 16, asid := f 4 36 12, prio := f 4 33 3, strict := bitOf (recWord ws 4) 32, twin := f 4 30 2
    red := bitOf (recWord ws 4) 29, rights := bitOf (recWord ws 4) 28, energy := f 5 32 32, hbi := f 5 0 32
    l1 := f 6 48 16, l2 := f 6 32 16, l3 := f 6 16 16, seedb := f 7 32 32, seeda := f 7 0 32, sb := f 8 48 12, sa := f 8 32 12
    mrow0 := f 8 16 16, mcol0 := f 8 0 16, save := f 9 0 52, status := recWord ws 10
    pods := recWord ws 11 + 2 ^ 64 * recWord ws 12 + 2 ^ 128 * recWord ws 13 + 2 ^ 192 * recWord ws 14
    rsv := f 4 0 28 != 0 || f 6 0 16 != 0 || f 8 60 4 != 0 || f 8 44 4 != 0 || f 9 52 12 != 0 || recWord ws 15 != 0 }

/-- A partition is whole quads of the package (R24). -/
def partOk (c0 r0 w h : Nat) : Bool :=
  c0 % 2 == 0 && r0 % 2 == 0 && w % 2 == 0 && h % 2 == 0 && decide (2 ≤ w) && decide (2 ≤ h) && decide (c0 + w ≤ 192)
    && decide (r0 + h ≤ 136)

/-- Two rectangles have a core in common. -/
def Rect.overlaps (a b : Rect) : Bool :=
  decide (a.col0 ≤ b.col1) && decide (b.col0 ≤ a.col1) && decide (a.row0 ≤ b.row1) && decide (b.row0 ≤ a.row1)

/-- The second partition of a MIRROR launch. -/
def Launch.mirror (l : Launch) : Rect := ⟨l.mcol0, l.mrow0, l.mcol0 + l.width - 1, l.mrow0 + l.height - 1⟩

/-- The partitions a record needs. -/
def Launch.parts (l : Launch) : List Rect := if l.twin = 2 then [l.rect, l.mirror] else [l.rect]

/-- A service core refuses a record (R341). -/
def Package.refuses (k : Package) (p svc : Nat) (l : Launch) : Bool :=
  !partOk l.col0 l.row0 l.width l.height || l.rsv || l.twin == 3
    || (l.twin != 0 && (l.sa == l.sb || l.sa == l.asid || l.sb == l.asid
      || (l.twin == 2 && (!partOk l.mcol0 l.mrow0 l.width l.height || l.rect.overlaps l.mirror))))
    || k.runs.any (fun r => r.rc.lid == l.lid) || k.queue.any (fun q => q.2.1.lid == l.lid)
    || decide (64 ≤ (k.queue.filter fun q => q.1 == svc).length)
    || (l.pods != 0 && (!bitOf l.pods p || (l.pods != 2 ^ p && k.syncBad)))

/-- A mailbox command reaches its service core: nothing but the bring-up report is answered in the safe state, and there by
service core 0 alone (R383, R392). A command waits for those before it (R382). -/
def State.mailbox (s : State) (svc : Nat) (k : State → State) : State :=
  let p := pkgOf svc
  if (s.pkg p).safe then (if idxOf svc = 26112 then s.toHost p (.busy svc) else s) else s.inMailbox svc k

/-- SUBMIT_LAUNCH_RECORD (R340, R341, R383): the record joins the queue, or its writer learns of the refusal: the host by the
mailbox, a task by QFULL. A task needs a launch with rights. -/
def execSubmitLaunchRecord (s : State) : Outcome :=
  match s.ev with
  | .submitLaunchRecord svc ws task =>
    let p := pkgOf svc
    let l := launchOf ws
    match task with
    | none => .next (s.mailbox svc fun s =>
        if ws.length ≠ 16 ∨ (s.pkg p).refuses p svc l then s.toHost p (.invalid svc)
        else ((s.toHost p (.success svc [])).modPkg p fun k => { k with queue := k.queue ++ [(svc, l, false)] }).sched s.now
          (.launchStart p))
    | some w => .next (s.inMailbox svc fun s =>
        let rights := match s.runOf w.core w.ctx with | some r => r.rc.rights | none => false
        if (s.pkg p).safe || !rights || (s.pkg p).refuses p svc l then
          s.postDeferred { core := w.core, ctx := w.ctx, cause := .qfull, rblk := w.rblk, rslot := w.rslot, va := w.va }
        else (s.modPkg p fun k => { k with queue := k.queue ++ [(svc, l, false)] }).sched s.now (.launchStart p))
  | _ => .next s

/-! ### The start of a launch (R224, R342, R343, R380) -/

/-- A digest slot that no launch uses, the lowest (R224). -/
def Package.freeSlots (k : Package) : List Nat := (List.range 8).filter fun i => !k.runs.any fun r => r.slot == i && r.st != .ended

/-- The registers that a launch writes into a core of its partition when it starts, and again when it goes on (R343 step 1). -/
def Core.redress (k : Core) (rc : Launch) : Core :=
  { k with lid := some rc.lid, arbseed := BitVec.ofNat 32 rc.seeda, hbi := BitVec.ofNat 32 rc.hbi, admission := rc.energy }

/-- A core for a launch that starts (R343). -/
def Core.dress (k : Core) (rc : Launch) (asid gen : Nat) : Core :=
  { k.redress rc with ctxs := k.ctxs.put 0 { k.ctx 0 with asid := asid, gen := gen } }

/-- Where a launch stands that starts or resumes: in a gang stop if one holds a core of its partition (R371). -/
def State.runState (s : State) (p : Nat) (rc : Launch) : RunState :=
  if (rc.rect.cores p).any fun c => (s.core c).stopAt.isSome then .stopped else .running

/-- A launch, or a copy of a twin launch, starts on its partition (R343). -/
def State.startRun (s : State) (p svc : Nat) (rc : Launch) (copy asid : Nat) : State :=
  let k := s.pkg p
  let slot := k.freeSlots.headD 0
  let gen := k.genOf asid
  let r : Run := { rc := rc, svc := svc, copy := copy, asid := asid, slot := slot, st := s.runState p rc, privs := s.framesOf p asid fun l => l.cls == .priv }
  let s := s.modPkg p fun k => { k with runs := k.runs ++ [r] }
  let s := (s.xtals.filter fun e => e.1 / 2048 == p).foldl (fun s e => s.modXtal e.1 fun x => { x with digest := x.digest.drop slot }) s
  let cs := rc.rect.cores p
  let s := cs.foldl (fun s c => (s.modCore c fun q => { q.dress rc asid gen with lmem := k.localImages.get [] rc.lid }).checkBeat c) s
  let h := rootHash rc.lid
  let sp : Spawn := { gtid := BitVec.ofNat 64 (rc.lid * 2 ^ 48 + h), entry := rc.entry, arg := rc.args, ordw := 0, asid := asid, gen := gen
                      pair := rc.red, fromCore := svc }
  let s := s.sendSpawn s.now (placeOf p rc h) sp
  if rc.centry = 0 then s
  else cs.foldl (fun s c =>
    (s.modCore c fun q => { q with head := { q.head with commReq := some (rc.lid, p) } }).sched (s.now + pathTime svc c + 2)
      (.taskAdmission c)) s

/-- Copy B of a twin launch as a record of its own (R367). -/
def Launch.copyB (l : Launch) : Launch :=
  { l with seeda := l.seedb, col0 := if l.twin = 2 then l.mcol0 else l.col0, row0 := if l.twin = 2 then l.mrow0 else l.row0 }

/-- A record's partitions overlap no running launch. -/
def Package.clear (k : Package) (l : Launch) : Bool :=
  !k.runs.any fun r => r.stands && l.parts.any fun a => a.overlaps r.rc.rect

/-- The record that starts next (R342): the oldest of the highest priority among those whose partitions are free. -/
def Package.nextRecord (k : Package) : Option (Nat × Launch × Bool) :=
  (k.queue.filter fun q => k.clear q.2.1).foldl (fun b q => match b with
    | some c => if c.2.1.prio < q.2.1.prio then some q else b
    | none => some q) none

/-- Running launches that a waiting record of higher priority displaces (R342). -/
def Package.displaced (k : Package) : List Nat :=
  (k.runs.filter fun r => r.st == .running && !r.requested && k.queue.any fun q =>
    decide (r.rc.prio < q.2.1.prio) && q.2.1.parts.any fun a => a.overlaps r.rc.rect).map fun r => r.rc.lid

/-- LAUNCH_START (R224, R342, R343, R367): the next record starts, or its switched-out launch resumes; then the service core looks
again. With none to start, launches that stand in the way of a higher priority are switched out. -/
def execLaunchStart (s : State) : Outcome :=
  match s.ev with
  | .launchStart p =>
    let k := s.pkg p
    if k.safe || !k.on then .next s
    else match k.nextRecord with
    | none => .next (k.displaced.foldl (fun s l => s.sched s.now (.gangSwitchRequest p l)) s)
    | some q =>
      let l := q.2.1
      let s' := s.modPkg p fun k => { k with queue := k.queue.erase q }
      if q.2.2 then
        let (n, s') := s'.draw
        let s' := s'.modRun p l.lid fun r => { r with st := .resuming }
        .next ((s'.sched (s.now + 1 + Config.resumeDelay n) (.resume p l.lid)).sched s.now (.launchStart p))
      else if k.freeSlots.length < (if l.twin = 2 then 2 else 1) then
        .next (k.displaced.foldl (fun s l => s.sched s.now (.gangSwitchRequest p l)) s)
      else
        let s' := if l.twin = 0 then s'.startRun p q.1 l 0 l.asid else s'.startRun p q.1 l 1 l.sa
        let s' := if l.twin = 2 then s'.startRun p q.1 l.copyB 2 l.sb else s'
        .next (s'.sched s.now (.launchStart p))
  | _ => .next s

/-! ### The end of a launch (R316, R344, R368) -/

/-- The digest of a slot over a package's crystallisers (R224). -/
def State.gatherDigest (s : State) (p slot : Nat) : Nat :=
  (s.xtals.foldl (fun v e => if e.1 / 2048 = p then v + e.2.digest.get 0 slot else v) 0) % 2 ^ 64

/-- The barrier objects that a launch initialised from a package return to the uninitialised state, with the enrolments in them
(R316). -/
def State.returnBars (s : State) (p lid : Nat) : State :=
  let mine := s.bars.filter fun e => e.2.init && e.2.lid == lid && e.2.pkg == p
  let core (e : Nat × Core) : Nat × Core :=
    (e.1, { e.2 with enrol := e.2.enrol.filter fun r => !mine.any fun b => b.1 == barKey e.1 r.bar })
  { s with bars := s.bars.filter (fun e => !(e.2.init && e.2.lid == lid && e.2.pkg == p)), cores := s.cores.map core }

/-- What waits in the queues of a package for a launch that has ended goes. -/
def State.clearQueues (s : State) (p lid : Nat) : State :=
  let core (e : Nat × Core) : Nat × Core :=
    if pkgOf e.1 = p then
      (e.1, { e.2 with
        spawnq := e.2.spawnq.filter fun q => lidOf q.gtid != lid
        arrq := e.2.arrq.filter fun q => lidOf q.gtid != lid
        delq := e.2.delq.filter fun q => lidOf q.gtid != lid
        lid := if e.2.lid = some lid then none else e.2.lid
        hold := if e.2.lid = some lid then false else e.2.hold
        stopAt := if e.2.lid = some lid then none else e.2.stopAt
        startAt := if e.2.lid = some lid then none else e.2.startAt
        head := if e.2.lid = some lid then { e.2.head with commReq := none } else e.2.head })
    else e
  { s with cores := s.cores.map core, images := s.images.filter fun e => !(pkgOf (e.1 / 65536) == p && e.2.1 == lid) }

/-- What a router of a launch's partitions holds in its ring goes on its way (R372): the launch ends while it is switched. -/
def State.emptyRings (s : State) (p lid : Nat) : State :=
  (s.cores.filter fun e => pkgOf e.1 == p && e.2.lid == some lid && !e.2.spill.isEmpty).foldl (fun s e =>
    e.2.spill.foldl (fun s v => s.sched s.now v) (s.modCore e.1 fun k => { k with spill := [] })) s

/-- The number of a producer's kind, in R82's order. -/
def ProdKind.num : ProdKind → Nat
  | .waitt => 0 | .faddb => 1 | .incw => 2 | .cpy => 3 | .cpyw => 4 | .tckv => 5 | .trow => 6 | .dcall => 7 | .merge => 8

/-- The numbers that describe a wait object (R376). -/
def WaitOn.fields : WaitOn → List Nat
  | .reg f r kind loc =>
    [0, f.code, r] ++ (match kind with | some k => [k.num + 1] | none => [0])
      ++ (match loc with | some (a, t) => a :: (match t with | some ms => ms.length :: ms | none => []) | none => [])
  | .queue q => [1, q]
  | .barrier b p => [2, b, p]
  | .commit => [3]

/-- A DEADLK entry as a trap record (R359, R376): its wait object in aux, in a layout that the spec does not give (log entry 5), and its
slot where a record names a slot (log entry 67). -/
def DeadEntry.record (d : DeadEntry) : TrapRec :=
  { core := d.core, ctx := d.ctx, pair := d.pair, cause := .deadlk, gtid := d.gtid, blk := d.blk, rslot := d.slot
    aux := BitVec.ofNat 64 (Config.deadWord d.on.fields), tb := d.tb }

/-- The words of a status record (R344). -/
def Status.words (r : Status) : List Nat :=
  let n := min r.dead.length 1024
  let head := [r.outcome, r.exit.toNat, r.digest, (if r.escaped then 1 else 0) + n * 2 ^ 16, 0, 0, 0, 0]
  if n = 0 then head.take 4 else head ++ (r.dead.take n).flatMap fun d => d.record.words

/-- A launch record is reported: its status stands for mailbox command 0xC001, goes to host memory if the record names a place,
and raises a mailbox event. The launch is gone. -/
def State.report (s : State) (p : Nat) (rc : Launch) (t : Status) : State :=
  let s := s.modPkg p fun k =>
    { k with statuses := k.statuses.put rc.lid t, runs := k.runs.filter fun r => r.rc.lid != rc.lid
             queue := k.queue.filter fun q => q.2.1.lid != rc.lid }
  let s := if rc.status = 0 then s else s.writeHost rc.status (t.words.flatMap fun w => leBytes w 8)
  (s.toHost p (.statusEvent rc.lid)).sched s.now (.launchStart p)

/-- The number of an outcome in a status record. -/
def outcomeNum (o : Option FaultCode) : Nat := match o with | some f => f.num | none => 0

/-- LAUNCH_END (R224, R316, R344, R367, R368): every context of the launch is killed, its barrier objects and slot are free, its
digest is gathered and its status reported; a copy of a twin launch that ends well is compared once both have ended. -/
def execLaunchEnd (s : State) : Outcome :=
  match s.ev with
  | .launchEnd p lid outcome =>
    let rs := (s.pkg p).runs.filter fun r => r.rc.lid == lid && r.st != .ended
    match rs with
    | [] => .next s
    | r :: _ =>
      let s := (((s.killLaunch p lid).emptyRings p lid).clearQueues p lid).returnBars p lid
      let rs := (s.pkg p).runs.filter fun r => r.rc.lid == lid && r.st != .ended
      let esc := (s.pkg p).runs.any fun q => q.rc.lid == lid && q.escaped
      if r.rc.twin = 0 ∨ outcome.isSome then
        let a := (rs.head?).getD r
        .next (s.report p a.rc ⟨outcomeNum outcome, a.rootExit, s.gatherDigest p a.slot, esc, a.dead⟩)
      else
        let fin (q : Run) : Run :=
          if q.rc.lid == lid && q.st != .ended then { q with st := .ended, result := some (outcome, s.gatherDigest p q.slot, q.rootExit) }
          else q
        let s := s.modPkg p fun k => { k with runs := k.runs.map fin }
        if r.rc.twin = 1 ∧ r.copy = 1 then .next (s.startRun p r.svc r.rc.copyB 2 r.rc.sb) else .next (s.sched s.now (.twinCompare p lid))
  | _ => .next s

/-- TWIN_COMPARE (R368): equal copies commit copy A: asid takes sa's root, its generation changes, and completion is reported;
others are ORDER for SEED and SDC for MIRROR. -/
def execTwinCompare (s : State) : Outcome :=
  match s.ev with
  | .twinCompare p lid =>
    let rs := (s.pkg p).runs.filter fun r => r.rc.lid == lid
    match rs with
    | [a, b] =>
      match a.result, b.result with
      | some x, some y =>
        let esc := a.escaped || b.escaped
        if x ≠ y then
          .next (s.report p a.rc ⟨(if a.rc.twin = 1 then FaultCode.order else .sdc).num, a.rootExit, x.2.1, esc, []⟩)
        else if !a.genb then
          let s := s.modPkg p fun k =>
            { k with roots := k.roots.put a.rc.asid (k.roots.get 0 a.rc.sa)
                     runs := k.runs.map fun r => if r.rc.lid == lid then { r with genb := true } else r }
          .next ((s.startGenb p a.rc.asid s.now none).sched (s.now + 1) s.ev)
        else if (s.pkg p).genbs.any fun g => g.asid == a.rc.asid && g.core.isNone then .next (s.sched (s.now + 1) s.ev)
        else .next (s.report p a.rc ⟨0, a.rootExit, x.2.1, esc, []⟩)
      | _, _ => .next s
    | _ => .next s
  | _ => .next s

/-- READ_STATUS_RECORD (R383): mailbox command 0xC001. -/
def execReadStatusRecord (s : State) : Outcome :=
  match s.ev with
  | .readStatusRecord svc lid =>
    let p := pkgOf svc
    .next (s.mailbox svc fun s =>
      match (s.pkg p).statuses.get? lid with
      | some t => s.toHost p (.success svc (t.words.map (BitVec.ofNat 64 ·)))
      | none => s.toHost p (.invalid svc))
  | _ => .next s

end Sys2Proof.Machine
end

