-- ==== Sys2Proof/Machine/Quiesce.lean ====
section
/-!
DEFINITION. Quiescence (R250, R374 to R378): the activity sums of a partition, their gathering over a pod, and what the service core
does when a launch is quiescent.
-/

namespace Sys2Proof.Machine

/-- The cores of a launch on a package that the state lists; the others are at rest. -/
def State.partCores (s : State) (p lid : Nat) : List Nat :=
  (s.cores.map (·.1)).filter fun c => pkgOf c == p && ((s.pkg p).runsOf lid).any fun r => r.rc.rect.has c

/-- A wait that a crystalliser holds for a context of these cores (R374): it counts neither as outstanding nor as in flight. -/
def State.heldWaits (s : State) (cs : List Nat) : Nat :=
  (s.xtals.map fun e => (e.2.waiters ++ e.2.overflow).countP fun w => w.req.who.any fun q =>
    cs.contains q.core && (s.ctx q.core q.ctx).outs.any fun o => o.1 == q.id).sum

/-- The ready contexts of a core (R374): those that are ACTIVE. -/
def State.readyOf (s : State) (c : Nat) : Nat := (List.range 16).countP fun x => s.ctxState c x == 1

/-- Messages that a core's contexts hold until they send them again, or behind such a one (R374). -/
def Core.resends (k : Core) : Nat :=
  (k.ctxs.map fun e => e.2.sends.length + e.2.delegs.length + e.2.spawns.length
    + (match e.2.depart with | some d => if d.waiting then 1 else 0 | none => 0)).sum

/-- The sums of a launch on a package in this cycle (R374). -/
def State.sumsOf (s : State) (p lid : Nat) : Sums :=
  let cs := s.partCores p lid
  let ks := cs.map s.core
  let w := s.heldWaits cs
  let svcResends := s.agenda.countP fun e => match e.2 with
    | .spawnResend _ sp => isService sp.fromCore && lidOf sp.gtid == lid
    | _ => false
  { tb := s.tbase p
    ready := (cs.map s.readyOf).sum
    sent := (ks.map (·.sent)).sum
    received := (ks.map (·.received)).sum + w
    outst := (ks.map fun k => (k.ctxs.map fun e => e.2.outs.length).sum).sum - w + (((s.pkg p).runsOf lid).map (·.frzOut)).sum
    engine := (ks.map fun k => k.fifo.length + k.copyq.length + k.copying.length).sum
    resend := (ks.map Core.resends).sum + svcResends
    entries := (ks.map fun k => k.spawnq.length + k.arrq.length).sum }

/-- A sum shows nothing to do, but for the equality with the one before. -/
def Sums.still (m : Sums) : Bool :=
  m.ready == 0 && m.sent == m.received && m.outst == 0 && m.engine == 0 && m.resend == 0 && m.entries == 0

/-- Two consecutive sums show quiescence (R374). -/
def quiet (a b : Sums) : Bool := a.still && b.still && a.sent == b.sent

/-- The sum of two packages' sums (R377). -/
def Sums.add (a b : Sums) : Sums :=
  { tb := a.tb, ready := a.ready + b.ready, sent := a.sent + b.sent, received := a.received + b.received, outst := a.outst + b.outst
    engine := a.engine + b.engine, resend := a.resend + b.resend, entries := a.entries + b.entries }

/-- Every part of a launch runs: none is in a gang stop or switched out (R378). -/
def State.allRunning (s : State) (p lid : Nat) : Bool :=
  match (s.pkg p).run? lid with
  | none => false
  | some r => (r.rc.packages p).all fun q => ((s.pkg q).runsOf lid).all fun r => r.st == .running

/-- New sums are compared with those before them; quiescence is found in this cycle. -/
def State.judge (s : State) (p lid : Nat) (sm : Sums) : State :=
  match (s.pkg p).run? lid with
  | none => s
  | some r =>
    let s := s.modRun p lid fun r => { r with sums := some sm }
    match r.sums with
    | some old => if quiet old sm then s.sched s.now (.quiescenceFound p lid) else s
    | none => s

/-- QUIESCENCE_SUM (R374, R377): at a multiple of 1,024 the sums are taken; 256 cycles later they are ready, and judged, or sent to
the coordinator of a pod launch. -/
def execQuiescenceSum (s : State) : Outcome :=
  match s.ev with
  | .quiescenceSum p lid =>
    if !s.allRunning p lid then .next (s.modRun p lid fun r => { r with sums := none, newSums := none })
    else if s.tbase p % 1024 = 0 then
      let sm := s.sumsOf p lid
      .next ((s.modRun p lid fun r => { r with newSums := some sm }).sched (s.now + 256) s.ev)
    else match (s.pkg p).run? lid with
    | none => .next s
    | some r =>
      match r.newSums with
      | none => .next s
      | some sm =>
        let s := s.modRun p lid fun r => { r with newSums := none }
        match r.rc.packages p with
        | [_] => .next (s.judge p lid sm)
        | ps =>
          let coord := ps.headD p
          if coord = p then .next (s.sched s.now (.podSums lid p sm))
          else .next (s.send s.now (coreKey p 26112) (.sums coord lid p sm))
  | _ => .next s

/-- POD_SUMS (R377, R378): the coordinator gathers the packages' sums; with the last of one tbase it judges the pod. -/
def execPodSums (s : State) : Outcome :=
  match s.ev with
  | .podSums lid p sm =>
    match (s.pkg p).run? lid with
    | none => .next { s with podSums := s.podSums.drop lid }
    | some r =>
      let ps := r.rc.packages p
      let coord := ps.headD p
      let got := ((s.podSums.get [] lid).filter fun e => e.2.tb == sm.tb && e.1 != p) ++ [(p, sm)]
      if !s.allRunning p lid then .next (({ s with podSums := s.podSums.drop lid }).modRun coord lid fun r => { r with sums := none })
      else if got.length < ps.length then .next { s with podSums := s.podSums.put lid got }
      else
        let all := (got.drop 1).foldl (fun m e => m.add e.2) ((got.head?).map (·.2) |>.getD sm)
        .next (({ s with podSums := s.podSums.drop lid }).judge coord lid all)
  | _ => .next s

/-- A launch's registered ranges on a package, those of both copies of a MIRROR launch, in the order of registration, each with its
ASID (R250). -/
def rangesOf (rs : List Run) : List (Nat × Nat × List Nat) :=
  (rs.flatMap fun r => r.frzq.map fun e => (e.1, r.asid, e.2)).foldl (fun l e =>
    l.takeWhile (fun q => decide (q.1 < e.1)) ++ e :: l.dropWhile fun q => decide (q.1 < e.1)) []

/-- Service core 0 of a package releases a launch's registered ranges, a request a cycle (R250). -/
def State.releaseRanges (s : State) (p lid : Nat) : State :=
  let rs := (s.pkg p).runsOf lid
  let fs := (rangesOf rs).flatMap fun e => e.2.2.map fun pa => (e.2.1, pa)
  let svc := coreKey p 26112
  let s := s.modRun p lid fun r => { r with frzq := [], frzOut := r.frzOut + fs.length }
  (fs.zip (List.range fs.length)).foldl (fun s e =>
    let pa := e.1.2
    let q : Req := { kind := .freeze, pa := pa, va := pa, lat := ((s.frame pa).lat).getD {}, asid := e.1.1
                     gen := (s.pkg p).genOf e.1.1, lid := lid, ret := .service p }
    s.send (s.now + e.2) svc (.req (homeOf pa) (q.by svc 0 lid))) s

/-- Every thread of a launch on a package has exited or is retained (R375). -/
def State.allExited (s : State) (p lid : Nat) : Bool :=
  (s.partCores p lid).all fun c => (s.core c).ctxs.all fun e =>
    e.1 == 0 || e.2.st == .vacant || e.2.st == .exiting || e.2.retained

/-- What a PARKED context waits on, as a DEADLK entry (R376). -/
def State.deadEntry (s : State) (c x : Nat) : DeadEntry :=
  let t := s.ctx c x
  let slot : Nat := match t.blk with
    | some b => ((s.scanWait c x b).map (·.1)).getD 0
    | none => 0
  { gtid := t.gtid, core := c, ctx := x, blk := t.blkAddr, slot := slot, on := ((s.waitOf c x).map (·.on)).getD .commit
    tb := s.tbase (pkgOf c), pair := t.pair }

/-- The PARKED threads of a launch on a package that are not retained; a pair is one thread (R376). -/
def State.deadList (s : State) (p lid : Nat) : List DeadEntry :=
  (s.partCores p lid).flatMap fun c => (List.range 16).filterMap fun x =>
    let t := s.ctx c x
    if x ≠ 0 ∧ s.ctxState c x = 2 ∧ !t.retained ∧ !(t.pair && x % 2 == 1) then some (s.deadEntry c x) else none

/-- QUIESCENCE_FOUND (R250, R375 to R377): registered ranges are frozen; or the launch ends; or it ends with DEADLK. A pod's
coordinator acts for every package. -/
def execQuiescenceFound (s : State) : Outcome :=
  match s.ev with
  | .quiescenceFound p lid =>
    match (s.pkg p).run? lid with
    | none => .next s
    | some r =>
      let ps := r.rc.packages p
      if !s.allRunning p lid then .next s
      else if ps.any fun q => ((s.pkg q).runsOf lid).any fun r => !r.frzq.isEmpty then
        .next (ps.foldl (fun s q => s.releaseRanges q lid) s)
      else if ps.all fun q => s.allExited q lid then .next (ps.foldl (fun s q => s.sched s.now (.launchEnd q lid none)) s)
      else .next (ps.foldl (fun s q =>
        let dead := s.deadList q lid
        (s.modRun q lid fun r => { r with dead := dead }).sched s.now (.launchEnd q lid (some .deadlk))) s)
  | _ => .next s

end Sys2Proof.Machine
end

