-- ==== Sys2Proof/Machine/Gang.lean ====
section
/-!
DEFINITION. Fences, gang stops and gang switches (R58, R87, R189, R190, R259, R287, R326, R339, R357, R363, R369, R371 to R373, R390):
what a stop, a switch and a resume do to the cores, routers and ports of a partition.
-/

namespace Sys2Proof.Machine

/-! ### Fences (R301, R369) -/

/-- A core after a reset: its router's part, its counts of messages, its trace buffer and its stop stay; flits that its router held
for its input queues enter them (R369). -/
def Core.resetByFence (k : Core) : Core :=
  let k' : Core :=
    { ctxs := k.ctxs.map fun e => (e.1, { serial := e.2.serial + 1 }), linkOut := k.linkOut, lastOut := k.lastOut, comb := k.comb
      streams := k.streams, streamIn := k.streamIn, spill := k.spill, traceBuf := k.traceBuf, traceDrop := k.traceDrop, sent := k.sent
      received := k.received, stopAt := k.stopAt, startAt := k.startAt, stopTb := k.stopTb, stopSent := k.stopSent
      stopReceived := k.stopReceived, fenced := true, lid := k.lid, latches := k.latches, tails := k.tails }
  [0, 1, 2, 3].foldl (fun k q => k.popLink q 0) k'

/-- The launches with a thread in a context of a core: a head context that runs belongs to the launch on its partition. -/
def Core.launches (k : Core) : List Nat :=
  k.ctxs.filterMap fun e => if e.2.st = .vacant then none else if e.1 = 0 then k.lid else some (lidOf e.2.gtid)

/-- Messages of a core that others have refused will not be sent again (R263). -/
def State.forgetSender (s : State) (c : Nat) : State :=
  let core (e : Nat × Core) : Nat × Core := (e.1, { e.2 with refused := e.2.refused.filter fun m => m.1 != c })
  { s with cores := s.cores.map core }

/-- A core is fenced: its threads are killed, with dk, and it is reset. -/
def State.fenceCore (s : State) (c : Nat) : State :=
  let xs := ((s.core c).ctxs.map (·.1)).filter fun x => x != 0
  let s := xs.foldl (fun s x => (s.dropBlock c x).dropBarriers c x 4 s.now) s
  ((s.dropBlock c 0).modCore c Core.resetByFence).forgetSender c

/-- FENCE (R301, R363, R366, R369): every core of the rectangle resets, the containment entry that names it is marked, and every
launch with a context inside ends with the cause. -/
def execFence (s : State) : Outcome :=
  match s.ev with
  | .fence p rect cause =>
    let lids := ((s.cores.filter fun e => pkgOf e.1 == p && rect.has e.1).flatMap fun e => e.2.launches).eraseDups
    let s := (rect.cores p).foldl State.fenceCore s
    let s := match (s.pkg p).rects.find? fun e => e.2.v && e.2.rect == rect with
      | some e => s.modPkg p fun k => { k with rects := k.rects.put e.1 { e.2 with fenced := true } }
      | none => s.modPkg p fun k => { k with fences := k.fences ++ [rect] }
    .next (lids.foldl (fun s l => s.endLaunch p l (some cause)) s)
  | _ => .next s

/-! ### Gang stop (R357, R371) -/

/-- A launch of a package has a partition that shares a core with a rectangle. -/
def Run.meets (r : Run) (rect : Rect) : Bool := r.stands && r.rc.rect.overlaps rect

/-- GANG_STOP (R58, R371): every core of the partition stops issue within 48 cycles of the first (log entry 5). -/
def execGangStop (s : State) : Outcome :=
  match s.ev with
  | .gangStop p rect =>
    let s := (rect.cores p).foldl (fun s c =>
      if (s.core c).stopAt.isSome then s
      else
        let (n, s) := s.draw
        s.modCore c fun k => { k with stopAt := some (s.now + 1 + Config.stopSkew n % 49), startAt := none }) s
    let stop (r : Run) : Run := if r.meets rect && r.st == .running then { r with st := .stopped, sums := none, newSums := none } else r
    .next (s.modPkg p fun k => { k with runs := k.runs.map stop })
  | _ => .next s

/-- A core goes on after a stop: phases completed meanwhile reach it (R326), and its engines, queues and head context look for work. -/
def State.wakeCore (s : State) (c : Nat) : State :=
  (((((s.learnPhases c).sched s.now (.tileOpBegin c)).sched s.now (.copyCommandBegin c)).sched s.now (.continuationPlace c)).sched s.now
    (.taskAdmission c)).sched s.now (.trapHandlerEntry c)

/-- What ports of a package hold for a rectangle enters the mesh (R390). -/
def State.releasePorts (s : State) (p : Nat) (rect : Rect) : State :=
  (s.pkg p).ports.foldl (fun s e =>
    let mine (h : (Nat × Nat) × NetMsg) : Bool := rect.has (h.2.place p e.1)
    let go := e.2.held.filter mine
    let s := s.modPkg p fun k => { k with ports := k.ports.put e.1 { e.2 with held := e.2.held.filter fun h => !mine h } }
    go.foldl (fun s h => (s.enterMesh p e.1 h.2).returnCredit p e.1 h.2) s) s

/-- GANG_STOP_RESUME (R342, R343, R371): the cores agree on a tbase (log entry 5), and at that tbase the launch's registers are written
again and issue resumes on every core; a record of higher priority that came meanwhile displaces the launch. -/
def execGangStopResume (s : State) : Outcome :=
  match s.ev with
  | .gangStopResume p rect =>
    let cs := (s.cores.filter fun e => pkgOf e.1 == p && rect.has e.1 && e.2.stopAt.isSome && !s.switching e.1).map (·.1)
    if cs.any fun c => (s.core c).startAt == some s.now then
      let rs := (s.pkg p).runs.filter fun r => r.meets rect && r.st == .stopped
      let s := cs.foldl (fun s c => s.modCore c fun k =>
        let k := { k with stopAt := none, startAt := none }
        match rs.find? fun r => r.rc.rect.has c with
        | some r => k.redress r.rc
        | none => k) s
      let s := cs.foldl State.checkBeat s
      let go (r : Run) : Run := if r.meets rect && r.st == .stopped then { r with st := .running } else r
      let s := s.modPkg p fun k => { k with runs := k.runs.map go }
      .next (((cs.foldl State.wakeCore s).releasePorts p rect).sched s.now (.launchStart p))
    else if cs.isEmpty || cs.any fun c => (s.core c).startAt.isSome then .next s
    else
      let (n, s) := s.draw
      let t := s.now + 1 + Config.resumeDelay n
      .next ((cs.foldl (fun s c => s.modCore c fun k => { k with startAt := some t }) s).sched t s.ev)
  | _ => .next s

/-! ### Gang switch (R372) -/

/-- GANG_SWITCH_REQUEST (R330, R342, R357, R372): the service core sets T to tbase + 4,096 and broadcasts it. -/
def execGangSwitchRequest (s : State) : Outcome :=
  match s.ev with
  | .gangSwitchRequest p lid =>
    match (s.pkg p).run? lid with
    | some r =>
      if r.st = .running ∧ !r.requested then
        .next ((s.modRun p lid fun r => { r with requested := true }).sched (s.now + 4096) (.gangSwitch p lid))
      else .next s
    | none => .next s
  | _ => .next s

/-- A context is switched out (R58, R339): its uncommitted block is discarded and will be fetched again. -/
def State.switchCtx (s : State) (c x : Nat) : State :=
  let t := s.ctx c x
  if t.st = .vacant then s
  else
    let blk := if t.blk.isSome || t.fetch.isSome then some t.blkAddr else none
    (s.dropBlock c x).modCtx c x fun t => { t with st := .switched, saved := t.st, resumeBlk := blk }

/-- The core whose refused message an event is to send again. -/
def Event.retryOf : Event → Option Nat
  | .sendRetry m => some m.src
  | .delegationRetry m => some m.src
  | .continuationRetry c _ => some c
  | .spawnResend _ sp => some sp.fromCore
  | _ => none

/-- The cores of a launch's partitions on a package. -/
def State.launchCores (s : State) (p lid : Nat) : List Nat := ((s.pkg p).runsOf lid).flatMap fun r => r.rc.rect.cores p

/-- GANG_SWITCH (R58, R189, R259, R287, R372): at T issue stops, uncommitted blocks are discarded, waits for a retry end, and the
cores' images are to be written from T + 1,096 on. -/
def execGangSwitch (s : State) : Outcome :=
  match s.ev with
  | .gangSwitch p lid =>
    match (s.pkg p).run? lid with
    | none => .next s
    | some r =>
      if r.st ≠ .running ∧ r.st ≠ .stopped then .next s
      else
        let cs := s.launchCores p lid
        let t := s.tbase p
        let s := cs.foldl (fun s c =>
          let s := s.modCore c fun k => { k with stopAt := some s.now, startAt := none }
          ((List.range 16).foldl (fun s x => s.switchCtx c x) s).trace c 0 7 0 0 (some t)) s
        let s := { s with agenda := s.agenda.filter fun e => match e.2.retryOf with
          | some c => !cs.contains c
          | none => true }
        let s := s.modRun p lid fun r => { r with st := .switching, saved := 0, sums := none, newSums := none }
        .next (cs.foldl (fun s c => s.sched (s.now + 1096) (.switchImageWrite c lid)) s)
  | _ => .next s

/-- The core at which a stream-class or thread-class message, or a barrier arrival, ends: it goes into the spill ring there while the
core's partition is being switched (R326, R372). A reply to a DCALL does not: it is written into the requester's image (R285). -/
def Event.spillAt : Event → Option Nat
  | .spawnArrival c _ => some c
  | .spawnRefusal _ sp => some sp.fromCore
  | .continuationArrival k => some k.dst
  | .continuationAccept c _ => some c
  | .continuationRefusal c _ _ _ => some c
  | .sendArrival m => some m.dst
  | .sendRefusal m _ => some m.src
  | .delegationArrival m => some m.dst
  | .delegationRefusal m _ => some m.src
  | .routineFaultReply m _ => some m.src
  | .exitMessageApply m => some m.dst
  | .barrierArrivalDepart _ c _ _ _ => some c
  | .streamFlitForward r _ _ => some r
  | .streamCombine r _ => some r
  | .markerStep r _ => some r
  | _ => none

/-- The step's event goes into a spill ring. -/
def State.spilled (s : State) (e : Event) : Option Nat :=
  match e.spillAt with
  | some c => if s.switching c then some c else none
  | none => none

/-! ### Switch images (R98, R372) -/

/-- The key of a core's image for a launch. -/
def imageKey (c lid : Nat) : Nat := c * 65536 + lid

/-- Granule `k` of local memory is marked live (R98). -/
def Core.live (k : Core) (g : Nat) : Bool := bitOf (k.lgm.get 0 (g / 64)).toNat (g % 64)

/-- The granules of a core that are marked live. -/
def Core.liveGranules (k : Core) : List Nat := (List.range 256).filter k.live

/-- A core with the parts of another that no image holds (R307, R372): counters, caches, buffers, trace, stops and its router's own. -/
def Core.keeping (k own : Core) : Core :=
  { k with
    tvec := own.tvec, seinj := own.seinj, counters := own.counters, overflow := own.overflow, incs := own.incs, cwrites := own.cwrites
    unseen := own.unseen, psb := own.psb, bcache := own.bcache, tlb := own.tlb, lastOut := own.lastOut, comb := own.comb
    traceBuf := own.traceBuf, traceDrop := own.traceDrop, stopAt := own.stopAt, startAt := own.startAt, stopTb := own.stopTb
    stopSent := own.stopSent, stopReceived := own.stopReceived, fenced := own.fenced, latches := own.latches, tails := own.tails
    privOld := own.privOld, ringAt := own.ringAt }

/-- What an image holds of a context beside its dump (R353, R372). -/
def Ctx.imageRest (t : Ctx) : Ctx :=
  if t.st = .vacant then {}
  else { t with g := [], p := [], v := [], ox := [], gtid := 0, asid := 0, gen := 0, strm := 0, retained := false, hb := 0, serial := 0
                latch := t.latch.map fun l => { l with trap := {} } }

/-- What the part of an image between its tiles and its granules holds (R372): tom, tsh, the states of the tiles, the FIFO, the queues of
R287 and the enrolment state, with all else of the core that is neither in a dump, a tile or a granule nor in its router's ring. -/
def Core.imageRest (k : Core) : Core :=
  { k.keeping {} with ctxs := k.ctxs.map fun e => (e.1, e.2.imageRest), tiles := k.tiles.map fun e => (e.1, { e.2 with bytes := [] })
                      lmem := [], spill := [], streams := [] }

/-- The 4,096 bytes of that part, in a layout that the spec does not give (log entry 5). -/
def Core.imageQueues (k : Core) : List Byte := (List.range 4096).map (Config.imageByte k.imageRest)

/-- The bytes of a core's image (R372): dumps, tiles, the 4,096 bytes of its queues, and the live granules. -/
def State.imageBytes (s : State) (c : Nat) : List Byte :=
  let k := s.core c
  let dumps := (List.range 16).flatMap fun x => s.dump c x
  let tiles := (List.range 16).flatMap fun i => fullTile (k.tiles.get {} i).bytes
  dumps ++ tiles ++ k.imageQueues ++ k.liveGranules.flatMap fun g => k.readLocal (g * 1536) 1536

/-- The physical address of a core's image (R343, R372). -/
def imageBase (rc : Launch) (c : Nat) : Nat :=
  if rc.save = 0 then pkgOf c * 2 ^ 44 + Config.saveBase (pkgOf c) % 2 ^ 27 * 65536 + idxOf c * 0x80000
  else
    let p := posOf c
    rc.save + ((p.2 - rc.row0) * rc.width + (p.1 - rc.col0)) * 0x80000

/-- What an image does not hold of a context (R307): its heartbeat timer, and the model's count of its windows. -/
def Ctx.afterImage (t : Ctx) : Ctx := { serial := t.serial, hb := t.hb }

/-- What stays in a core whose image is written: the parts that no image holds. Its contexts are vacant. -/
def Core.afterImage (k : Core) : Core := { ({} : Core).keeping k with ctxs := k.ctxs.map fun e => (e.1, e.2.afterImage) }

/-- The cycle in which the last write of an image of `n` bytes at `pa` is acknowledged: 32 bytes leave in each cycle, to the homes of
the frames. -/
def State.imageDone (s : State) (c pa n : Nat) : Nat :=
  (List.range (n / 65536 + 1)).foldl (fun t j =>
    let m := (s.homePath c (pa + j * 65536)).getD 0
    max t (s.now + (min n ((j + 1) * 65536) + 31) / 32 - 1 + 2 * m + 6)) s.now

/-- SWITCH_IMAGE_WRITE (R98, R189, R259, R372): once its engine, begun copy commands and stores are done, a core writes its image. -/
def execSwitchImageWrite (s : State) : Outcome :=
  match s.ev with
  | .switchImageWrite c lid =>
    let k := s.core c
    match (s.pkg (pkgOf c)).runAt? lid c with
    | none => .next s
    | some r =>
      if r.st ≠ .switching then .next s
      else if k.engine.isSome || !k.copying.isEmpty || !k.copyEnded.isEmpty || !k.psb.isEmpty || !k.sysops.isEmpty || !k.delayed.isEmpty then
        .next (s.sched (s.now + 1) s.ev)
      else
        let pa := imageBase r.rc c
        let bs := s.imageBytes c
        let t := s.imageDone c pa bs.length
        let s := s.writeMem pa bs
        let s := { s with images := s.images.put (imageKey c lid) (lid, k) }
        .next ((s.modCore c Core.afterImage).sched t (.gangSwitchComplete (pkgOf c) lid))
  | _ => .next s

/-- The core and quad barrier objects of a partition that a launch initialised (R326). -/
def State.partBars (s : State) (p lid : Nat) : Tbl Bar :=
  s.bars.filter fun e => e.2.init && e.2.lid == lid && decide (barId e.1 / 256 ≤ 2) &&
    ((s.pkg p).runsOf lid).any fun r => (r.rc.rect.cores p).any (barHas e.1)

/-- A core is free of a launch that is switched out: what reached its router's ring after the image was written stays with the launch
(R287, R372). -/
def State.closeRing (s : State) (c lid : Nat) : State :=
  let late := (s.core c).spill
  let s := s.modCore c fun k => { k with stopAt := none, startAt := none, spill := [], ringAt := none }
  match s.images.get? (imageKey c lid) with
  | some (l, img) => { s with images := s.images.put (imageKey c lid) (l, { img with spill := img.spill ++ late }) }
  | none => s

/-- The cycle in which the last write of a core's ring is acknowledged (log entry 76): what enters it is written in that cycle, to the
home of the core's image. -/
def State.ringDone (s : State) (p lid c : Nat) : Nat :=
  match (s.pkg p).runAt? lid c, (s.core c).ringAt with
  | some r, some t => t + 2 * (s.homePath c (imageBase r.rc c)).getD 0 + 6
  | _, _ => 0

/-- GANG_SWITCH_COMPLETE (R326, R330, R342, R372): with every image and ring acknowledged the launch is out, its cores are free, and it
stands at the head of its priority level. -/
def execGangSwitchComplete (s : State) : Outcome :=
  match s.ev with
  | .gangSwitchComplete p lid =>
    match (s.pkg p).run? lid with
    | none => .next s
    | some r =>
      let cs := s.launchCores p lid
      if r.st ≠ .switching then .next s
      else if r.saved + 1 < cs.length then .next (s.modRun p lid fun r => { r with saved := r.saved + 1 })
      else if cs.any fun c => decide (s.now < s.ringDone p lid c) then .next (s.sched (s.now + 1) s.ev)
      else
        let bars := s.partBars p lid
        let s := { s with bars := s.bars.filter fun e => !bars.any fun b => b.1 == e.1 }
        let s := s.modRun p lid fun r =>
          { r with st := .out, requested := false, bars := bars, wst := .run, wdog := if r.wst = .preempt then 0 else r.wdog }
        let s := cs.foldl (fun s c => s.closeRing c lid) s
        .next ((s.modPkg p fun k => { k with queue := (r.svc, r.rc, true) :: k.queue }).sched s.now (.launchStart p))
  | _ => .next s

/-! ### Resuming (R373) -/

/-- The state of a register with a code in a dump (R353). -/
def regStateOf (n : Nat) : RegState := if n = 1 then .full else if n = 2 then .empty else .invalid

/-- Bytes as a number. -/
def bytesAt (bs : List Byte) (a n : Nat) : Nat := leValue ((bs.drop a).take n)

/-- A context with its registers, the record of its latch, GTID, ASID, generation, stream register and retained bit as its dump holds
them (R353, R373). -/
def Ctx.ofDump (t : Ctx) (bs : List Byte) : Ctx :=
  let st2 (a i : Nat) : RegState := regStateOf (bytesAt bs a 16 / 4 ^ i % 4)
  let full (a i : Nat) : RegState := if bytesAt bs a 1 / 2 ^ i % 2 = 1 then .full else .invalid
  if t.st = .vacant then t
  else { t with
    g := (List.range 63).map fun i => (i + 1, ⟨st2 608 (i + 1), BitVec.ofNat 64 (bytesAt bs (8 * (i + 1)) 8)⟩)
    ox := (List.range 8).map fun i => (i, ⟨full 629 i, BitVec.ofNat 64 (bytesAt bs (512 + 8 * i) 8)⟩)
    p := (List.range 7).map fun i => (i + 1, ⟨full 628 (i + 1), BitVec.ofNat 32 (bytesAt bs (576 + 4 * (i + 1)) 4)⟩)
    v := (List.range 16).map fun i => (i, ⟨regStateOf (bytesAt bs 624 4 / 4 ^ i % 4), BitVec.ofNat 1024 (bytesAt bs (1024 + 128 * i) 128)⟩)
    latch := t.latch.map fun l => { l with trap := .ofBytes ((bs.drop 640).take 64) }
    gtid := BitVec.ofNat 64 (bytesAt bs 704 8), asid := bytesAt bs 712 8, gen := bytesAt bs 720 8, strm := bytesAt bs 728 8, retained := bytesAt bs 736 8 != 0 }

/-- What the 4,096 bytes of an image's queues say (R373): what the core wrote, if they are as it wrote them. The ring of its router, with
the stream entries, has no place in the image. -/
def Core.ofQueues (img : Core) (bs : List Byte) : Core :=
  if bs = img.imageQueues then img else { Config.imageRestOf bs with spill := img.spill, streams := img.streams }

/-- An image with what its save area holds of it (R372, R373): the dumps, the tiles and the live granules. -/
def Core.ofArea (img : Core) (bs : List Byte) : Core :=
  let live := img.liveGranules
  let lm := (live.zip (List.range live.length)).foldl (fun (m : Cells) e =>
    m.writeBytes zeroBg (e.1 * 1536) ((bs.drop (126976 + 1536 * e.2)).take 1536)) []
  { img with
    ctxs := img.ctxs.map fun e => (e.1, e.2.ofDump (bs.drop (3072 * e.1)))
    tiles := img.tiles.map fun e => (e.1, { e.2 with bytes := (bs.drop (49152 + 4608 * e.1)).take 4608 })
    lmem := lm }

/-- A core with its image restored: granules that are not live are zero, and what no image holds is the core's own. -/
def Core.withImage (cur img : Core) : Core :=
  { img.keeping cur with
    ctxs := cur.ctxs.foldl (fun t e => if (img.ctxs.get? e.1).isSome then t else t.put e.1 e.2.afterImage) (img.ctxs.map fun e =>
      (e.1, { e.2 with hb := (cur.ctx e.1).hb, st := if e.2.st = .switched then e.2.saved else e.2.st, saved := .vacant
                       serial := max e.2.serial (cur.ctx e.1).serial + 1 }))
    latches := max cur.latches img.latches }

/-- A context goes on after a resume: it fetches its block, departs, exits, or takes a fault that came meanwhile. -/
def State.resumeCtx (s : State) (c x : Nat) : State :=
  let t := s.ctx c x
  let s := match t.resumeBlk with
    | some a => (s.modCtx c x fun t => { t with resumeBlk := none }).enterBlock c x a s.now
    | none => s
  match t.st, t.pend with
  | .departing, some r => (s.modCtx c x fun t => { t with pend := none }).postDeferred r
  | .departing, none => s.tryDepart c x
  | .exiting, _ => s.tryExit c x
  | _, _ => s

/-- Every wait for a retry restarts its 64 rotations (R287). -/
def State.restartRetries (s : State) (c x : Nat) : State :=
  let t := s.ctx c x
  let u := s.now + 1024
  let s := (t.sends.filter (·.2)).foldl (fun s e => s.sched u (.sendRetry e.1)) s
  let s := (t.delegs.filter (·.2)).foldl (fun s e => s.sched u (.delegationRetry e.1)) s
  let s := (t.spawns.filter (·.2.2)).foldl (fun s e => s.sched u (.spawnResend e.1 e.2.1)) s
  match t.depart with
  | some d => if d.waiting then s.sched u (.continuationRetry c x) else s
  | none => s

/-- A core of a partition resumes: its image and the registers of the launch are written (R343), its ring is re-injected, and it looks
for work. -/
def State.resumeCore (s : State) (_p lid : Nat) (rc : Launch) (c : Nat) : State :=
  match s.images.get? (imageKey c lid) with
  | none => s
  | some (_, img) =>
    let s := { s with images := s.images.drop (imageKey c lid) }
    let img := img.ofQueues (s.readMem (imageBase rc c + 122880) 4096)
    let img := img.ofArea (s.readMem (imageBase rc c) (126976 + 1536 * img.liveGranules.length))
    let s := (s.modCore c fun k => (k.withImage img).redress rc).checkBeat c
    let xs := (s.core c).ctxs.map (·.1)
    let ring := (s.core c).spill
    let s := xs.foldl (fun s x => (s.resumeCtx c x).restartRetries c x) s
    let s := ring.foldl (fun s e => s.sched s.now e) (s.modCore c fun k => { k with spill := [] })
    (s.freeHeld c).wakeCore c

/-- RESUME (R287, R326, R373, R390): at the agreed tbase every core of a switched-out launch restores its image, and issue resumes. -/
def execResume (s : State) : Outcome :=
  match s.ev with
  | .resume p lid =>
    let rs := (s.pkg p).runsOf lid
    match rs with
    | [] => .next s
    | r :: _ =>
      if r.st ≠ .resuming then .next s
      else
        let s := { s with bars := r.bars.foldl (fun (t : Tbl Bar) (e : Nat × Bar) => t.put e.1 e.2) s.bars }
        let s := s.modRun p lid fun r => { r with st := s.runState p r.rc, bars := [] }
        let s := rs.foldl (fun s r => (r.rc.rect.cores p).foldl (fun s c => s.resumeCore p lid r.rc c) s) s
        .next ((rs.foldl (fun s r => s.releasePorts p r.rc.rect) s).sched s.now (.launchStart p))
  | _ => .next s

/-! ### Responses to a switched-out thread (R87, R259) -/

/-- The core, the context and a test of the image that a response is for. -/
def Event.imageFor : Event → Option (Nat × (Core → Bool))
  | .acceptance w ret =>
    match ret with
    | .ctx => some (w.core, fun k => (k.ctx w.ctx).outs.any fun o => o.1 == w.id)
    | _ => none
  | .producerCompletion c x _ _ _ _ id => some (c, fun k => (k.ctx x).outs.any fun o => o.1 == id)
  | .deferredFault r ret id _ =>
    match ret with
    | .ctx => some (r.core, fun k => (k.ctx r.ctx).outs.any fun o => o.1 == id)
    | _ => none
  | .dcallReply c x r _ => some (c, fun k => (k.ctx x).prods.any fun q => q.kind == .dcall && q.reg == r)
  | .routineFaultReply m _ => some (m.src, fun k => (k.ctx m.sctx).gtid == m.gtid && (k.ctx m.sctx).st != .vacant)
  | _ => none

/-- The image that an event is for, if the core itself does not await it. -/
def State.imageOf (s : State) (e : Event) : Option (Nat × Nat) :=
  match e.imageFor with
  | none => none
  | some (c, test) =>
    if s.images.isEmpty || test (s.core c) then none
    else (s.images.find? fun i => i.1 / 65536 == c && test i.2.2).map fun i => (c, i.1)

/-- The dumps of a core's contexts, and its queues, that a step has changed are written again into the image in the save area at `pa`
(R87, R372). -/
def State.rewriteImage (before after : State) (c pa : Nat) : State :=
  let s := (List.range 16).foldl (fun (s : State) x =>
    let d := after.dump c x
    if d = before.dump c x then s else s.writeMem (pa + 3072 * x) d) after
  if (after.core c).imageRest = (before.core c).imageRest then s else s.writeMem (pa + 122880) (after.core c).imageQueues

/-- A step that takes place in an image: the image stands in the core's place for it, and the save area follows. -/
def State.inImage (s : State) (c key : Nat) (f : State → Outcome) : Outcome :=
  match s.images.get? key with
  | none => f s
  | some (lid, img) =>
    let cur := s.core c
    let s := { s with cores := s.cores.put c img }
    match f s with
    | .next t =>
      let t := match (s.pkg (pkgOf c)).runAt? lid c with
        | some r => s.rewriteImage t c (imageBase r.rc c)
        | none => t
      .next { t with cores := t.cores.put c cur, images := t.images.put key (lid, t.core c) }
    | o => o

end Sys2Proof.Machine
end

