-- ==== Sys2Proof/Machine/Trace.lean ====
section
/-!
DEFINITION. Tracing (R334 to R337): samples, the compressor of a die, the coding of records into frames, and the frames' way to
their sink.
-/

namespace Sys2Proof.Machine

/-! ### The fields of trace control (R335) -/

/-- Bits of a die's trace control. -/
def Die.tc (d : Die) (lo n : Nat) : Nat := bitsOf d.trace.toNat lo n

/-- TRACE_SAMPLE (R334): the core's sample of an interval, for context (interval number mod 16). -/
def execTraceSample (s : State) : Outcome :=
  match s.ev with
  | .traceSample c =>
    let d := s.die (dieOf c)
    let x := s.tbase (pkgOf c) / 16 / 2 ^ d.tc 23 5 % 16
    let t := s.ctx c x
    .next (s.trace c x 6 0 t.blkAddr (some (s.slotClass c x * 32 + t.issued)))
  | _ => .next s

/-- A die's cores emit a sample at the end of the rotation of this cycle (R334). -/
def State.sampleDue (s : State) (d : Nat) : Bool :=
  let k := s.die d
  bitOf k.trace.toNat 0 && bitOf k.trace.toNat 21 && (s.tbase (d / 32) / 16 + 1) % 2 ^ k.tc 23 5 == 0

/-- The cores of a die. -/
def coresOfDie (d : Nat) : List Nat :=
  let i := d % 32
  (List.range 34).flatMap fun y => (List.range 32).map fun x => routerAt (d / 32) (i % 6 * 32 + x) (i / 6 * 34 + y)

/-! ### Records and frames (R336) -/

/-- Unsigned LEB128, of at most `n` bytes. -/
def leb : Nat → Nat → List Byte
  | 0, _ => []
  | n + 1, v => if v < 128 then [BitVec.ofNat 8 v] else BitVec.ofNat 8 (v % 128 + 128) :: leb n (v / 128)

/-- Zigzag coding of a difference. -/
def zigzag (i : Int) : Nat := if 0 ≤ i then (2 * i).toNat else (-2 * i - 1).toNat

/-- The dictionary of a frame: the first sixteen GTIDs. -/
def TraceFrame.dict (f : TraceFrame) : List W64 := ((f.recs.map (·.gtid)).eraseDups).take 16

/-- A record as it is coded after those of a frame (R336). -/
def TraceFrame.code (f : TraceFrame) (r : TraceRec) : List Byte :=
  let prev := f.recs.getLast?
  let same := match prev with
    | some q => q.core == r.core
    | none => false
  let g := f.dict.findIdx? (· == r.gtid)
  let old := (f.recs.reverse.find? fun q => q.core == r.core && q.ctx == r.ctx).map (·.blk)
  let bit (b : Bool) (n : Nat) : Nat := if b then 2 ^ n else 0
  let h := r.kind % 16 + bit g.isNone 4 + bit (!same) 5 + bit r.payload.isSome 6 + bit old.isNone 7
  let delta := (r.tb + 2 ^ 64 - (match prev with
    | some q => q.tb
    | none => f.base)) % 2 ^ 64
  let who := r.ctx % 16 + r.exit % 16 * 16
  BitVec.ofNat 8 h :: leb 10 delta
    ++ (if same then [BitVec.ofNat 8 who] else leBytes (who + idxOf r.core * 2 ^ 8 + pkgOf r.core * 2 ^ 23) 4)
    ++ (match g with
      | some i => [BitVec.ofNat 8 i]
      | none => leBytes r.gtid.toNat 8)
    ++ (match old with
      | some b => leb 10 (zigzag ((r.blk : Int) / 8 - (b : Int) / 8))
      | none => leBytes r.blk 6)
    ++ (match r.payload with
      | some v => leb 10 v
      | none => [])

/-- A frame as it is written (R336): its header, its records, and zeros. -/
def frameBytes (kind count d seq base lost : Nat) (bs : List Byte) : List Byte :=
  let head := leBytes kind 2 ++ leBytes count 2 ++ leBytes (d / 32 + d % 32 * 2 ^ 8) 2 ++ leBytes 0 2 ++ leBytes seq 8 ++ leBytes base 8
    ++ leBytes lost 8
  let all := head ++ bs
  all ++ List.replicate (4096 - all.length) 0

/-- A record enters the die's frame; a frame in which it has no room is complete. -/
def State.compressRec (s : State) (d : Nat) (r : TraceRec) : State :=
  let f := (s.die d).frame
  let f := if f.recs.isEmpty then { f with base := r.tb } else f
  let bs := f.code r
  if f.bytes.length + bs.length ≤ 4064 then
    s.modDie d fun k => { k with frame := { f with recs := f.recs ++ [r], bytes := f.bytes ++ bs } }
  else
    let g : TraceFrame := { base := r.tb }
    (s.modDie d fun k => { k with full := k.full ++ [f], frame := { g with recs := [r], bytes := g.code r } }).sched (s.now + 1)
      (.traceFrameWrite d)

/-- The cores of a die that hold records for its compressor, or have lost one. -/
def State.tracing (s : State) (d : Nat) : List (Nat × Core) :=
  s.cores.filter fun e => dieOf e.1 == d && !isService e.1 && (!e.2.traceBuf.isEmpty || e.2.traceDrop)

/-- The oldest record that cores hold, with its core: of records of one tbase that of the lowest core (R336; log entry 34). -/
def oldestRec (cs : List (Nat × Core)) : Option (Nat × TraceRec) :=
  cs.foldl (fun b e => match b, e.2.traceBuf with
    | none, r :: _ => some (e.1, r)
    | some (c, q), r :: _ => if r.tb < q.tb then some (e.1, r) else some (c, q)
    | b, [] => b) none

/-- A die's compressor takes up to `n` records in a cycle, the oldest first. -/
def State.takeRecs (s : State) (d : Nat) : Nat → State
  | 0 => s
  | n + 1 =>
    match oldestRec (s.tracing d) with
    | none => s
    | some (c, r) => State.takeRecs ((s.modCore c fun k => { k with traceBuf := k.traceBuf.drop 1 }).compressRec d r) d n

/-- A die's compressor in a cycle (R336, R337): records that found their buffers full spoil the frame, and up to `n` records enter it. -/
def State.compress (s : State) (d n : Nat) : State :=
  let lost := (s.tracing d).filter fun e => e.2.traceDrop
  let s := if lost.isEmpty then s
    else lost.foldl (fun s e => s.modCore e.1 fun k => { k with traceDrop := false })
      (s.modDie d fun q => { q with frame := { q.frame with bad := true } })
  s.takeRecs d n

/-! ### Sinks (R335, R337) -/

/-- The sink of a die has room for a frame. -/
def State.traceRoom (s : State) (d : Nat) : Bool :=
  let k := s.die d
  if bitOf k.trace.toNat 28 then
    let q := (s.pkg (d / 32)).ports.get {} (k.tc 29 5)
    q.up && decide (0 < q.credits.get 64 3)
  else decide (2 ≤ k.tc 40 24) && (k.wptr + 1) % k.tc 40 24 != k.rptr

/-- A frame goes to the sink of its die; it takes the next sequence number. -/
def State.putFrame (s : State) (d kind count base lost : Nat) (bs : List Byte) : State :=
  let k := s.die d
  let f := frameBytes kind count d k.seq base lost bs
  let s := s.modDie d fun k => { k with seq := k.seq + 1 }
  if bitOf k.trace.toNat 28 then
    let n := k.tc 29 5
    s.modPkg (d / 32) fun p => { p with ports := p.ports.put n { p.ports.get {} n with frames := (p.ports.get {} n).frames ++ [f] } }
  else (s.writeMem (k.tc 64 52 + k.wptr * 4096) f).modDie d fun k => { k with wptr := (k.wptr + 1) % k.tc 40 24 }

/-- TRACE_FRAME_WRITE (R337): a complete frame is written, after a LOST frame if frames were dropped; a spoiled frame, or one
without room, is dropped whole and counted. -/
def execTraceFrameWrite (s : State) : Outcome :=
  match s.ev with
  | .traceFrameWrite d =>
    match (s.die d).full with
    | [] => .next s
    | f :: rest =>
      let s := s.modDie d fun k => { k with full := rest }
      let lose (s : State) : State := s.modDie d fun k => { k with lost := k.lost + 1 }
      if f.bad || !s.traceRoom d then .next (lose s)
      else
        let n := (s.die d).lost
        let s := if n = 0 then s else (s.putFrame d 2 0 f.base n []).modDie d fun k => { k with lost := 0 }
        .next (if s.traceRoom d then s.putFrame d 1 f.recs.length f.base 0 f.bytes else lose s)
  | _ => .next s

end Sys2Proof.Machine
end

