-- ==== Sys2Proof/Machine/Host.lean ====
section
/-!
DEFINITION. The host link and the management interfaces (R235, R288, R335, R371, R379 to R383, R386, R392): CXL.mem accesses,
and the mailbox commands beside those on launches.
-/

namespace Sys2Proof.Machine

/-! ### CXL.mem (R380, R381) -/

/-- A host access becomes a mesh request 8 cycles after its last link flit is decoded (R381); a write takes its place among those of its
service core (R235). Its issuer is the service core, in context 0 for a write and 2 for a read. In the safe state there is none. -/
def State.hostAccess (s : State) (svc off : Nat) (r : Req) : State :=
  let p := pkgOf svc
  if (s.pkg p).safe then s
  else
    let pa := p * 2 ^ 44 + off
    let r := { r with pa := pa, va := pa, n := 64, lid := 65536, ret := .host off }
    let read := r.kind == .read
    let (id, s) := s.freshId
    let s := if read then s else s.modPkg p fun k => { k with hostq := k.hostq.put svc (k.hostq.get [] svc ++ [id]) }
    s.send (s.now + 8) svc (.req (homeOf pa) (r.by svc (if read then 2 else 0) id))

/-- CXL_MEM_WRITE (R380, R381): a host write of a line, of which the bytes that are given are enabled. -/
def execCxlMemWrite (s : State) : Outcome :=
  match s.ev with
  | .cxlMemWrite svc off bs => .next (s.hostAccess svc off { kind := .store, pa := 0, bytes := bs })
  | _ => .next s

/-- CXL_MEM_READ (R380, R381). -/
def execCxlMemRead (s : State) : Outcome :=
  match s.ev with
  | .cxlMemRead svc off => .next (s.hostAccess svc off { kind := .read, pa := 0 })
  | _ => .next s

/-! ### Management reads and writes (R383)

The spec gives no numbers of units and registers. Here a unit is `kind * 2^32 + index`. Kind 0 is the trace control of die `index`: register 0 its
two words, register 1 the ring's read pointer, register 2 the write pointer. Kind 1 is the correction history of crystalliser
`index`, by entry. Kind 2 holds the stop counts of core `index`: tbase, sent, received. Kind 3 is the port map, by package. Kind
`16 + k` writes the table of code `k`, of router `index` for the stream entries. Kinds 24 and 25 are TLBI and GENB. -/

/-- The writable bits of a die's trace control (R335). -/
def traceMask : BitVec 128 :=
  BitVec.ofNat 128 ((2 ^ 52 - 1) * 2 ^ 64 + (2 ^ 24 - 1) * 2 ^ 40 + 31 * 2 ^ 29 + 2 ^ 28 + 31 * 2 ^ 23 + 127 * 2 ^ 16 + 1)

/-- What a management read returns, if the register exists. -/
def State.manage (s : State) (p unit reg : Nat) : Option (List Nat) :=
  let i := unit % 2 ^ 32
  match unit / 2 ^ 32, reg with
  | 0, 0 => if i < 24 then
      let t := (s.die (p * 32 + i)).trace.toNat
      some [t % 2 ^ 64, t / 2 ^ 64]
    else none
  | 0, 1 => if i < 24 then some [(s.die (p * 32 + i)).rptr] else none
  | 0, 2 => if i < 24 then some [(s.die (p * 32 + i)).wptr] else none
  | 1, r => if i < 1536 ∧ r < 4096 then some [((s.xtal (p * 2048 + i)).history.get 0 r).toNat] else none
  | 2, r => if i < 26112 ∧ r < 3 then
      let k := s.core (coreKey p i)
      some [[k.stopTb, k.stopSent, k.stopReceived].getD r 0]
    else none
  | 3, r => if r < 256 then some [((s.pkg p).portmap.get 0 r).toNat] else none
  | _, _ => none

/-- MANAGEMENT_READ (R335, R371, R383, R386): mailbox command 0xC002. -/
def execManagementRead (s : State) : Outcome :=
  match s.ev with
  | .managementRead svc unit reg =>
    let p := pkgOf svc
    .next (s.mailbox svc fun s =>
      match s.manage p unit reg with
      | some ws => s.toHost p (.success svc (ws.map (BitVec.ofNat 64 ·)))
      | none => s.toHost p (.invalid svc))
  | _ => .next s

/-- A table write by a service core for the host (R288): a package-wide one travels the control tree, as one of a router's stream
entries does, one at a home the mesh. None is a malformed one, or one for a package that no way leads to. -/
def State.tableByHost (s : State) (svc code i reg : Nat) (ws : List W64) : Option State :=
  if tableSize code ≤ reg ∨ ((code = 0 ∨ code = 7) ∧ !paOk reg) ∨ reg % tableAlign code ≠ 0 ∨ ws.length ≠ tableWords code
      ∨ !tableData code ws ∨ (code = 2 ∧ 26112 ≤ i) then none
  else
    let o : SysOp := .tblw code reg ws
    match code with
    | 2 => some (((s.commandBegins svc).sysStep (coreKey (pkgOf svc) i) (s.now + 256) false o).sysStep svc (s.now + 512) true o)
    | 0 | 7 => (s.homePath svc reg).map fun _ => (s.commandBegins svc).startSysOp svc (s.now + svcHop svc) o
    | 6 => some ((s.commandBegins svc).startSysOp svc (s.now + svcHop svc) o)
    | _ => some ((s.commandBegins svc).startSysOp svc s.now o)

/-- What a management write does, if the register exists and the value is well formed: a table write, a TLBI and a GENB take time, and
the command is then not complete. -/
def State.manageWrite (s : State) (svc unit reg : Nat) (ws : List W64) : Option State :=
  let p := pkgOf svc
  let i := unit % 2 ^ 32
  let k := unit / 2 ^ 32
  let v := recWord ws 0
  if k = 0 then
    if 24 ≤ i then none
    else if reg = 0 ∧ ws.length = 2 ∧ bitsOf (recWord ws 1) 0 12 = 0 then
      some (s.modDie (p * 32 + i) fun d => { d with trace := BitVec.ofNat 128 (v + recWord ws 1 * 2 ^ 64) &&& traceMask })
    else if reg = 1 ∧ ws.length = 1 then some (s.modDie (p * 32 + i) fun d => { d with rptr := v % 2 ^ 24 })
    else none
  else if k = 1 then
    if i < 1536 ∧ reg < 4096 ∧ ws = [0] then some (s.modXtal (p * 2048 + i) fun x => { x with history := x.history.drop reg }) else none
  else if k = 3 then
    if reg < 256 ∧ ws.length = 1 ∧ v < 64 then some (s.modPkg p fun q => { q with portmap := q.portmap.put reg (BitVec.ofNat 8 v) })
    else none
  else if 16 ≤ k ∧ k < 24 then s.tableByHost svc (k - 16) i reg ws
  else if k = 24 then
    if reg < 3 ∧ ws.length = 2 ∧ v < 4096 then some ((s.commandBegins svc).startSysOp svc s.now (.tlbi reg v (recWord ws 1))) else none
  else if k = 25 then (if ws.length = 1 ∧ v < 4096 then some ((s.commandBegins svc).startGenb p v s.now (some svc)) else none)
  else none

/-- MANAGEMENT_WRITE (R288, R335, R382, R383, R386): mailbox command 0xC002. One that takes time is answered at its end, and the mailbox
waits for it. -/
def execManagementWrite (s : State) : Outcome :=
  match s.ev with
  | .managementWrite svc unit reg ws =>
    let p := pkgOf svc
    .next (s.mailbox svc fun s =>
      match s.manageWrite svc unit reg ws with
      | some s' => if ((s'.pkg p).cmds.get? svc).isSome then s' else s'.toHost p (.success svc [])
      | none => s.toHost p (.invalid svc))
  | _ => .next s

/-- BRING_UP_REPORT (R392): mailbox command 0xC003, the item code, die index and unit index of the first failure, or zeros; in the safe
state service core 0 alone answers. -/
def execBringUpReport (s : State) : Outcome :=
  match s.ev with
  | .bringUpReport svc =>
    let p := pkgOf svc
    let k := s.pkg p
    if k.safe ∧ idxOf svc ≠ 26112 then .next s
    else
      let f := k.failure.getD (0, 0, 0)
      .next (s.inMailbox svc fun s =>
        s.toHost p (.success svc [BitVec.ofNat 64 f.1, BitVec.ofNat 64 f.2.1, BitVec.ofNat 64 f.2.2]))
  | _ => .next s

/-- HOST_ERROR_LOG (R383): mailbox command 0xC004, the entries of the log, oldest first, as address and cause. -/
def execHostErrorLog (s : State) : Outcome :=
  match s.ev with
  | .hostErrorLog svc =>
    let p := pkgOf svc
    .next (s.mailbox svc fun s =>
      s.toHost p (.success svc ((s.pkg p).errlog.flatMap fun e => [BitVec.ofNat 64 e.1, BitVec.ofNat 64 e.2.num])))
  | _ => .next s

/-- BOUNDARY_SCAN (R371, R383): the IEEE 1149.1 port drives the halt tree of a partition, to stop it or (true) to let it go on; a scan of
the boundary itself reaches no state of the machine. -/
def execBoundaryScan (s : State) : Outcome :=
  match s.ev with
  | .boundaryScan p halt =>
    match halt with
    | some (rect, go) => .next (if (s.pkg p).safe then s else s.sched s.now (if go then .gangStopResume p rect else .gangStop p rect))
    | none => .next s
  | _ => .next s

end Sys2Proof.Machine
end

