-- ==== Sys2Proof/Machine/Brineline.lean ====
section
/-!
DEFINITION. Brineline ports (R384 to R390): codewords received in sequence, acknowledged and replayed, credits, what a port holds for a
stopped partition, retraining and the loss of a port, time synchronisation, and what a switch declares.
-/

namespace Sys2Proof.Machine

/-- The codewords of a replay buffer that an acknowledgement of the number before `ack` leaves (R385). -/
def unacked (ack : Nat) (ws : List Codeword) : List Codeword :=
  if ws.any fun w => w.seq == some ack then ws.dropWhile fun w => w.seq != some ack
  else match ws.getLast? with
    | some w => if w.seq.map (fun n => (n + 1) % 256) = some ack then [] else ws
    | none => []

/-- An acknowledgement and returned credits reach a port (R384, R385), and what waited leaves as far as it now may. -/
def State.takeAck (s : State) (p n : Nat) (w : Codeword) : State :=
  let q := s.port p n
  let left := unacked w.ack q.replay
  (s.modPort p n fun q =>
    { q with replay := left, oldest := if left.length = q.replay.length then q.oldest else s.now
             credits := w.cred.foldl (fun (c : Tbl Nat) e => c.put e.1 (min 64 (c.get 64 e.1 + e.2))) q.credits }).drainPort p n

/-- A port acknowledges what it has received, by a codeword that carries no flit and takes no number (R385; log entry 42). -/
def State.sendAck (s : State) (p n : Nat) : State :=
  match s.farEnd p n with
  | some d => s.sched (s.now + 80) (.codeword d.1 d.2 { ack := (s.port p n).exp, src := (p, n), dst := d } true)
  | none => s

/-- The codewords of a replay buffer leave again, one in each rotation from the next free one on (R385); a time-sync message carries tbase at
this departure (R388). -/
def State.resend (s : State) (p n : Nat) (ws : List Codeword) : State :=
  let q := s.port p n
  let tx := max s.now q.nextTx
  (ws.zip (List.range ws.length)).foldl (fun s e =>
    s.sched (tx + 16 * e.2 + 80) (.codeword e.1.dst.1 e.1.dst.2
      { e.1 with ack := q.exp, link := e.1.link.map fun l => s.stamp p (tx + 16 * e.2) l } true))
    (s.modPort p n fun q => { q with nextTx := tx + 16 * ws.length, filling := none })

/-- The launch a thread-class message belongs to, where it says so. -/
def NetMsg.lid? : NetMsg → Option Nat
  | .spawn _ sp => some (lidOf sp.gtid)
  | .spawnRefused sp _ => some (lidOf sp.gtid)
  | .cont k => some (lidOf k.gtid)
  | .send m => some m.lid
  | .sendRefused m _ => some m.lid
  | .deleg m => some (lidOf m.gtid)
  | .delegRefused m _ => some (lidOf m.gtid)
  | .routineFault m _ => some (lidOf m.gtid)
  | .exitMsg m => some m.lid
  | _ => none

/-- A port holds a received stream-class or thread-class message, as its partition is stopped or switched out (R390). -/
def State.portHolds (s : State) (p n : Nat) (m : NetMsg) : Bool :=
  let c := m.place p n
  let rs := ((s.pkg p).runs.filter fun r => r.st != .ended && r.rc.rect.has c)
  let there : Bool := match m.lid? with
    | some l => rs.any fun r => r.rc.lid == l && r.st != .running
    | none => rs.any (fun r => r.st != .running) && !rs.any fun r => r.st == .running
  decide (2 ≤ m.cls) && !(isService m.target && (match m with | .flit _ => false | _ => true)) && there

/-- A lattice request whose launch has no running record on the receiving package (R225). -/
def State.foreign (s : State) (p : Nat) (m : NetMsg) : Bool :=
  match m with
  | .req _ r => r.kind.lattice && ((s.pkg p).run? r.lid).isNone && !(match r.ret with | .host _ => true | _ => false)
  | _ => false

/-- A received message enters the mesh, or is held; a held one keeps its receive buffers (R390). A lattice request of a launch without
a running record is discarded, and its issuers receive PROT (R225). -/
def State.receive (s : State) (p n : Nat) (src : Nat × Nat) (m : NetMsg) : State :=
  if s.foreign p m then
    match m with
    | .req _ r =>
      (r.who.foldl (fun s w => s.send s.now (portRouter p n) (.fault (deferredRec w r .prot) (r.retFor w) w.id)) s).returnCredit p n m
    | _ => s
  else if s.portHolds p n m then s.modPort p n fun q => { q with held := q.held ++ [(src, m)] }
  else (s.enterMesh p n m).returnCredit p n m

/-! ### The switch (R389) -/

/-- The one message of a codeword event on its way to a port, with that port and its input port. -/
def Event.pending : Event → Option ((Nat × Nat) × (Nat × Nat) × NetMsg)
  | .codeword q m w _ => if w.leg = .out then w.msgs.head?.map fun e => ((q, m), w.src, e.2) else none
  | _ => none

/-- A join that a switch may combine (R389). -/
def NetMsg.combinable : NetMsg → Bool
  | .req _ r => r.kind == .join
  | _ => false

/-- A switch takes a message from the port of package `p` at key `n` (R386, R389; log entry 47): it forwards it `f` cycles later to the
output port that leads to its target, in the order of its class and input. A join is held `w` cycles before that, merges with one held for the same output, and
leaves earlier where the port's entries are full. -/
def State.switchTake (s : State) (p n : Nat) (m : NetMsg) : State :=
  let goal := (Config.cable p (n - 32) (pkgOf m.target)).map fun k => (pkgOf m.target, k)
  let s := s.returnCredit p n m
  match goal with
  | none => s
  | some (q, k) =>
    let o := s.port q k
    let out := (q, k + 32)
    let put (t : Nat) (m : NetMsg) (s : State) : State :=
      s.sched t (.codeword q (k + 32) { leg := .out, msgs := [(0, m)], src := (p, n), dst := out } true)
    let ahead := (s.agenda.filterMap fun e => match e.2.pending with
      | some (d, src, m') => if d = out ∧ src = (p, n) ∧ m'.cls = m.cls then some e.1 else none
      | none => none).foldl max 0
    let held := s.agenda.filter fun e => decide (s.now + o.f < e.1) && (match e.2.pending with
      | some (d, _, m') => d == out && m'.combinable
      | none => false)
    let like (e : Nat × Event) : Bool := decide (ahead ≤ e.1) && decide (s.now + o.f ≤ e.1) && (match e.2.pending, m with
      | some (d, _, .req _ a), .req _ b => d == out && mergeable a b
      | _, _ => false)
    match s.agenda.find? like, m with
    | some e, .req _ b =>
      let merge (x : Nat × Event) : Nat × Event := if x ≠ e then x else match x.2 with
        | .codeword a c w i => (x.1, .codeword a c { w with msgs := w.msgs.map fun y => match y.2 with
            | .req h r => (y.1, .req h (mergeReq r b))
            | _ => y } i)
        | _ => x
      { s with agenda := s.agenda.map merge }
    | _, _ =>
      if m.combinable then
        let s := if held.length < o.entries then s else match held with
          | [] => s
          | e :: _ => { s with agenda := s.agenda.erase e }.sched (s.now + o.f) e.2
        put (max ahead (s.now + (if o.entries = 0 then 0 else o.w) + o.f)) m s
      else put (max ahead (s.now + o.f + 1 - m.flits)) m s

/-- The stream entry of a switch. -/
def State.switchEntry (s : State) (sw strm : Nat) : StreamEntry :=
  let e := streamOf (Config.switchStream sw strm)
  { e with cur := (s.switches.get {} sw).cur.get e.cur strm }

/-- The flits that wait at a port of a switch for a stream. -/
def State.switchWaits (s : State) (sw strm b : Nat) : List Flit := (s.switches.get {} sw).ins.get [] (strm * 8 + b)

/-- Changes a switch. -/
def State.modSwitch (s : State) (sw : Nat) (f : Switch → Switch) : State :=
  { s with switches := s.switches.put sw (f (s.switches.get {} sw)) }

/-- A switch takes the flit that heads a stream at a port: its receive buffer there is free again. For the sums of R377 it counts as received,
and what a switch sends on as sent, at the routers of the ports (log entry 47). -/
def State.switchPop (s : State) (sw strm b : Nat) : State :=
  let key := strm * 8 + b
  match (s.switches.get {} sw).ins.get [] key, Config.switchPort sw b with
  | f :: fs, some (p, n) => ((s.countRecv (portRouter p n)).modSwitch sw fun k => { k with ins := k.ins.put key fs }).returnCredit p (n + 32) (.flit f)
  | _ :: fs, none => s.modSwitch sw fun k => { k with ins := k.ins.put key fs }
  | [], _ => s

/-- A flit leaves a switch through the ports of a mask, `delay` cycles from now or after a port's forwarding time, and behind what leaves
there before it. -/
def State.switchSend (s : State) (sw mask : Nat) (delay : Option Nat) (f : Flit) : State :=
  [0, 1, 2, 3, 5].foldl (fun s b =>
    match if hasPort mask b then Config.switchPort sw b else none with
    | some (q, k) =>
      let ahead := (s.agenda.filterMap fun e => match e.2.pending with
        | some (d, _, m) => if d = (q, k + 32) ∧ m.cls = 3 then some e.1 else none
        | none => none).foldl max 0
      (s.countSent (portRouter q k)).sched (max ahead (s.now + delay.getD (s.port q k).f))
        (.codeword q (k + 32) { leg := .out, msgs := [(0, .flit f)], src := (q, k + 32), dst := (q, k + 32) } true)
    | none => s) s

/-- A switch runs a stream as a router does (R298 to R300, R389): it passes on what the current set lets through, joins words 4 cycles after
the last of them arrived, and steps the entry. -/
def State.switchRun (s : State) (sw strm : Nat) : Nat → State
  | 0 => s
  | fuel + 1 =>
    let e := s.switchEntry sw strm
    let q := e.set
    let head (b : Nat) : Option Flit := (s.switchWaits sw strm b).head?
    let passes (b : Nat) : Option (Nat × Flit) := match head b with
      | some f => if !f.isStep && (q.op == 0 || f.marker) then some (b, f) else none
      | none => none
    let taken : State := q.ins.foldl (fun s b => s.switchPop sw strm b) s
    if !e.v then s
    else match q.ins.findSome? passes, q.ins.mapM head with
      | some (b, f), _ => State.switchRun ((s.switchPop sw strm b).switchSend sw q.out none f) sw strm fuel
      | none, some (f :: fs) =>
        if (f :: fs).all Flit.isStep then
          State.switchRun ((taken.switchSend sw q.out none f).modSwitch sw fun k => { k with cur := k.cur.put strm ((e.cur + 1) % (e.nset + 1)) })
            sw strm fuel
        else if q.op ≠ 0 ∧ (f :: fs).all (fun g => !g.marker) then
          State.switchRun (taken.switchSend sw q.out (some 4) ⟨false, strm, combineWords q ((f :: fs).map (·.word))⟩) sw strm fuel
        else s
      | _, _ => s

/-- A codeword brings a flit of a stream to a port of a switch. -/
def Event.flitTo (sw strm : Nat) : Event → Bool
  | .codeword p n w _ => w.leg == .into && decide (32 ≤ n) && (Config.switchOf p (n - 32)).1 == sw && w.msgs.any fun e => match e.2 with
      | .flit f => f.strm == strm
      | _ => false
  | _ => false

/-- A stream flit reaches a switch (R389, R390); with the last of this cycle the switch runs the stream, so that flits of several ports go in
port order (R299). -/
def State.switchFlit (s : State) (p n : Nat) (f : Flit) : State :=
  let (sw, b) := Config.switchOf p (n - 32)
  let s := s.modSwitch sw fun k => { k with ins := k.ins.put (f.strm * 8 + b) (k.ins.get [] (f.strm * 8 + b) ++ [f]) }
  if s.agenda.any fun e => decide (e.1 ≤ s.now) && e.2.flitTo sw f.strm then s
  else s.switchRun sw f.strm (((List.range 6).map fun b => (s.switchWaits sw f.strm b).length).sum + 1)

/-- A message has come in through a port: of a package, or of a switch. -/
def State.arriveAt (s : State) (p n : Nat) (src : Nat × Nat) (m : NetMsg) : State :=
  if n < 32 then s.receive p n src m
  else match m with
    | .flit f => s.switchFlit p n f
    | m => s.switchTake p n m

/-- A link message of a codeword acts (R384): a message of a pod barrier for another package leaves a switch `s` cycles later towards it. -/
def State.takeLink (s : State) (p n : Nat) : LinkMsg → State
  | .nak seq => s.sched s.now (.nak p n seq)
  | .timeSync theirs => s.sched s.now (.timeSync p n theirs 80)
  | .capability t f entries w => s.sched s.now (.capability p n t f entries w)
  | .barrier q =>
    match if n < 32 then none else Config.cable p (n - 32) q with
    | some k =>
      s.sched (s.now + (s.port q k).s) (.codeword q (k + 32) { leg := .out, link := some (.barrier q), src := (p, n), dst := (q, k + 32) } true)
    | none => s

/-- A codeword in sequence is accepted (R384, R385): the number expected advances, its credits and acknowledgement are taken, its link
message acts, its messages come in with their last flits, and it is acknowledged. -/
def State.acceptWord (s : State) (p n : Nat) (w : Codeword) : State :=
  let s := ((s.modPort p n fun q => { q with exp := (q.exp + 1) % 256 }).takeAck p n w).sendAck p n
  let s := match w.link with
    | some l => s.takeLink p n l
    | none => s
  w.msgs.foldl (fun s e => s.sched (s.now + e.1) (.codeword p n { leg := .into, msgs := [(0, e.2)], src := w.src, dst := (p, n) } true)) s

/-- CODEWORD (R384, R385, R387, R389, R390): a codeword in sequence is accepted; a repeated one is discarded, and acknowledged again; one
that is damaged or out of sequence is discarded, with a nak. A port that is down or trains takes nothing. A message on its way to a port
leaves through it, and one that has come in enters the mesh or the switch. -/
def execCodeword (s : State) : Outcome :=
  match s.ev with
  | .codeword p n w intact =>
    match w.leg with
    | .out => .next (w.msgs.foldl (fun s e => s.portSend p n e.2) (if w.link.isSome then s.portControl p n w.link [] else s))
    | .into => .next (w.msgs.foldl (fun s e => s.arriveAt p n w.src e.2) s)
    | .link =>
      let q := s.port p n
      let nak := s.portControl p n (some (.nak q.exp)) []
      if !q.up || q.training then .next s
      else if !intact then .next nak
      else match w.seq with
        | none => .next (s.takeAck p n w)
        | some k =>
          if k = q.exp then .next (s.acceptWord p n w)
          else if (k + 256 - q.exp) % 256 < 128 then .next nak
          else .next (s.sendAck p n)
  | _ => .next s

/-- NAK (R385): the sender resends from the codeword that the receiver expects. -/
def execNak (s : State) : Outcome :=
  match s.ev with
  | .nak p n seq =>
    let left := unacked seq (s.port p n).replay
    .next ((s.modPort p n fun q => { q with replay := left, oldest := if left.length = q.replay.length then q.oldest else s.now }).resend
      p n left)
  | _ => .next s

/-! ### Failure of a link (R387) -/

/-- Both ends of a port's cable are changed. -/
def State.modEnds (s : State) (p n : Nat) (f : Port → Port) : State :=
  let s' := s.modPort p n f
  match s.farEnd p n with
  | some d => s'.modPort d.1 d.2 f
  | none => s'

/-- A port whose oldest codeword has not been delivered within 4,096 cycles begins to retrain, with the far end of its link; the time and
success are free (log entry 5). -/
def State.portTimeout (s : State) (p n : Nat) : State :=
  let q := s.port p n
  if q.up && !q.training && !q.replay.isEmpty && decide (q.oldest + 4096 ≤ s.now) then
    let (k, s) := s.draw
    let r := Config.retrain k
    (s.modEnds p n fun q => { q with training := true }).sched (s.now + 1 + r.1) (.retraining p n r.2)
  else s

/-- RETRAINING (R387): the link is back, and at both ends what was not acknowledged leaves again; or the link goes down. -/
def execRetraining (s : State) : Outcome :=
  match s.ev with
  | .retraining p n ok =>
    let again (p n : Nat) (s : State) : State :=
      (((s.modPort p n fun q => { q with training := false, oldest := s.now }).resend p n (s.port p n).replay)).drainPort p n
    let s' := again p n s
    match ok, s.farEnd p n with
    | false, _ => .next (s.sched s.now (.portDown p n))
    | true, some d => .next (again d.1 d.2 s')
    | true, none => .next s'
  | _ => .next s

/-- PORT_DOWN (R387): codewords that no acknowledgement has passed are neither resent nor answered; the host learns their number.
Messages that had not left are answered as every later one. The far end of the link goes down too; that of a switch tells no host. -/
def execPortDown (s : State) : Outcome :=
  match s.ev with
  | .portDown p n =>
    let q := s.port p n
    let s := s.modPort p n fun q => { q with up := false, training := false, replay := [], waiting := [], owed := [], filling := none }
    let s := if n < 32 then
        q.waiting.foldl (fun s m => s.answerDown s.now p (portRouter p n) m) (s.toHost p (.portDown n q.replay.length))
      else s
    .next (match s.farEnd p n with
      | some d => if (s.port d.1 d.2).up then s.sched s.now (.portDown d.1 d.2) else s
      | none => s)
  | _ => .next s

/-! ### Time synchronisation and switches (R388, R389) -/

/-- TIME_SYNC_INTERVAL (R388): a port sends its package's tbase to the far end; through a switch it passes as it is (log entry 47). -/
def execTimeSyncInterval (s : State) : Outcome :=
  match s.ev with
  | .timeSyncInterval p n =>
    let q := s.port p n
    if !q.up then .next s
    else if !q.switched then .next (s.portControl p n (some (.timeSync 0)) [])
    else match Config.streamCable p n with
      | some (r, m) => .next (s.sched (s.now + 160 + q.f) (.timeSync r m (s.tbase p) (160 + q.f)))
      | none => .next s
  | _ => .next s

/-- TIME_SYNC (R331, R388, R391): a package whose timebase is not agreed takes its sender's time and the one-way delay, and its
cores leave reset; afterwards an offset beyond 4 cycles is reported, and pod launch records are refused. -/
def execTimeSync (s : State) : Outcome :=
  match s.ev with
  | .timeSync p n theirs delay =>
    let k := s.pkg p
    let t := theirs + delay
    if !(s.port p n).up || k.safe then .next s
    else if !k.agreed then
      .next (s.modPkg p fun k =>
        { k with tbase := BitVec.ofNat 64 t - BitVec.ofNat 64 s.now, agreed := true, on := true, upAt := s.now - t % 16 })
    else
      let d : Int := (BitVec.ofNat 64 (s.tbase p) - BitVec.ofNat 64 t).toInt
      if 4 < d.natAbs then .next ((s.modPkg p fun k => { k with syncBad := true }).toHost p (.syncBad n)) else .next s
  | _ => .next s

/-- CAPABILITY (R386, R389): the switch at the far end of a port declares its barrier time s, its forwarding time f, its combining
entries and its hold time w. -/
def execCapability (s : State) : Outcome :=
  match s.ev with
  | .capability p n sb f entries w =>
    .next (s.modPort p n fun q => { q with switched := true, s := sb, f := f, entries := entries, w := min w 256 })
  | _ => .next s

end Sys2Proof.Machine
end

