-- ==== Sys2Proof/Machine/Bringup.lean ====
section
/-!
DEFINITION. Bring-up (R7, R331, R387, R388, R391, R392): power-up with its checks, the safe state, and the CXL reset.
-/

namespace Sys2Proof.Machine

/-- The package whose unit an event is at. -/
def Event.package : Event → Nat
  | .seinjWrite c _ | .hbiWrite c _ | .tomWrite c _ | .blockFetch c _ | .blockCacheFill c _ _ _ _ | .translationWalk c _ _ _ _ _ _
  | .blockCommit c _ | .blockStarved c _ | .producerCompletion c _ _ _ _ _ _ | .loadResult c _ _ _ _ _ _ | .trapRecordQueued c _
  | .trapHandlerEntry c | .taskAdmission c | .privStoreDrain c | .privStoreAck c _ | .systemOpComplete c | .tileOpBegin c
  | .tileOpComplete c | .copyCommandBegin c | .copyRun c | .copyCommandComplete c | .streamFlitForward c _ _ | .streamCombine c _
  | .markerStep c _ | .continuationDepart c _ | .continuationPlace c | .continuationAccept c _ | .continuationRefusal c _ _ _
  | .continuationRetry c _ | .delegationBegin c | .dcallReply c _ _ _ | .spawnArrival c _ | .exitMessageDepart c _
  | .binitTakeEffect _ _ _ c _ | .barrierArrivalDepart _ c _ _ _ | .heartbeatMiss c | .switchImageWrite c _ | .traceSample c
  | .combineMerge c _ _ | .combineHoldEnd c _ | .cxlMemWrite c _ _ | .cxlMemRead c _ | .submitLaunchRecord c _ _
  | .readStatusRecord c _ | .managementRead c _ _ | .managementWrite c _ _ _ | .bringUpReport c | .hostErrorLog c => pkgOf c
  | .ebudWrite d _ | .energyWindowStart d | .energyEpochEnd d | .digestSnapshot d | .traceFrameWrite d => d / 32
  | .privStoreApply h _ | .readServe h _ => if 2 ^ 24 ≤ h then pkgOf (h - 2 ^ 24) else h / 2048
  | .joinApply h _ | .fillApply h _ | .waitServe h _ | .freezeApply h _ | .exactReadServe h _ | .schedApply h _ | .dramLineFill h _
  | .overflowChainRead h _ _ | .faultQueueRepair h | .frameReassign h _ _ | .scrub h _ _ _ => h / 2048
  | .rotationAccounting => 256
  | .acceptance w _ => pkgOf w.core
  | .deferredFault r _ _ _ => pkgOf r.core
  | .genbApply p _ | .watchdogPreempt p _ | .watchdogKill p _ | .watchdogFence p _ | .quiescenceSum p _ | .podSums _ p _
  | .quiescenceFound p _ | .launchStart p | .launchEnd p _ _ | .twinCompare p _ | .fence p _ _ | .gangStop p _ | .gangStopResume p _
  | .gangSwitchRequest p _ | .gangSwitch p _ | .resume p _ | .boundaryScan p _ | .codeword p _ _ _ | .nak p _ _ | .timeSync p _ _ _
  | .timeSyncInterval p _ | .capability p _ _ _ _ _ | .portDown p _ | .powerUp p _ | .cxlReset p | .gangSwitchComplete p _
  | .retraining p _ _ => p
  | .continuationArrival k => pkgOf k.dst
  | .sendArrival m => pkgOf m.dst
  | .sendRefusal m _ | .sendRetry m => pkgOf m.src
  | .delegationArrival m => pkgOf m.dst
  | .delegationRefusal m _ | .delegationRetry m | .routineFaultReply m _ => pkgOf m.src
  | .spawnRefusal _ sp | .spawnResend _ sp => pkgOf sp.fromCore
  | .exitMessageApply m => pkgOf m.dst
  | .phaseComplete obj | .phaseCompletionArrive obj _ | .ecombAdd obj _ _ => if barScope obj = 5 then 256 else barPkg obj
where
  /-- The package of a barrier object below pod scope. -/
  barPkg (obj : Nat) : Nat :=
    match barScope obj with
    | 1 => barBox obj / 32768
    | 2 => barBox obj / 8192
    | 3 => barBox obj / 32
    | _ => barBox obj

/-- An event that the outside world causes (R379 to R383): it is not lost at a power-up. -/
def Event.outside : Event → Bool
  | .cxlMemWrite .. | .cxlMemRead .. | .submitLaunchRecord .. | .readStatusRecord .. | .managementRead .. | .managementWrite ..
  | .bringUpReport .. | .hostErrorLog .. | .boundaryScan .. | .powerUp .. | .cxlReset .. => true
  | _ => false

/-- The steps of bring-up in order (R391). -/
def checkOrder : List Nat := [0x01, 0x10, 0x20, 0x30, 0x40, 0x50]

/-- A failure stops the sequence (R391): any but that of a host port beside port 0, or of a Brineline port. -/
def stopsBringUp (f : Nat × Nat × Nat) : Bool := checkOrder.contains f.1 && (f.1 != 0x50 || f.2.2 == 0)

/-- The first failure that stops the sequence. -/
def firstFailure (fs : List (Nat × Nat × Nat)) : Option (Nat × Nat × Nat) :=
  checkOrder.findSome? fun code => fs.find? fun f => f.1 == code && stopsBringUp f

/-- Every unit of a package, and what its memory holds, as before bring-up; what was on its way inside is lost. -/
def State.clearPackage (s : State) (p : Nat) : State :=
  let lo := p * 2 ^ 44
  let hi := (p + 1) * 2 ^ 44
  let here (n k : Nat) : Bool := k / n == p
  { s with
    cores := s.cores.filter fun e => !here 32768 e.1
    dies := s.dies.filter fun e => !here 32 e.1
    xtals := s.xtals.filter fun e => !here 2048 e.1
    mem := s.mem.filter fun e => decide (e.1 < lo) || decide (hi ≤ e.1)
    frames := s.frames.filter fun e => !here (2 ^ 28) e.1
    once := s.once.filter fun e => !here (2 ^ 44) e.1
    arrived := s.arrived.filter fun e => !here (2 ^ 42) e.1
    tconf := s.tconf.filter fun e => !here (2 ^ 44) e.1
    bars := s.bars.filter fun e => (Event.phaseComplete e.1).package != p
    images := s.images.filter fun e => !here 32768 (e.1 / 65536)
    replay := s.replay.filter fun e => !here 32768 e.1
    agenda := s.agenda.filter fun e => e.2.package != p || e.2.outside }

/-- The far ends of a package's cables begin afresh with it (R385, R391): what was on a link is lost, and messages that the others have
refused for its cores will not come again. A port on a switch keeps its link to the switch. -/
def State.freshLinks (s : State) (p : Nat) : State :=
  let fresh (q : Port) : Port :=
    { q with seq := 0, exp := 0, replay := [], owed := [], credits := [], oldest := 0, nextTx := 0, filling := none, training := false }
  let ends := (List.range 32).filterMap fun n => (Config.streamCable p n).filter fun d => d.1 != p && !(s.port d.1 d.2).switched
  let core (e : Nat × Core) : Nat × Core := (e.1, { e.2 with refused := e.2.refused.filter fun m => pkgOf m.1 != p })
  let gone (e : Event) : Bool := match e with
    | .codeword _ _ w _ => w.leg == .link && (w.src.1 == p || w.dst.1 == p)
    | .retraining q n _ => ends.contains (q, n)
    | _ => false
  ends.foldl (fun s d => s.modPort d.1 d.2 fresh)
    { s with cores := s.cores.map core, agenda := s.agenda.filter fun e => !gone e.2 }

/-- The port map and ports of a package that comes up (R386, R387, R391). -/
def bringUpPorts (p : Nat) (fs : List (Nat × Nat × Nat)) : Tbl (BitVec 8) × Tbl Port :=
  ((List.range 256).map fun q => (q, BitVec.ofNat 8 (Config.flashPort p q % 64)),
    (fs.filter fun f => f.1 == 0x60).foldl (fun (t : Tbl Port) f => t.put f.2.2 { up := false }) [])

/-- POWER_UP (R7, R79, R327, R331, R387, R388, R391, R392): the package starts afresh and its checks run; tbase is 0 in this cycle, so
that its dies begin their first window. A failure leaves it in the safe state;
otherwise its cores leave reset, at once on the master or on a package that no cable leads from, else when its timebase is agreed. -/
def execPowerUp (s : State) : Outcome :=
  match s.ev with
  | .powerUp p fs =>
    let s := (s.clearPackage p).freshLinks p
    match firstFailure fs with
    | some f =>
      let dead : Tbl Port := (List.range 32).map fun n => (n, { up := false })
      .next { s with pkgs := s.pkgs.put p { on := false, safe := true, failure := some f, ports := dead } }
    | none =>
      let (map, ports) := bringUpPorts p fs
      let alone := (List.range 32).all fun n => !(ports.get {} n).up || (Config.streamCable p n).isNone
      let ready := p == 0 || alone
      let k : Package := { on := ready, agreed := ready, upAt := s.now, tbase := 0 - BitVec.ofNat 64 s.now, failure := fs.head?
                           portmap := map, ports := ports }
      let s := { s with pkgs := s.pkgs.put p k }
      let s := ((diesOf p).map Event.energyWindowStart ++ (diesOf p).map Event.digestSnapshot).foldl (fun s e => s.sched s.now e) s
      .next (if p = 0 then (List.range 32).foldl (fun s n => s.sched s.now (.timeSyncInterval p n)) s else s)
  | _ => .next s

/-- CXL_RESET (R7, R392): the device restarts; what its checks find is free (log entry 5). -/
def execCxlReset (s : State) : Outcome :=
  match s.ev with
  | .cxlReset p =>
    let (n, s) := s.draw
    .next (s.sched s.now (.powerUp p (Config.bringUp n)))
  | _ => .next s

end Sys2Proof.Machine
end

