-- ==== Sys2Proof/Machine/Dispatch.lean ====
section
/-!
DEFINITION. The meaning of every instruction and event, one arm for each constructor of `Instr`.
-/

namespace Sys2Proof.Machine

def exec (i : Instr) (s : State) : Host.Outcome State Fault Refusal :=
  match i with
  | .movh pm t0 => Sys2Proof.Machine.execMovh pm t0 s
  | .noth pm t0 => Sys2Proof.Machine.execNoth pm t0 s
  | .negh pm t0 => Sys2Proof.Machine.execNegh pm t0 s
  | .inch pm t0 => Sys2Proof.Machine.execInch pm t0 s
  | .dech pm t0 => Sys2Proof.Machine.execDech pm t0 s
  | .nullh pm t0 => Sys2Proof.Machine.execNullh pm t0 s
  | .teqz pm t0 => Sys2Proof.Machine.execTeqz pm t0 s
  | .tnez pm t0 => Sys2Proof.Machine.execTnez pm t0 s
  | .tltz pm t0 => Sys2Proof.Machine.execTltz pm t0 s
  | .tgez pm t0 => Sys2Proof.Machine.execTgez pm t0 s
  | .sxb pm t0 => Sys2Proof.Machine.execSxb pm t0 s
  | .sxh pm t0 => Sys2Proof.Machine.execSxh pm t0 s
  | .sxw pm t0 => Sys2Proof.Machine.execSxw pm t0 s
  | .zxb pm t0 => Sys2Proof.Machine.execZxb pm t0 s
  | .zxh pm t0 => Sys2Proof.Machine.execZxh pm t0 s
  | .zxw pm t0 => Sys2Proof.Machine.execZxw pm t0 s
  | .hbtH pm => Sys2Proof.Machine.execHbtH pm s
  | .popn pm t0 => Sys2Proof.Machine.execPopn pm t0 s
  | .pope pm t0 => Sys2Proof.Machine.execPope pm t0 s
  | .pops pm t0 => Sys2Proof.Machine.execPops pm t0 s
  | .popw pm t0 => Sys2Proof.Machine.execPopw pm t0 s
  | .reth pm => Sys2Proof.Machine.execReth pm s
  | .rd cls r t1 t0 => Sys2Proof.Machine.execRd cls r t1 t0 s
  | .rdt cls r t1 t0 => Sys2Proof.Machine.execRdt cls r t1 t0 s
  | .wr cls r => Sys2Proof.Machine.execWr cls r s
  | .movi pm imm t0 => Sys2Proof.Machine.execMovi pm imm t0 s
  | .movhi pm imm t0 => Sys2Proof.Machine.execMovhi pm imm t0 s
  | .br pm off => Sys2Proof.Machine.execBr pm off s
  | .bri pm => Sys2Proof.Machine.execBri pm s
  | .call pm off => Sys2Proof.Machine.execCall pm off s
  | .calli pm => Sys2Proof.Machine.execCalli pm s
  | .ret pm => Sys2Proof.Machine.execRet pm s
  | .null pm n t1 t0 => Sys2Proof.Machine.execNull pm n t1 t0 s
  | .sel t1 t0 => Sys2Proof.Machine.execSel t1 t0 s
  | .mov pm t1 t0 => Sys2Proof.Machine.execMov pm t1 t0 s
  | .add pm w t1 t0 => Sys2Proof.Machine.execAdd pm w t1 t0 s
  | .sub pm w t1 t0 => Sys2Proof.Machine.execSub pm w t1 t0 s
  | .and pm w t1 t0 => Sys2Proof.Machine.execAnd pm w t1 t0 s
  | .or pm w t1 t0 => Sys2Proof.Machine.execOr pm w t1 t0 s
  | .xor pm w t1 t0 => Sys2Proof.Machine.execXor pm w t1 t0 s
  | .andn pm w t1 t0 => Sys2Proof.Machine.execAndn pm w t1 t0 s
  | .shl pm w t1 t0 => Sys2Proof.Machine.execShl pm w t1 t0 s
  | .shr pm w t1 t0 => Sys2Proof.Machine.execShr pm w t1 t0 s
  | .sra pm w t1 t0 => Sys2Proof.Machine.execSra pm w t1 t0 s
  | .rot pm w t1 t0 => Sys2Proof.Machine.execRot pm w t1 t0 s
  | .min pm w t1 t0 => Sys2Proof.Machine.execMin pm w t1 t0 s
  | .max pm w t1 t0 => Sys2Proof.Machine.execMax pm w t1 t0 s
  | .minu pm w t1 t0 => Sys2Proof.Machine.execMinu pm w t1 t0 s
  | .maxu pm w t1 t0 => Sys2Proof.Machine.execMaxu pm w t1 t0 s
  | .addi pm imm t0 => Sys2Proof.Machine.execAddi pm imm t0 s
  | .andi pm imm t0 => Sys2Proof.Machine.execAndi pm imm t0 s
  | .ori pm imm t0 => Sys2Proof.Machine.execOri pm imm t0 s
  | .xori pm imm t0 => Sys2Proof.Machine.execXori pm imm t0 s
  | .shli pm imm t0 => Sys2Proof.Machine.execShli pm imm t0 s
  | .shri pm imm t0 => Sys2Proof.Machine.execShri pm imm t0 s
  | .srai pm imm t0 => Sys2Proof.Machine.execSrai pm imm t0 s
  | .mul pm w t1 t0 => Sys2Proof.Machine.execMul pm w t1 t0 s
  | .mulh pm w t1 t0 => Sys2Proof.Machine.execMulh pm w t1 t0 s
  | .mulhu pm w t1 t0 => Sys2Proof.Machine.execMulhu pm w t1 t0 s
  | .div pm w t1 t0 => Sys2Proof.Machine.execDiv pm w t1 t0 s
  | .divu pm w t1 t0 => Sys2Proof.Machine.execDivu pm w t1 t0 s
  | .rem pm w t1 t0 => Sys2Proof.Machine.execRem pm w t1 t0 s
  | .remu pm w t1 t0 => Sys2Proof.Machine.execRemu pm w t1 t0 s
  | .clz pm w t1 t0 => Sys2Proof.Machine.execClz pm w t1 t0 s
  | .ctz pm w t1 t0 => Sys2Proof.Machine.execCtz pm w t1 t0 s
  | .popc pm w t1 t0 => Sys2Proof.Machine.execPopc pm w t1 t0 s
  | .sextB pm t1 t0 => Sys2Proof.Machine.execSextB pm t1 t0 s
  | .sextH pm t1 t0 => Sys2Proof.Machine.execSextH pm t1 t0 s
  | .sextW pm t1 t0 => Sys2Proof.Machine.execSextW pm t1 t0 s
  | .zextB pm t1 t0 => Sys2Proof.Machine.execZextB pm t1 t0 s
  | .zextH pm t1 t0 => Sys2Proof.Machine.execZextH pm t1 t0 s
  | .zextW pm t1 t0 => Sys2Proof.Machine.execZextW pm t1 t0 s
  | .bswap pm w t1 t0 => Sys2Proof.Machine.execBswap pm w t1 t0 s
  | .not pm w t1 t0 => Sys2Proof.Machine.execNot pm w t1 t0 s
  | .neg pm w t1 t0 => Sys2Proof.Machine.execNeg pm w t1 t0 s
  | .teq pm w t1 t0 => Sys2Proof.Machine.execTeq pm w t1 t0 s
  | .tne pm w t1 t0 => Sys2Proof.Machine.execTne pm w t1 t0 s
  | .tlt pm w t1 t0 => Sys2Proof.Machine.execTlt pm w t1 t0 s
  | .tltu pm w t1 t0 => Sys2Proof.Machine.execTltu pm w t1 t0 s
  | .tle pm w t1 t0 => Sys2Proof.Machine.execTle pm w t1 t0 s
  | .tleu pm w t1 t0 => Sys2Proof.Machine.execTleu pm w t1 t0 s
  | .tlti pm imm t0 => Sys2Proof.Machine.execTlti pm imm t0 s
  | .teqi pm imm t0 => Sys2Proof.Machine.execTeqi pm imm t0 s
  | .lea pm h t1 t0 => Sys2Proof.Machine.execLea pm h t1 t0 s
  | .mix pm t1 t0 => Sys2Proof.Machine.execMix pm t1 t0 s
  | .vadd pm f t1 t0 => Sys2Proof.Machine.execVadd pm f t1 t0 s
  | .vsub pm f t1 t0 => Sys2Proof.Machine.execVsub pm f t1 t0 s
  | .vmul pm f t1 t0 => Sys2Proof.Machine.execVmul pm f t1 t0 s
  | .vfma f t1 t0 => Sys2Proof.Machine.execVfma f t1 t0 s
  | .vfnma f t1 t0 => Sys2Proof.Machine.execVfnma f t1 t0 s
  | .vmin pm f t1 t0 => Sys2Proof.Machine.execVmin pm f t1 t0 s
  | .vmax pm f t1 t0 => Sys2Proof.Machine.execVmax pm f t1 t0 s
  | .vabs pm f t1 t0 => Sys2Proof.Machine.execVabs pm f t1 t0 s
  | .vneg pm f t1 t0 => Sys2Proof.Machine.execVneg pm f t1 t0 s
  | .vdiv pm f t1 t0 => Sys2Proof.Machine.execVdiv pm f t1 t0 s
  | .vsqrt pm f t1 t0 => Sys2Proof.Machine.execVsqrt pm f t1 t0 s
  | .vrcp pm f t1 t0 => Sys2Proof.Machine.execVrcp pm f t1 t0 s
  | .vrsq pm f t1 t0 => Sys2Proof.Machine.execVrsq pm f t1 t0 s
  | .vexp2 pm f t1 t0 => Sys2Proof.Machine.execVexp2 pm f t1 t0 s
  | .vlog2 pm f t1 t0 => Sys2Proof.Machine.execVlog2 pm f t1 t0 s
  | .vcmp pm c f t1 t0 => Sys2Proof.Machine.execVcmp pm c f t1 t0 s
  | .vand pm t1 t0 => Sys2Proof.Machine.execVand pm t1 t0 s
  | .vor pm t1 t0 => Sys2Proof.Machine.execVor pm t1 t0 s
  | .vxor pm t1 t0 => Sys2Proof.Machine.execVxor pm t1 t0 s
  | .vandn pm t1 t0 => Sys2Proof.Machine.execVandn pm t1 t0 s
  | .vshl pm f t1 t0 => Sys2Proof.Machine.execVshl pm f t1 t0 s
  | .vshr pm f t1 t0 => Sys2Proof.Machine.execVshr pm f t1 t0 s
  | .vsra pm f t1 t0 => Sys2Proof.Machine.execVsra pm f t1 t0 s
  | .vrng pm t1 t0 => Sys2Proof.Machine.execVrng pm t1 t0 s
  | .vdot4 k t1 t0 => Sys2Proof.Machine.execVdot4 k t1 t0 s
  | .vsel t1 t0 => Sys2Proof.Machine.execVsel t1 t0 s
  | .vbcast pm f t1 t0 => Sys2Proof.Machine.execVbcast pm f t1 t0 s
  | .vextr pm f t1 t0 => Sys2Proof.Machine.execVextr pm f t1 t0 s
  | .vins f t1 t0 => Sys2Proof.Machine.execVins f t1 t0 s
  | .vperm pm t1 t0 => Sys2Proof.Machine.execVperm pm t1 t0 s
  | .vslide pm z d t1 t0 => Sys2Proof.Machine.execVslide pm z d t1 t0 s
  | .vred pm o f t1 t0 => Sys2Proof.Machine.execVred pm o f t1 t0 s
  | .vcvt pm fd fs t1 t0 => Sys2Proof.Machine.execVcvt pm fd fs t1 t0 s
  | .vqshr t1 t0 => Sys2Proof.Machine.execVqshr t1 t0 s
  | .vfkey pm n t1 t0 => Sys2Proof.Machine.execVfkey pm n t1 t0 s
  | .qbfx pm x t1 t0 => Sys2Proof.Machine.execQbfx pm x t1 t0 s
  | .dqbfx pm x t1 t0 => Sys2Proof.Machine.execDqbfx pm x t1 t0 s
  | .tld pm td => Sys2Proof.Machine.execTld pm td s
  | .tst pm ta => Sys2Proof.Machine.execTst pm ta s
  | .tzero pm td => Sys2Proof.Machine.execTzero pm td s
  | .tmma pm td ta tb acc => Sys2Proof.Machine.execTmma pm td ta tb acc s
  | .tmmas pm td ta tb acc => Sys2Proof.Machine.execTmmas pm td ta tb acc s
  | .tmmac pm td ta tb acc => Sys2Proof.Machine.execTmmac pm td ta tb acc s
  | .tckv pm ta g => Sys2Proof.Machine.execTckv pm ta g s
  | .tadd pm td ta tb => Sys2Proof.Machine.execTadd pm td ta tb s
  | .tcvt pm td ta => Sys2Proof.Machine.execTcvt pm td ta s
  | .ttrn pm td ta => Sys2Proof.Machine.execTtrn pm td ta s
  | .trow pm ta v => Sys2Proof.Machine.execTrow pm ta v s
  | .tins pm td => Sys2Proof.Machine.execTins pm td s
  | .ld pm lsid size flag imm t0 => Sys2Proof.Machine.execLd pm lsid size flag imm t0 s
  | .ldw pm lsid size flag imm t0 => Sys2Proof.Machine.execLdw pm lsid size flag imm t0 s
  | .st pm lsid size flag imm => Sys2Proof.Machine.execSt pm lsid size flag imm s
  | .vld pm lsid size flag imm t0 => Sys2Proof.Machine.execVld pm lsid size flag imm t0 s
  | .vst pm lsid size flag imm => Sys2Proof.Machine.execVst pm lsid size flag imm s
  | .join pm lsid size flag imm => Sys2Proof.Machine.execJoin pm lsid size flag imm s
  | .vjoin pm lsid size flag imm => Sys2Proof.Machine.execVjoin pm lsid size flag imm s
  | .waitt pm g c => Sys2Proof.Machine.execWaitt pm g c s
  | .xld pm lsid size imm t0 => Sys2Proof.Machine.execXld pm lsid size imm t0 s
  | .vxld pm lsid size imm t0 => Sys2Proof.Machine.execVxld pm lsid size imm t0 s
  | .freeze pm => Sys2Proof.Machine.execFreeze pm s
  | .frzq pm => Sys2Proof.Machine.execFrzq pm s
  | .faddb g => Sys2Proof.Machine.execFaddb g s
  | .incw pm g => Sys2Proof.Machine.execIncw pm g s
  | .fillD pm lsid imm => Sys2Proof.Machine.execFillD pm lsid imm s
  | .fillV pm lsid imm => Sys2Proof.Machine.execFillV pm lsid imm s
  | .cpy pm g => Sys2Proof.Machine.execCpy pm g s
  | .cpyw pm g => Sys2Proof.Machine.execCpyw pm g s
  | .pop pm d t1 t0 => Sys2Proof.Machine.execPop pm d t1 t0 s
  | .popMb pm t1 t0 => Sys2Proof.Machine.execPopMb pm t1 t0 s
  | .qstat pm fn t0 => Sys2Proof.Machine.execQstat pm fn t0 s
  | .send pm => Sys2Proof.Machine.execSend pm s
  | .strm pm => Sys2Proof.Machine.execStrm pm s
  | .mark pm => Sys2Proof.Machine.execMark pm s
  | .mig pm => Sys2Proof.Machine.execMig pm s
  | .deleg pm => Sys2Proof.Machine.execDeleg pm s
  | .dcall pm g => Sys2Proof.Machine.execDcall pm g s
  | .dret pm => Sys2Proof.Machine.execDret pm s
  | .binit pm => Sys2Proof.Machine.execBinit pm s
  | .arv pm => Sys2Proof.Machine.execArv pm s
  | .arvd pm => Sys2Proof.Machine.execArvd pm s
  | .bwt pm => Sys2Proof.Machine.execBwt pm s
  | .rcnt pm t0 => Sys2Proof.Machine.execRcnt pm t0 s
  | .wcnt pm => Sys2Proof.Machine.execWcnt pm s
  | .ecomb pm => Sys2Proof.Machine.execEcomb pm s
  | .hbt pm => Sys2Proof.Machine.execHbt pm s
  | .trmk pm => Sys2Proof.Machine.execTrmk pm s
  | .digr pm t0 => Sys2Proof.Machine.execDigr pm t0 s
  | .rctl pm cn t0 => Sys2Proof.Machine.execRctl pm cn t0 s
  | .wctl pm cn => Sys2Proof.Machine.execWctl pm cn s
  | .sctl pm cn => Sys2Proof.Machine.execSctl pm cn s
  | .cctl pm cn => Sys2Proof.Machine.execCctl pm cn s
  | .fork pm t0 => Sys2Proof.Machine.execFork pm t0 s
  | .merge pm g => Sys2Proof.Machine.execMerge pm g s
  | .exit pm => Sys2Proof.Machine.execExit pm s
  | .retain pm => Sys2Proof.Machine.execRetain pm s
  | .start pm => Sys2Proof.Machine.execStart pm s
  | .startComm pm => Sys2Proof.Machine.execStartComm pm s
  | .reapDump pm => Sys2Proof.Machine.execReapDump pm s
  | .reapTrap pm => Sys2Proof.Machine.execReapTrap pm s
  | .kill pm => Sys2Proof.Machine.execKill pm s
  | .ackf pm => Sys2Proof.Machine.execAckf pm s
  | .eret pm => Sys2Proof.Machine.execEret pm s
  | .tlbi pm => Sys2Proof.Machine.execTlbi pm s
  | .genb pm => Sys2Proof.Machine.execGenb pm s
  | .tblwTranslation pm => Sys2Proof.Machine.execTblwTranslation pm s
  | .tblwAsidRoot pm => Sys2Proof.Machine.execTblwAsidRoot pm s
  | .tblwStreamEntry pm => Sys2Proof.Machine.execTblwStreamEntry pm s
  | .tblwContainment pm => Sys2Proof.Machine.execTblwContainment pm s
  | .tblwFormatWindow pm => Sys2Proof.Machine.execTblwFormatWindow pm s
  | .tblwBreakpoint pm => Sys2Proof.Machine.execTblwBreakpoint pm s
  | .tblwCorrectionHistory pm => Sys2Proof.Machine.execTblwCorrectionHistory pm s
  | .tblwFrameState pm => Sys2Proof.Machine.execTblwFrameState pm s
  | .gstop pm => Sys2Proof.Machine.execGstop pm s
  | .gstopResume pm => Sys2Proof.Machine.execGstopResume pm s
  | .gsw pm => Sys2Proof.Machine.execGsw pm s
  | .trap pm c => Sys2Proof.Machine.execTrap pm c s
  | .seinjWrite => Sys2Proof.Machine.execSeinjWrite s
  | .ebudWrite => Sys2Proof.Machine.execEbudWrite s
  | .hbiWrite => Sys2Proof.Machine.execHbiWrite s
  | .tomWrite => Sys2Proof.Machine.execTomWrite s
  | .blockFetch => Sys2Proof.Machine.execBlockFetch s
  | .blockCacheFill => Sys2Proof.Machine.execBlockCacheFill s
  | .translationWalk => Sys2Proof.Machine.execTranslationWalk s
  | .blockCommit => Sys2Proof.Machine.execBlockCommit s
  | .blockStarved => Sys2Proof.Machine.execBlockStarved s
  | .rotationAccounting => Sys2Proof.Machine.execRotationAccounting s
  | .producerCompletion => Sys2Proof.Machine.execProducerCompletion s
  | .loadResult => Sys2Proof.Machine.execLoadResult s
  | .acceptance => Sys2Proof.Machine.execAcceptance s
  | .deferredFault => Sys2Proof.Machine.execDeferredFault s
  | .trapRecordQueued => Sys2Proof.Machine.execTrapRecordQueued s
  | .trapHandlerEntry => Sys2Proof.Machine.execTrapHandlerEntry s
  | .taskAdmission => Sys2Proof.Machine.execTaskAdmission s
  | .privStoreDrain => Sys2Proof.Machine.execPrivStoreDrain s
  | .privStoreApply => Sys2Proof.Machine.execPrivStoreApply s
  | .privStoreAck => Sys2Proof.Machine.execPrivStoreAck s
  | .readServe => Sys2Proof.Machine.execReadServe s
  | .combineMerge => Sys2Proof.Machine.execCombineMerge s
  | .combineHoldEnd => Sys2Proof.Machine.execCombineHoldEnd s
  | .joinApply => Sys2Proof.Machine.execJoinApply s
  | .fillApply => Sys2Proof.Machine.execFillApply s
  | .waitServe => Sys2Proof.Machine.execWaitServe s
  | .freezeApply => Sys2Proof.Machine.execFreezeApply s
  | .exactReadServe => Sys2Proof.Machine.execExactReadServe s
  | .schedApply => Sys2Proof.Machine.execSchedApply s
  | .dramLineFill => Sys2Proof.Machine.execDramLineFill s
  | .overflowChainRead => Sys2Proof.Machine.execOverflowChainRead s
  | .faultQueueRepair => Sys2Proof.Machine.execFaultQueueRepair s
  | .frameReassign => Sys2Proof.Machine.execFrameReassign s
  | .scrub => Sys2Proof.Machine.execScrub s
  | .genbApply => Sys2Proof.Machine.execGenbApply s
  | .systemOpComplete => Sys2Proof.Machine.execSystemOpComplete s
  | .tileOpBegin => Sys2Proof.Machine.execTileOpBegin s
  | .tileOpComplete => Sys2Proof.Machine.execTileOpComplete s
  | .copyCommandBegin => Sys2Proof.Machine.execCopyCommandBegin s
  | .copyRun => Sys2Proof.Machine.execCopyRun s
  | .copyCommandComplete => Sys2Proof.Machine.execCopyCommandComplete s
  | .streamFlitForward => Sys2Proof.Machine.execStreamFlitForward s
  | .streamCombine => Sys2Proof.Machine.execStreamCombine s
  | .markerStep => Sys2Proof.Machine.execMarkerStep s
  | .continuationDepart => Sys2Proof.Machine.execContinuationDepart s
  | .continuationArrival => Sys2Proof.Machine.execContinuationArrival s
  | .continuationPlace => Sys2Proof.Machine.execContinuationPlace s
  | .continuationAccept => Sys2Proof.Machine.execContinuationAccept s
  | .continuationRefusal => Sys2Proof.Machine.execContinuationRefusal s
  | .continuationRetry => Sys2Proof.Machine.execContinuationRetry s
  | .sendArrival => Sys2Proof.Machine.execSendArrival s
  | .sendRefusal => Sys2Proof.Machine.execSendRefusal s
  | .sendRetry => Sys2Proof.Machine.execSendRetry s
  | .delegationArrival => Sys2Proof.Machine.execDelegationArrival s
  | .delegationRefusal => Sys2Proof.Machine.execDelegationRefusal s
  | .delegationRetry => Sys2Proof.Machine.execDelegationRetry s
  | .delegationBegin => Sys2Proof.Machine.execDelegationBegin s
  | .dcallReply => Sys2Proof.Machine.execDcallReply s
  | .routineFaultReply => Sys2Proof.Machine.execRoutineFaultReply s
  | .spawnArrival => Sys2Proof.Machine.execSpawnArrival s
  | .spawnRefusal => Sys2Proof.Machine.execSpawnRefusal s
  | .spawnResend => Sys2Proof.Machine.execSpawnResend s
  | .exitMessageDepart => Sys2Proof.Machine.execExitMessageDepart s
  | .exitMessageApply => Sys2Proof.Machine.execExitMessageApply s
  | .binitTakeEffect => Sys2Proof.Machine.execBinitTakeEffect s
  | .barrierArrivalDepart => Sys2Proof.Machine.execBarrierArrivalDepart s
  | .phaseComplete => Sys2Proof.Machine.execPhaseComplete s
  | .phaseCompletionArrive => Sys2Proof.Machine.execPhaseCompletionArrive s
  | .ecombAdd => Sys2Proof.Machine.execEcombAdd s
  | .heartbeatMiss => Sys2Proof.Machine.execHeartbeatMiss s
  | .watchdogPreempt => Sys2Proof.Machine.execWatchdogPreempt s
  | .watchdogKill => Sys2Proof.Machine.execWatchdogKill s
  | .watchdogFence => Sys2Proof.Machine.execWatchdogFence s
  | .energyWindowStart => Sys2Proof.Machine.execEnergyWindowStart s
  | .energyEpochEnd => Sys2Proof.Machine.execEnergyEpochEnd s
  | .digestSnapshot => Sys2Proof.Machine.execDigestSnapshot s
  | .quiescenceSum => Sys2Proof.Machine.execQuiescenceSum s
  | .podSums => Sys2Proof.Machine.execPodSums s
  | .quiescenceFound => Sys2Proof.Machine.execQuiescenceFound s
  | .launchStart => Sys2Proof.Machine.execLaunchStart s
  | .launchEnd => Sys2Proof.Machine.execLaunchEnd s
  | .twinCompare => Sys2Proof.Machine.execTwinCompare s
  | .fence => Sys2Proof.Machine.execFence s
  | .gangStop => Sys2Proof.Machine.execGangStop s
  | .gangStopResume => Sys2Proof.Machine.execGangStopResume s
  | .gangSwitchRequest => Sys2Proof.Machine.execGangSwitchRequest s
  | .gangSwitch => Sys2Proof.Machine.execGangSwitch s
  | .switchImageWrite => Sys2Proof.Machine.execSwitchImageWrite s
  | .resume => Sys2Proof.Machine.execResume s
  | .traceSample => Sys2Proof.Machine.execTraceSample s
  | .traceFrameWrite => Sys2Proof.Machine.execTraceFrameWrite s
  | .cxlMemWrite => Sys2Proof.Machine.execCxlMemWrite s
  | .cxlMemRead => Sys2Proof.Machine.execCxlMemRead s
  | .submitLaunchRecord => Sys2Proof.Machine.execSubmitLaunchRecord s
  | .readStatusRecord => Sys2Proof.Machine.execReadStatusRecord s
  | .managementRead => Sys2Proof.Machine.execManagementRead s
  | .managementWrite => Sys2Proof.Machine.execManagementWrite s
  | .bringUpReport => Sys2Proof.Machine.execBringUpReport s
  | .hostErrorLog => Sys2Proof.Machine.execHostErrorLog s
  | .boundaryScan => Sys2Proof.Machine.execBoundaryScan s
  | .codeword => Sys2Proof.Machine.execCodeword s
  | .nak => Sys2Proof.Machine.execNak s
  | .timeSync => Sys2Proof.Machine.execTimeSync s
  | .timeSyncInterval => Sys2Proof.Machine.execTimeSyncInterval s
  | .capability => Sys2Proof.Machine.execCapability s
  | .portDown => Sys2Proof.Machine.execPortDown s
  | .powerUp => Sys2Proof.Machine.execPowerUp s
  | .cxlReset => Sys2Proof.Machine.execCxlReset s
  | .gangSwitchComplete => Sys2Proof.Machine.execGangSwitchComplete s
  | .retraining => Sys2Proof.Machine.execRetraining s

end Sys2Proof.Machine
end

