-- ==== Sys2Proof/Machine/Step.lean ====
section
/-!
DEFINITION. One step of the device. A cycle is taken apart into steps: its start, then every due event of the agenda in turn
and every core's turn (each at most one instruction), then its close. Log entry 7 says how a program comes to run.
-/

namespace Sys2Proof.Machine

/-! ### A core's turn (R18 to R21, R51, R56, R309) -/

/-- The instruction in a slot of a context fires: the one its word and its left operand name. -/
def State.fire (s : State) (c x k : Nat) : Outcome :=
  match (s.ctx c x).blk.bind fun b => b.slots[k]? with
  | none => .next s
  | some q =>
    match q.instr? with
    | none => .next s
    | some i => exec (i.refine q.l.tok.scal) { s with cur := ⟨c, x, k⟩ }

/-- A context uses a slot of its core, its own or a lent one (R19, R312). -/
def State.useSlot (s : State) (c x : Nat) : State :=
  (s.modCtx c x fun t => { t with issued := t.issued + 1 }).count c 0x140 (if x = s.slotNow c then 0 else 1)

/-- Tokens arrive, what the contexts wait for is noted, and a starved owner of the cycle's slot is to fault (R45, R56, R312). -/
def State.beginTurn (s : State) (c : Nat) : State :=
  let s := (List.range 16).foldl (fun s x => s.deliver c x) s
  let s := (List.range 16).foldl (fun s x => s.noteTurn c x) s
  if s.starved c (s.slotNow c) && !s.stopped c then s.sched s.now (.blockStarved c (s.slotNow c)) else s

/-- An instruction whose translation has come fires, if its block still stands (R204, R240). -/
def State.runReplay (s : State) (c x serial k : Nat) : Outcome :=
  if (s.ctx c x).serial ≠ serial then .next s
  else
    (s.modBlock c x fun b => { b with slots := b.slots.modify k fun q => { q with walking := false } }).fire c x k

/-- What a core has to do in a cycle: a fault that has reached a slot, an instruction whose translation has come, and the use of the
cycle's slot. -/
inductive Job where
  | doom (k : Cause)
  | replay (serial : Nat)
  | use (t : Turn)
deriving DecidableEq, Repr, Inhabited

/-- What a core still has to do in this cycle, each with its slot and context. -/
def State.jobs (s : State) (c : Nat) (used : Bool) : List (Nat × Nat × Job) :=
  ((s.core c).ctxs.flatMap fun e => e.2.doomed.filterMap fun d =>
      if d.1 = e.2.serial then some (d.2.1, e.1, .doom d.2.2) else none)
    ++ (s.replay.filterMap fun (d, x, serial, k) => if d = c then some (k, x, .replay serial) else none)
    ++ (if used then []
      else match s.chooseCtx c with
        | some (x, .issue k) => [(k, x, .use (.issue k))]
        | some (x, t) => [(0, x, .use t)]
        | none => [])

/-- The first of a core's jobs is done, the lowest slot first, so that among the faults of a cycle it decides (R57). At most one
instruction issues, or one context takes its deferred or fetch fault (R18, R19, R42, R242). -/
def State.coreStep (s : State) (c : Nat) (used : Bool) : Outcome :=
  match s.jobs c used with
  | [] => .next { s with phase := .turns (c + 1) }
  | j :: js =>
    let (k, x, job) := js.foldl (fun (m : Nat × Nat × Job) e => if e.1 < m.1 then e else m) j
    match job with
    | .doom e => .next ({ s with phase := .core c used }.takeFault c x e k)
    | .replay serial =>
      { s with phase := .core c used, replay := s.replay.erase (c, x, serial, k) }.runReplay c x serial k
    | .use t =>
      let s := { s with phase := .core c true }
      match t with
      | .issue k => (s.useSlot c x).fire c x k
      | .bad k => .next (s.takeFault c x k)
      | .deferred r => .next (s.takeDeferred c x r)
      | .none => .next s

/-- A core's turn begins. -/
def State.turn (s : State) (c : Nat) : Outcome :=
  if (s.pkg (pkgOf c)).on then (s.beginTurn c).coreStep c false else .next { s with phase := .turns (c + 1) }

/-! ### Events -/

/-- An event takes place: in a spill ring while its partition is switched, in a switch image, or where it is for (R87, R372). -/
def State.take (s : State) (e : Event) : Outcome :=
  if !e.wf then .fault .badEvent
  else match s.spilled e with
  | some c => .next (s.modCore c fun k => { k with spill := k.spill ++ [e], ringAt := some s.now })
  | none =>
    let run (s : State) : Outcome := exec e.instr { s with ev := e }
    match s.imageOf e with
    | some (c, key) => s.inImage c key run
    | none => run s

/-! ### The end of a cycle -/

/-- The end of the turns: at the end of a rotation samples are taken and the slots are charged (R312, R313, R334). -/
def State.endTurns (s : State) : State :=
  let s := { s with phase := .close }
  let s := ((s.dies.map (·.1)).filter fun d => s.tbase (d / 32) % 16 == 15 && s.sampleDue d).foldl (fun s d =>
    (coresOfDie d).foldl (fun s c => s.sched s.now (.traceSample c)) s) s
  if s.cores.any fun e => s.slotNow e.1 == 15 then s.sched s.now .rotationAccounting else s

/-- A core's memory banks, engines and timers in this cycle (R178, R194, R257, R328). -/
def State.closeCore (s : State) (c : Nat) : State :=
  let busy := heldBanks s.now (s.core c).banks
  let (s, own) := (s.bankCycle c).engineCycle c busy
  (s.copyCycle c (own ++ busy)).heartbeat c

/-- The contexts whose blocks may commit in a rotation that begins in the next cycle (R53, R54). -/
def State.commits (s : State) : List Event :=
  (s.cores.filter fun e => s.slotNow e.1 == 15).flatMap fun e => e.2.ctxs.filterMap fun t => match t.2.blk with
    | some b => if b.complete then some (.blockCommit e.1 t.1) else none
    | none => none

/-- The end of a cycle: banks, engines, timers, watchdogs, compressors, links and counters, and the clock. -/
def State.endCycle (s : State) : State :=
  let s : State := (s.cores.map (·.1)).foldl State.closeCore s
  let s : State := s.pkgs.foldl (fun s p => ((p.2.runs.map fun r => r.rc.lid).eraseDups).foldl (fun s l => s.watchdog p.1 l) s) s
  let s : State := (s.dies.map (·.1)).foldl (fun s d => s.compress d 2) s
  let s : State := s.pkgs.foldl (fun s p => (p.2.ports.map (·.1)).foldl (fun s n => s.portTimeout p.1 n) s) s
  let close (e : Nat × Core) : Nat × Core := (e.1, e.2.closeCounters)
  let s : State := { s with cores := s.cores.map close }
  let cs := s.commits
  let s : State := if cs.isEmpty then s else s.schedFirst (s.now + 1) cs
  { s with now := s.now + 1, phase := .start }

/-! ### The step -/

/-- What the device does when no event is due: a core's turn goes on, the next one's begins, or the cycle ends. -/
def State.proceed (s : State) : Outcome :=
  match s.phase with
  | .start => .next s.startCycle
  | .core c used => s.coreStep c used
  | .close => .next s.endCycle
  | .turns n =>
    match s.cores.find? fun e => decide (n ≤ e.1) with
    | some e => s.turn e.1
    | none => .next s.endTurns

/-- One step: the start of a cycle; or the first event that is due; or what follows. -/
def step (s : State) : Host.Outcome State Fault Refusal :=
  if s.phase = .start then .next s.startCycle
  else match s.agenda with
    | (t, e) :: rest => if t ≤ s.now then ({ s with agenda := rest }).take e else s.proceed
    | [] => s.proceed

/-! ### Placing an instruction -/

/-- A context that may run an instruction: the head context for those of class H, ERET and DRET, the communication context for those
that use link queues, else a worker (R22, R76). -/
def contextFor (i : Instr) : Nat :=
  match i with
  | .start .. | .startComm .. | .reapDump .. | .reapTrap .. | .kill .. | .ackf .. | .eret .. | .tlbi .. | .genb .. | .gstop ..
  | .gstopResume .. | .gsw .. | .dret .. | .tblwTranslation .. | .tblwAsidRoot .. | .tblwStreamEntry .. | .tblwContainment ..
  | .tblwFormatWindow .. | .tblwBreakpoint .. | .tblwCorrectionHistory .. | .tblwFrameState .. => 0
  | .strm .. | .mark .. => 1
  | i => if i.popQueue?.isSome && i.popQueue? != some 4 then 1 else 2

/-- An operand that is present with the value zero. -/
def zeroOperand (n : Need) : Operand :=
  match n with
  | .none => {}
  | .scal => { fan := 1, val := some (.scalar 0) }
  | .vec => { fan := 1, val := some (.vector 0 0xFFFFFFFF) }

/-- A slot that holds an instruction word, its operands zero. -/
def wordSlot (nbits w : Nat) : Slot :=
  let n : Need × Need × Need := match decodeTableWord nbits w with
    | some i => i.needs
    | none => (.none, .none, .none)
  { word := w, half := decide (nbits ≤ 16), l := zeroOperand n.1, r := zeroOperand n.2.1, p := zeroOperand n.2.2 }

/-- The context of `withFetchWord`: ACTIVE, its window a block of one slot whose instructions may fire. -/
def wordCtx (s : State) (x nbits w : Nat) : Ctx :=
  { s.ctx 0 x with
      st := .active, pend := none, after := [], commitAt := none, fetch := none, mbox := [0]
      blk := some ⟨0x100000, 16, 0xFF000000 + 14, 0, [wordSlot nbits w], 0, none, [], [], [], none⟩ }

/-- The state with an instruction's word as the only slot of the window of a context of core 0, its operands zero, as if its block had
been fetched (log entry 7): the core has no other thread, a word stands in every link queue, and the cores' turns come next. -/
def State.withFetchWord (s : State) (nbits w : Nat) : State :=
  let x := match decodeTableWord nbits w with
    | some i => contextFor i
    | none => 2
  let s := { s with phase := .turns 0, replay := [], agenda := s.agenda.filter fun e => decide (s.now < e.1) }
  s.modCore 0 fun k =>
    { k with ctxs := [(x, wordCtx s x nbits w)], stopAt := none, fenced := false
             linkIn := [(0, [⟨false, 0, 0⟩]), (1, [⟨false, 0, 0⟩]), (2, [⟨false, 0, 0⟩]), (3, [⟨false, 0, 0⟩])] }

end Sys2Proof.Machine
end

