-- ==== Sys2Proof/Safety.lean ====
section
/-!
DEFINITION. What counts as a safe run, the invariant that the steps of the device keep, and the words in which the
statements say what an instruction does: a firing position, and all that a firing changes.
-/

namespace Sys2Proof.Machine

/-! ### Safe runs and the invariant -/

/-- A step that goes on: the device has no fault or refusal of its own in it. -/
def Goes (s : State) : Prop := ∃ s', step s = .next s'

/-- A run of `n` steps goes on throughout. -/
def SafeRun (n : Nat) (s : State) : Prop := ∃ s', Host.Core.run Sys2Proof.core n s = .next s'

/-- Every memory is in its canonical form: addresses strictly rising, no listed byte equal to what an unlisted one reads as. It
covers device memory, host memory, the local memory of every core and of every switch image, and the local images that the
loader supplies. -/
def Memory.wf (s : State) : Bool :=
  s.mem.wf s.bg && s.hostMem.wf zeroBg && s.cores.all (fun e => e.2.lmem.wf zeroBg)
    && s.images.all (fun e => e.2.2.lmem.wf zeroBg)
    && s.pkgs.all fun e => e.2.localImages.all fun i => i.2.wf zeroBg

/-! ### A firing position -/

/-- The firing position names a slot of a block in its context's window. -/
def State.Stands (s : State) : Prop := ∃ b, s.cctx.blk = some b ∧ s.cur.slot < b.slots.length

/-- The scalar value L of the firing slot. -/
def State.lval (s : State) : W64 := s.slot.l.tok.scal
/-- The scalar value R of the firing slot. -/
def State.rval (s : State) : W64 := s.slot.r.tok.scal
/-- The scalar value P of the firing slot. -/
def State.pval (s : State) : W64 := s.slot.p.tok.scal

/-- The low bits of a value that an operation of a width computes on (R103). -/
def Wid.low (w : Wid) (v : W64) : BitVec w.bits := v.setWidth w.bits

/-- The firing context is the trailing one of a pair, which takes values from the leading one (R364). -/
def State.trails (s : State) : Bool := s.cctx.pair && s.cur.ctx % 2 == 1
/-- The firing context is the leading one of a pair, which passes values on (R364). -/
def State.leads (s : State) : Bool := s.cctx.pair && s.cur.ctx % 2 == 0

/-! ### What a firing changes -/

/-- What a firing adds: whether it is null, the effect recorded for the commit, a token for each target byte, exception
events, an access to host memory, the block's exit, loads in progress, words taken by POPs, values passed on to a pair's
trailing context, output entries reserved beside those of its targets, accesses to the banks of local memory, and the
first-level translation buffer with the used entry made the most recent. -/
structure Firing where
  isNull : Bool := false
  eff : Eff := .none
  out : List (BitVec 8 × Tok) := []
  ex : List (Nat × Nat) := []
  host : Bool := false
  exit : Option BlkExit := none
  loads : List LoadRec := []
  taken : Option (Tbl Nat) := none
  passed : List (Nat × Tok) := []
  marks : List Nat := []
  banks : List BankAcc := []
  tlb : Option (List TlbEntry) := none

/-- The same token for several target bytes. -/
def sameTok (ts : List (BitVec 8)) (k : Tok) : List (BitVec 8 × Tok) := ts.map fun t => (t, k)

/-- The tokens on their way to operand positions, present in cycle `due` (R21, R41): a target byte 0 names none, and one with
bits [7:6] = 3 names a link queue. -/
def Firing.flights (f : Firing) (due : Nat) : List Flight :=
  (f.out.filter fun e => e.1 != 0 && e.1.toNat / 64 != 3).map fun e => ⟨due, e.1.toNat % 64, e.1.toNat / 64, e.2⟩

/-- The target bytes that name link queues. -/
def Firing.links (f : Firing) : List (BitVec 8 × Tok) := f.out.filter fun e => e.1.toNat / 64 == 3

/-- The pushes that the commit makes, a null one only giving its entry back (R264). -/
def Firing.pushes (f : Firing) : List (Dir × Option Tok) :=
  f.links.map fun e => (dirOf (e.1.toNat % 4), if e.2.isNull then none else some e.2)

/-- The entries of output queue `d` that the firing reserves (R264, R270). -/
def Firing.reserves (f : Firing) (d : Nat) : Nat := f.links.countP (fun e => e.1.toNat % 4 == d) + f.marks.count d

/-- The slot after the firing. -/
def Firing.slot (f : Firing) (q : Slot) : Slot :=
  { q with fired := true, walking := false, isNull := f.isNull, eff := f.eff, ex := q.ex ++ f.ex, host := q.host || f.host
           push := q.push ++ f.pushes }

/-- The block after the firing of slot `k` in cycle `now`. -/
def Firing.block (f : Firing) (now k : Nat) (b : Block) : Block :=
  { b with slots := b.slots.modify k f.slot, flights := b.flights ++ f.flights (now + 16), loads := b.loads ++ f.loads
           exit := f.exit.or b.exit, taken := f.taken.getD b.taken }

/-- The context after the firing. -/
def Firing.ctx (f : Firing) (now k : Nat) (t : Ctx) : Ctx :=
  { t with blk := t.blk.map (f.block now k), lvq := t.lvq ++ f.passed }

/-- From `s` to `t` the instruction at the firing position fires with what `f` says, and nothing else in the machine changes: no
register, no other slot, context, core or memory, no message and no clock. -/
structure Fires (s t : State) (f : Firing) : Prop where
  window : t.cctx = f.ctx s.now s.cur.slot s.cctx
  contexts : ∀ x, x ≠ s.cur.ctx → t.ccore.ctx x = s.ccore.ctx x
  core : { t.ccore with ctxs := s.ccore.ctxs, reserved := s.ccore.reserved } =
    { s.ccore with tlb := f.tlb.getD s.ccore.tlb, banks := s.ccore.banks ++ f.banks }
  reserved : ∀ d, t.ccore.reserved.get 0 d = s.ccore.reserved.get 0 d + f.reserves d
  cores : ∀ c, c ≠ s.cur.core → t.core c = s.core c
  rest : { t with cores := s.cores } = s

/-- The instruction runs at `s`, and fires with what `f` says. -/
def State.Does (s : State) (i : Instr) (f : Firing) : Prop := ∃ t, exec i s = .next t ∧ Fires s t f

/-- The instruction runs at `s` and sends one token to its targets. -/
def State.Sends (s : State) (i : Instr) (ts : List (BitVec 8)) (k : Tok) : Prop := s.Does i { out := sameTok ts k }

/-- The instruction runs at `s` and sends a value that it reads in this cycle, which the leading context of a pair also passes on
(R364). -/
def State.Reads (s : State) (i : Instr) (ts : List (BitVec 8)) (v : W64) : Prop :=
  s.Does i { out := sameTok ts (.scalar v), passed := if s.leads then [(s.cur.slot, .scalar v)] else [] }

/-- The instruction runs at `s`, and its commit will make the effect `e`. -/
def State.Records (s : State) (i : Instr) (e : Eff) : Prop := s.Does i { eff := e }

/-- The instruction runs at `s` as the exit `e` of its block. -/
def State.Exits (s : State) (i : Instr) (e : BlkExit) : Prop := s.Does i { exit := some e }

/-- The instruction runs at `s` and takes the exception `k` in its context, with none of its own effect. -/
def State.Traps (s : State) (i : Instr) (k : Cause) : Prop := exec i s = .next (s.takeFault s.cur.core s.cur.ctx k s.cur.slot)

/-! ### Vectors -/

/-- Element `j` of `w` bits of a vector (R129). -/
def lane (x : V1024) (w j : Nat) : BitVec w := x.extractLsb' (w * j) w

/-- The instruction runs at `s` and sends a vector whose lanes are valid as `valid` says, with the element `y j` in each element of a
valid lane, and notes the exception events `ev`. -/
def State.Lanes (s : State) (i : Instr) (ts : List (BitVec 8)) (w : Nat) (valid : Nat → Bool) (y : Nat → BitVec w)
    (ev : List (Nat × Nat) := []) : Prop :=
  ∃ v m, s.Does i { out := sameTok ts (.vector v m), ex := ev } ∧ (∀ k, k < 32 → m.getLsbD k = valid k) ∧
    ∀ j, j < 1024 / w → valid (w * j / 32) = true → lane v w j = y j

/-- The same for elements that come with the exception counters they feed, each element of a valid lane adding one (R140). -/
def State.Elems (s : State) (i : Instr) (ts : List (BitVec 8)) (w : Nat) (valid : Nat → Bool) (y : Nat → Res) : Prop :=
  s.Lanes i ts w valid (fun j => BitVec.ofNat w (y j).1)
    ((List.range (1024 / w)).flatMap fun j => if valid (w * j / 32) then (y j).2.map (fun k => (k, 1)) else [])

/-- A lane that the predicate leaves in (R43). -/
def State.laneIn (s : State) (pm : Pm) (k : Nat) : Bool := (s.laneMask pm).getLsbD k
/-- The vector L. -/
def State.lvec (s : State) : V1024 := s.slot.l.tok.vec.1
/-- A valid lane of L. -/
def State.lok (s : State) (k : Nat) : Bool := s.slot.l.tok.vec.2.getLsbD k
/-- The vector R. -/
def State.rvec (s : State) : V1024 := s.slot.r.tok.vec.1
/-- A valid lane of R. -/
def State.rok (s : State) (k : Nat) : Bool := s.slot.r.tok.vec.2.getLsbD k
/-- The vector P. -/
def State.pvec (s : State) : V1024 := s.slot.p.tok.vec.1
/-- A valid lane of P. -/
def State.pok (s : State) (k : Nat) : Bool := s.slot.p.tok.vec.2.getLsbD k

/-- The exception events of the elements of `w` bits in the valid lanes that meet `p`, each adding one to counter `k` (R140). -/
def elementEvents (w : Nat) (valid p : Nat → Bool) (k : Nat) : List (Nat × Nat) :=
  (List.range (1024 / w)).flatMap fun j => if valid (w * j / 32) && p j then [(k, 1)] else []

/-- The integer formats, the floating-point ones, and both, on which vector instructions work (R123, R129). -/
def intFormats : List Fmt := [.i32, .i16, .i8]
/-- The floating-point formats of vector elements. -/
def floatFormats : List Fmt := [.f32, .bf16, .f16]

/-- The instruction fires null at `s`: null to its targets and no other effect (R46). -/
def State.FiresNull (s : State) (i : Instr) : Prop := s.Does i { isNull := true, out := sameTok i.targets .null }

/-- A scalar operand of the instruction is null at `s` (R46). -/
def State.nullScalar (s : State) (i : Instr) : Bool := Machine.nullScalar i s.slot

/-- The instructions whose predicate leaves out lanes, and does not turn them off (R43). -/
def laneWise : Instr → Bool
  | .vst .. | .vjoin .. | .fillV .. | .vcmp .. | .vextr .. | .vred .. => true
  | i => i.vecOut

/-- The instructions of class H, which only the head context runs (R76). -/
def headInstructions (pm : Pm) : List Instr :=
  [.start pm, .startComm pm, .reapDump pm, .reapTrap pm, .kill pm, .ackf pm, .tlbi pm, .genb pm, .gstop pm, .gstopResume pm, .gsw pm,
    .tblwTranslation pm, .tblwAsidRoot pm, .tblwStreamEntry pm, .tblwContainment pm, .tblwFormatWindow pm, .tblwBreakpoint pm,
    .tblwCorrectionHistory pm, .tblwFrameState pm]

/-! ### Pages -/

/-- The first-level translation buffer of the firing core holds the leaf `l` for the address `va` of the firing context, above the
local window and the guard range (R192, R204). -/
def State.Maps (s : State) (va : Nat) (l : Leaf) : Prop :=
  0x100000 ≤ va ∧ va < 2 ^ 48 ∧ s.leaf? s.cur.core s.cctx.asid s.cctx.gen va = some l

/-- A first-level buffer with the entry of `va` made the most recently used (R204). -/
def State.used (s : State) (tlb : List TlbEntry) (va : Nat) (l : Leaf) : List TlbEntry :=
  tlbPut tlb 64 ⟨s.cctx.asid, s.cctx.gen, vpageOf l.big va, l⟩

/-- The firing core's first-level buffer after a use of `va`. -/
def State.hit (s : State) (va : Nat) (l : Leaf) : Option (List TlbEntry) := some (s.used s.ccore.tlb va l)

/-- No translation of `va` is at hand: an address above the local window and the guard range, on no entry of the buffer. -/
def State.Misses (s : State) (va : Nat) : Prop :=
  0x100000 ≤ va ∧ va < 2 ^ 48 ∧ s.leaf? s.cur.core s.cctx.asid s.cctx.gen va = none

/-! ### Requests -/

/-- A request of the firing instruction for the place that `va` names: its address, its thread's address space, generation and
launch, and where a fault of it is to be reported (R224, R242). -/
def State.asks (s : State) (l : Leaf) (va : Nat) : Req :=
  { kind := .join, pa := l.pa va, va := va, lat := l.lat, asid := s.cctx.asid, gen := s.cctx.gen
    lid := s.cctx.gtid.toNat / 2 ^ 48, rblk := s.cctx.blkAddr, rslot := s.cur.slot }

/-- The instruction runs at `s`, fires with `f`, and sends the request `r` with the next number to `home`, its first flit entering
the router in cycle `e` (R222, R227). -/
def State.RequestsAt (s : State) (e : Nat) (i : Instr) (f : Firing) (home : Nat) (r : Req) : Prop :=
  ∃ u, Fires s u f ∧ exec i s = .next (({ u with nextId := s.nextId + 1 } : State).sendCounted e s.cur.core
    (.req home { r with who := [⟨s.cur.core, s.cur.ctx, s.nextId, r.va, r.rblk, r.rslot, none⟩] }))

/-- Requests of the firing instruction, each with the next number to its home, the first entering the router in cycle `e` and one more in each
cycle (R199, R222). -/
def State.asksAll (u : State) (e : Nat) : List (Nat × Req) → State
  | [] => u
  | (home, r) :: l => State.asksAll (({ u with nextId := u.nextId + 1 } : State).sendCounted e u.cur.core
      (.req home { r with who := [⟨u.cur.core, u.cur.ctx, u.nextId, r.va, r.rblk, r.rslot, none⟩] })) (e + 1) l

/-- The instruction runs at `s`, fires with `f`, and sends these requests to their homes, the first two cycles after it fires. -/
def State.RequestsAll (s : State) (i : Instr) (f : Firing) (l : List (Nat × Req)) : Prop :=
  ∃ u, Fires s u f ∧ exec i s = .next (u.asksAll (s.now + 2) l)

/-- The instruction runs at `s` and fires with `f`, a load that reads nothing or finds all of it at hand: its token comes after 16 cycles. -/
def State.LoadsNear (s : State) (i : Instr) (f : Firing) : Prop :=
  ∃ u, Fires s u f ∧ exec i s = .next (u.sched (s.now + 16) (.loadResult s.cur.core s.cur.ctx s.cctx.serial s.cur.slot 0 [] none))

/-- The same, two cycles after it fires (R199). -/
def State.Requests (s : State) (i : Instr) (f : Firing) (home : Nat) (r : Req) : Prop := s.RequestsAt (s.now + 2) i f home r

/-- The link queues among targets, which reserve an entry when a load fires; its value takes it when it comes (R264). -/
def linksOnly (ts : List (BitVec 8)) : List (BitVec 8 × Tok) := sameTok (ts.filter fun t => t.toNat / 64 == 3) .null

/-- A load's access to the banks of local memory (R194): its words enter four cycles after issue. -/
def State.bankAccess (s : State) (as : List Nat) : BankAcc :=
  { pri := 1, start := s.now + 4, words := wordsOf as, c := max 1 (bankCount (wordsOf as)), issue := s.now
    ret := some (s.cur.ctx, s.cctx.serial, s.cur.slot, 0) }

/-! ### Events -/

/-- The instruction runs at `s`, and the state it answers meets `p`. -/
def State.Yields (s : State) (i : Instr) (p : State → Prop) : Prop := ∃ t, exec i s = .next t ∧ p t

/-- The steps `l` are added to the agenda, in this order, each after those of its cycle. -/
def State.Plans (s t : State) (l : List (Nat × Event)) : Prop := t.agenda = l.foldl (fun a e => agendaInsert e.1 e.2 a) s.agenda

/-- Of all the machine, only the core `c` may differ, and the agenda. -/
def OnCore (s t : State) (c : Nat) : Prop :=
  { t with cores := s.cores, agenda := s.agenda } = s ∧ ∀ d, d ≠ c → t.core d = s.core d

/-- Of all the machine, only the context `x` of the core `c` may differ, and the agenda. -/
def OnCtx (s t : State) (c x : Nat) : Prop :=
  OnCore s t c ∧ { t.core c with ctxs := (s.core c).ctxs } = s.core c ∧ ∀ y, y ≠ x → t.ctx c y = s.ctx c y

/-- Of all the machine, only the die `d` may differ, and the agenda. -/
def OnDie (s t : State) (d : Nat) : Prop :=
  { t with dies := s.dies, agenda := s.agenda } = s ∧ ∀ e, e ≠ d → t.die e = s.die e

/-- Of all the machine, only the crystalliser `h` may differ, and the agenda. -/
def OnXtal (s t : State) (h : Nat) : Prop :=
  { t with xtals := s.xtals, agenda := s.agenda } = s ∧ ∀ g, g ≠ h → t.xtal g = s.xtal g

/-- Of all the machine, only the package `p` may differ, and the agenda. -/
def OnPkg (s t : State) (p : Nat) : Prop :=
  { t with pkgs := s.pkgs, agenda := s.agenda } = s ∧ ∀ q, q ≠ p → t.pkg q = s.pkg q

/-- The request ends its service at the crystalliser `h` in this cycle, and its frame makes it wait no longer (R220, R221, R297). -/
def State.Served (s : State) (h : Nat) (r : Req) : Prop :=
  h < 2 ^ 19 ∧ h % 2048 < 1536 ∧ r.serving = true ∧ r.queued = false ∧ (s.xtal h).frameWait.get [] (frameKey r.pa) = [] ∧
    (s.xtal h).frameBusy.get 0 (frameKey r.pa) ≤ s.now

/-- Every issuer of the request, if it is a core of the home's package, receives the one-flit answer `e`, which leaves the home `delay` cycles
from now (R17, R227). -/
def State.Answers (s t : State) (h : Nat) (r : Req) (delay : Nat) (e : Who → Event) : Prop :=
  ∀ w ∈ r.who, pkgOf w.core = h / 2048 → (s.now + delay + pathTime (xtalRouter h) w.core + 2, e w) ∈ t.agenda

/-- Every byte of device memory outside the `n` bytes from `pa` on reads as before. -/
def State.KeepsOutside (s t : State) (pa n : Nat) : Prop := ∀ a, (a < pa ∨ pa + n ≤ a) → t.readByte a = s.readByte a

/-- The waits for the locations of a frame that `at_` names, evaluated at the home in their state in `t` (R214, R215, R220, R221): the entries that
pass or never will leave the table and the overflow area, the wakes of the table's one a cycle in ascending index, those of the overflow area once
its records have been read. -/
def State.Wakes (s t : State) (h frame : Nat) (at_ : Nat → Bool) : Prop :=
  let k := s.xtal h
  let here (w : Waiter) : Bool := frameKey w.req.pa == frame && at_ w.req.pa
  let ends (w : Waiter) : Bool := here w && (t.waitIndex w.req).isSome
  (t.xtal h).waiters = k.waiters.filter (fun w => !ends w) ∧ (t.xtal h).overflow = k.overflow.filter (fun w => !ends w) ∧
  ((k.waiters.map (·.idx)).Nodup → ∀ w ∈ k.waiters, here w = true → ∀ i, t.waitIndex w.req = some i →
    ∀ q ∈ w.req.who, pkgOf q.core = h / 2048 →
      let turn := k.waiters.countP fun v => ends v && decide (v.idx < w.idx)
      (s.now + turn + pathTime (xtalRouter h) q.core + 2,
        .producerCompletion q.core q.ctx .gr w.req.dst ((BitVec.ofNat 64 i).setWidth 1024) true q.id) ∈ t.agenda) ∧
  (k.overflow.any here = true → ∃ u, s.now + 4 ≤ u ∧ (u, .overflowChainRead h (frame * 65536) (k.overflow.filterMap fun w =>
    if here w then (t.waitIndex w.req).map fun i => { w with req := { w.req with val := i } } else none)) ∈ t.agenda)

/-- A home's work changes no core, die or package, no host memory and no firing position; a send may change the ports of packages. -/
def AtHome (s t : State) : Prop :=
  t.cores = s.cores ∧ t.dies = s.dies ∧ t.hostMem = s.hostMem ∧ t.bars = s.bars ∧ t.images = s.images ∧ t.now = s.now ∧
    t.replay = s.replay ∧ t.cur = s.cur

/-- A crystalliser whose slice a line has entered (R219): of a full slice, the line that the free value `n` picks leaves. -/
def Xtal.holding (k : Xtal) (line n : Nat) : Xtal :=
  if line ∈ k.slice then k
  else if k.slice.length < 24576 then { k with slice := line :: k.slice }
  else { k with slice := line :: k.slice.eraseIdx (Config.evictedLine n % k.slice.length) }

/-- The free values that this takes. -/
def Xtal.evictions (k : Xtal) (line : Nat) : Nat := if line ∈ k.slice ∨ k.slice.length < 24576 then 0 else 1

/-- What a core's private store buffer, now `psb`, has still to release: the next step, if an entry of the oldest 64 is not draining and no step of it
is planned (R198). -/
def State.drainsOn (s : State) (c : Nat) (psb : List PsbEntry) : List (Nat × Event) :=
  if (psb.take 64).any (fun e => !e.draining) && !s.agenda.any (fun e => e.2 == .privStoreDrain c) then
    [(s.now + 1, .privStoreDrain c)]
  else []

/-- The services of requests for one line, which end one a cycle from cycle `t` on (R221). -/
def services (h t : Nat) (q : List Req) : List (Nat × Event) :=
  (q.zip (List.range q.length)).map fun e => (t + e.2, reqEvent h { e.1 with serving := true })

/-! ### Streams -/

/-- Where the copies of a flit go that leaves a router for the mesh or its core, `delay` cycles from now, through the ports of a mask: N, E, S, W as
far as there is a neighbour, and the core, into its input queue `q` (R298, R299). -/
def State.streamCopies (s : State) (router mask q delay : Nat) (f : Flit) : List (Nat × Event) :=
  ([Dir.north, .east, .south, .west].filterMap fun d =>
    if bitOf mask d.num then
      (neighbour router d).map fun n => (s.now + delay + meshTime router n, .streamFlitForward n d.opp.num f)
    else none) ++
  if bitOf mask 4 then [(s.now + delay + 2, .streamFlitForward router (8 + q) f)] else []

/-- The set sends nothing through a Brineline port, or its router has none. -/
def StreamSet.meshOnly (q : StreamSet) (router : Nat) : Prop := bitOf q.out 5 = false ∨ portAt router = none

/-! ### Launches -/

/-- The package with a running launch changed. -/
def Package.editRun (k : Package) (lid : Nat) (f : Run → Run) : Package :=
  { k with runs := k.runs.map fun r => if r.rc.lid == lid && r.st != .ended then f r else r }

/-- A launch is reported and gone: its status stands for the host, in host memory too if its record names a place, a mailbox event is raised, and the
service core looks for the next record (R342, R344, R383). -/
def State.Reports (s t : State) (p : Nat) (rc : Launch) (st : Status) : Prop :=
  (t.pkg p).statuses.get? rc.lid = some st ∧ (t.pkg p).out = (s.pkg p).out ++ [.statusEvent rc.lid] ∧
    (t.pkg p).runs = (s.pkg p).runs.filter (fun r => r.rc.lid != rc.lid) ∧
    (t.pkg p).queue = (s.pkg p).queue.filter (fun q => q.2.1.lid != rc.lid) ∧ (s.now, .launchStart p) ∈ t.agenda ∧
    (rc.status = 0 → t.hostMem = s.hostMem) ∧
    (rc.status ≠ 0 → st.dead = [] →
      t.readHost rc.status 32 = [st.outcome, st.exit.toNat, st.digest, if st.escaped then 1 else 0].flatMap fun w => leBytes w 8)

/-- Every thread of a launch on a package that runs or waits in its retry latch is on its way out (R354). -/
def State.Killed (s t : State) (p lid : Nat) : Prop :=
  ∀ c x, pkgOf c = p → x ≠ 0 → x < 16 → lidOf (s.ctx c x).gtid = lid → (s.ctx c x).st = .active ∨ (s.ctx c x).st = .latched →
    (t.ctx c x).st = .exiting ∧ (t.ctx c x).gtid = (s.ctx c x).gtid

/-! ### Tiles -/

/-- Element (i, j) of a tile of a shape, of `w` bits: row-major from byte 0 (R167). -/
def tileElem (h : Shape) (w : Nat) (bs : List Byte) (i j : Nat) : BitVec w :=
  BitVec.ofNat w (leValue (((fullTile bs).drop ((i * h.cols + j) * (w / 8))).take (w / 8)))

/-- The pattern of element (i, j) of a tile in its own format, two BFX4 elements in a byte (R167). -/
def tileBits (h : Shape) (bs : List Byte) (i j : Nat) : Nat :=
  let byte (k : Nat) : Nat := ((fullTile bs).getD (i * h.rowBytes + k) 0).toNat
  if h.code = 7 then byte (j / 2) / 16 ^ (j % 2) % 16
  else ((List.range (h.fmt.width / 8)).map fun k => byte (j * (h.fmt.width / 8) + k) * 256 ^ k).sum

/-- The floating-point value of element (i, j) of a tile, a BFX one with the scale pair of its block of 32 columns (R134, R170). -/
def tileVal (h : Shape) (bs : List Byte) (i j : Nat) : FVal :=
  let o := 2 * (i * (h.cols / 32) + j / 32)
  if h.bfx then bfxVal (h.code == 7) (tileBits h bs i j) (sideByte bs o) (sideByte bs (o + 1)) else unpack h.fmt (tileBits h bs i j)

/-- A checksum word of a tile: of row i, or of column j at 64 + j (R170). -/
def tileSum (bs : List Byte) (k : Nat) : BitVec 32 := BitVec.ofNat 32 (leValue (((fullTile bs).drop (4096 + 4 * k)).take 4))

/-- A finite value (sign, magnitude, exponent) in units of 2^lo, for an exponent not below `lo`. -/
def inUnits (neg : Bool) (mag : Nat) (exp lo : Int) : Int := (if neg then -1 else 1) * (mag * 2 ^ (exp - lo).toNat : Nat)

/-- A floating-point value in units of 2^lo; one that is not finite has none. -/
def FVal.inUnits (lo : Int) : FVal → Int
  | .fin n m e => Machine.inUnits n m e lo
  | _ => 0

/-- A finite floating-point value with an exponent not below `lo`. -/
def FVal.above (lo : Int) : FVal → Prop
  | .fin _ _ e => lo ≤ e
  | _ => False

end Sys2Proof.Machine
end

