-- ==== Sys2Proof/Certificates/Slice0/Obligations.lean ====
section
/-!
DEFINITION. The statements for the provers. Each is a rule of the spec, or what follows from one, about the model's own
definitions; the docstring names the rules.
-/

section

open Sys2Proof Sys2Proof.Machine

/-! ### Encoding -/

/-- R38 to R41, R64 to R75: the word of a well-formed instruction decodes to it, every operand at every value; the rows that share a word and differ
by an operand decode to the row that the word names. -/
def Obligations.EncodedInstructionDecodes : Prop :=
  ∀ i : Instr, i.wf = true → i.nbits ≠ 0 → decodeTableWord i.nbits i.encode = some i.base

/-- R63: a word that decodes is the one word of its instruction, and the instruction's fields are ones its row lists; so no bit is ignored, and no
reserved encoding falls to a neighbour. -/
def Obligations.DecodedWordIsTheInstructionsWord : Prop :=
  (∀ w i, w < 2 ^ 32 → decodeWord true w = .ok i → i.wf = true ∧ i.nbits = 32 ∧ i.encode = w) ∧
  (∀ w i, w < 2 ^ 16 → decodeWord false w = .ok i → i.wf = true ∧ i.nbits = 16 ∧ i.encode = w)

/-! ### The scalar unit -/

/-- R103, R111, R113, R114: the two-operand operations at both widths, on the low 32 or 64 bits, the result sign-extended; a shift count is the
whole of R; a division by zero sends all ones or the dividend and adds one to ex8 at commit. -/
def Obligations.ScalarArithmetic : Prop :=
  (∀ (s : State) (pm : Pm) (w : Wid) (t1 t0 : BitVec 8), s.offScalar pm = false →
      let a := w.low s.lval
      let b := w.low s.rval
      let c := s.rval.toNat
      let gives (i : Instr) (y : BitVec w.bits) : Prop := s.Sends i [t0, t1] (.scalar (y.signExtend 64))
      gives (.add pm w t1 t0) (a + b) ∧ gives (.sub pm w t1 t0) (a - b) ∧ gives (.and pm w t1 t0) (a &&& b) ∧
      gives (.or pm w t1 t0) (a ||| b) ∧ gives (.xor pm w t1 t0) (a ^^^ b) ∧ gives (.andn pm w t1 t0) (a &&& ~~~ b) ∧
      gives (.shl pm w t1 t0) (a <<< c) ∧ gives (.shr pm w t1 t0) (a >>> c) ∧ gives (.sra pm w t1 t0) (a.sshiftRight c) ∧
      gives (.rot pm w t1 t0) (a.rotateLeft c) ∧
      gives (.min pm w t1 t0) (if a.sle b then a else b) ∧ gives (.max pm w t1 t0) (if b.sle a then a else b) ∧
      gives (.minu pm w t1 t0) (if a.ule b then a else b) ∧ gives (.maxu pm w t1 t0) (if b.ule a then a else b)) ∧
  (∀ (s : State) (pm : Pm) (w : Wid) (t1 t0 : BitVec 8), s.offScalar pm = false →
      let n := w.bits
      let a := w.low s.lval
      let b := w.low s.rval
      let gives (i : Instr) (y : BitVec w.bits) : Prop := s.Sends i [t0, t1] (.scalar (y.signExtend 64))
      let divides (i : Instr) (y : BitVec w.bits) : Prop :=
        s.Does i { out := sameTok [t0, t1] (.scalar (y.signExtend 64)), ex := if b = 0 then [(8, 1)] else [] }
      gives (.mul pm w t1 t0) (a * b) ∧
      gives (.mulh pm w t1 t0) ((a.signExtend (2 * n) * b.signExtend (2 * n)).extractLsb' n n) ∧
      gives (.mulhu pm w t1 t0) ((a.setWidth (2 * n) * b.setWidth (2 * n)).extractLsb' n n) ∧
      divides (.div pm w t1 t0) (if b = 0 then BitVec.allOnes n else a.sdiv b) ∧
      divides (.divu pm w t1 t0) (if b = 0 then BitVec.allOnes n else a / b) ∧
      divides (.rem pm w t1 t0) (if b = 0 then a else a.srem b) ∧
      divides (.remu pm w t1 t0) (if b = 0 then a else a % b))

/-- R115, R116: the counts of leading and trailing zeros and of ones, byte reversal, complement, negation and the extensions; the tests, which send
1 or 0 as a 64-bit value, TLTI and TEQI comparing the whole of L with the sign-extended immediate. R65, R107, R108, R110, R112, R115 to R118: the
halfword forms, each the 64-bit operation of its W form; the immediate forms, the 14-bit immediate sign-extended but for MOVHI, a negative shift
count counting as 64 or more; MOV, SEL, LEA and MIX. -/
def Obligations.ScalarUnaryTestsAndShortForms : Prop :=
  (
    (∀ (s : State) (pm : Pm) (w : Wid) (t1 t0 : BitVec 8), s.offScalar pm = false →
        let n := w.bits
        let a := w.low s.lval
        let l := s.lval
        let gives (i : Instr) (y : W64) : Prop := s.Sends i [t0, t1] (.scalar y)
        (∃ k, gives (.clz pm w t1 t0) (BitVec.ofNat 64 k) ∧ k ≤ n ∧ a.toNat < 2 ^ (n - k) ∧ (k < n → 2 ^ (n - k - 1) ≤ a.toNat)) ∧
        (∃ k, gives (.ctz pm w t1 t0) (BitVec.ofNat 64 k) ∧ k ≤ n ∧ (∀ j, j < k → a.getLsbD j = false) ∧ (k < n → a.getLsbD k = true)) ∧
        gives (.popc pm w t1 t0) (BitVec.ofNat 64 ((List.range n).countP fun j => a.getLsbD j)) ∧
        (∃ y : BitVec w.bits, gives (.bswap pm w t1 t0) (y.signExtend 64) ∧
          ∀ j, j < n / 8 → y.extractLsb' (8 * j) 8 = a.extractLsb' (8 * (n / 8 - 1 - j)) 8) ∧
        gives (.not pm w t1 t0) ((~~~ a).signExtend 64) ∧ gives (.neg pm w t1 t0) ((- a).signExtend 64) ∧
        gives (.sextB pm t1 t0) ((l.setWidth 8).signExtend 64) ∧ gives (.sextH pm t1 t0) ((l.setWidth 16).signExtend 64) ∧
        gives (.sextW pm t1 t0) ((l.setWidth 32).signExtend 64) ∧ gives (.zextB pm t1 t0) ((l.setWidth 8).setWidth 64) ∧
        gives (.zextH pm t1 t0) ((l.setWidth 16).setWidth 64) ∧ gives (.zextW pm t1 t0) ((l.setWidth 32).setWidth 64)) ∧
    (∀ (s : State) (pm : Pm) (w : Wid) (imm : BitVec 14) (t1 t0 : BitVec 8), s.offScalar pm = false →
        let a := w.low s.lval
        let b := w.low s.rval
        let gives (i : Instr) (c : Bool) : Prop := s.Sends i [t0, t1] (.scalar (if c then 1 else 0))
        let one (i : Instr) (c : Bool) : Prop := s.Sends i [t0] (.scalar (if c then 1 else 0))
        gives (.teq pm w t1 t0) (a == b) ∧ gives (.tne pm w t1 t0) (a != b) ∧ gives (.tlt pm w t1 t0) (a.slt b) ∧
        gives (.tltu pm w t1 t0) (a.ult b) ∧ gives (.tle pm w t1 t0) (a.sle b) ∧ gives (.tleu pm w t1 t0) (a.ule b) ∧
        one (.tlti pm imm t0) (s.lval.slt (imm.signExtend 64)) ∧ one (.teqi pm imm t0) (s.lval == imm.signExtend 64))) ∧
  (
    (∀ (s : State) (pm : Pm) (t0 : BitVec 8), s.offScalar pm = false →
        let l := s.lval
        let gives (i : Instr) (y : W64) : Prop := s.Sends i [t0] (.scalar y)
        let test (i : Instr) (c : Bool) : Prop := s.Sends i [t0] (.scalar (if c then 1 else 0))
        gives (.noth pm t0) (~~~ l) ∧ gives (.negh pm t0) (- l) ∧ gives (.inch pm t0) (l + 1) ∧ gives (.dech pm t0) (l - 1) ∧
        test (.teqz pm t0) (l == 0) ∧ test (.tnez pm t0) (l != 0) ∧ test (.tltz pm t0) l.msb ∧ test (.tgez pm t0) (!l.msb) ∧
        gives (.sxb pm t0) ((l.setWidth 8).signExtend 64) ∧ gives (.sxh pm t0) ((l.setWidth 16).signExtend 64) ∧
        gives (.sxw pm t0) ((l.setWidth 32).signExtend 64) ∧ gives (.zxb pm t0) ((l.setWidth 8).setWidth 64) ∧
        gives (.zxh pm t0) ((l.setWidth 16).setWidth 64) ∧ gives (.zxw pm t0) ((l.setWidth 32).setWidth 64)) ∧
    (∀ (s : State) (pm : Pm) (imm : BitVec 14) (t0 : BitVec 8), s.offScalar pm = false →
        let l := s.lval
        let i := imm.signExtend 64
        let gives (j : Instr) (y : W64) : Prop := s.Sends j [t0] (.scalar y)
        gives (.movi pm imm t0) i ∧ gives (.movhi pm imm t0) (l * 0x4000 + imm.setWidth 64) ∧
        gives (.addi pm imm t0) (l + i) ∧ gives (.andi pm imm t0) (l &&& i) ∧ gives (.ori pm imm t0) (l ||| i) ∧
        gives (.xori pm imm t0) (l ^^^ i) ∧ gives (.shli pm imm t0) (l <<< i.toNat) ∧ gives (.shri pm imm t0) (l >>> i.toNat) ∧
        gives (.srai pm imm t0) (l.sshiftRight i.toNat)) ∧
    (∀ (s : State) (pm : Pm) (h : BitVec 2) (t1 t0 : BitVec 8), s.offScalar pm = false →
        let l := s.lval
        let r := s.rval
        let x0 := l.setWidth 32 ^^^ r.setWidth 32
        let x1 : W32 := x0 * 0x2C1B3C6D
        let x2 := x1 ^^^ (x1 >>> 16)
        let x3 : W32 := x2 * 0x297A2D39
        s.Sends (.movh pm t0) [t0] (.scalar l) ∧ s.Sends (.mov pm t1 t0) [t0, t1] (.scalar l) ∧
        (s.offScalar .ternary = false → s.Sends (.sel t1 t0) [t0, t1] (.scalar (if s.pval = 0 then r else l))) ∧
        s.Sends (.lea pm h t1 t0) [t0, t1] (.scalar (l + (r <<< h.toNat))) ∧
        s.Sends (.mix pm t1 t0) [t0, t1] (.scalar ((x3 ^^^ (x3 >>> 15)).setWidth 64))))

/-! ### Registers -/

/-- R81: g0 is FULL and reads 0, p0 is FULL and reads all ones; no write, release or failure of a producer changes either. A WR of them fires, and
its block commits, without effect. No instruction with an asynchronous producer can name g0; CPY and CPYW of g0 have none. -/
def Obligations.HardwiredRegisters : Prop :=
  (∀ t : Ctx, t.regState .gr 0 = .full ∧ t.regTok .gr 0 = .scalar 0 ∧ t.regState .pr 0 = .full ∧
    t.regTok .pr 0 = .scalar 0xFFFFFFFF) ∧
  (∀ (t : Ctx) (k : Tok), t.writeTok .gr 0 k = t ∧ t.writeTok .pr 0 k = t ∧ t.makeEmpty .gr 0 = t ∧ t.makeInvalid .gr 0 = t) ∧
  (∀ (s : State) (f : RegFile), f = .gr ∨ f = .pr →
    if s.slot.l.tok.isNull then s.Does (.wr f 0) { isNull := true } else s.Records (.wr f 0) (.wr f 0 s.slot.l.tok)) ∧
  (∀ (s : State) (c x : Nat) (b : Block) (e : BlkExit), s.ev = .blockCommit c x → x ≠ 0 → (s.ctx c x).pair = false →
    (s.ctx c x).blk = some b → b.exit = some e → s.mayCommit c x b = true → b.taken = [] →
    (∀ q ∈ b.slots, q.push = [] ∧ (q.eff = .none ∨ ∃ k, q.eff = .wr .gr 0 k ∨ q.eff = .wr .pr 0 k)) → e.kind ∈ [.br, .bri, .ret] →
    s.Yields .blockCommit fun t => (t.ctx c x).commitAt = some s.now ∧
      ∀ f r, (t.ctx c x).regState f r = (s.ctx c x).regState f r ∧ (t.ctx c x).regTok f r = (s.ctx c x).regTok f r) ∧
  (∀ (pm : Pm) (ta : BitVec 4) (g : BitVec 6) (k : BitVec 8),
    ((Instr.tckv pm ta g).wf = true → g ≠ 0) ∧ ((Instr.waitt pm g k).wf = true → g ≠ 0) ∧ ((Instr.faddb g).wf = true → g ≠ 0) ∧
    ((Instr.incw pm g).wf = true → g ≠ 0) ∧ ((Instr.dcall pm g).wf = true → g ≠ 0) ∧ ((Instr.merge pm g).wf = true → g ≠ 0)) ∧
  ∀ (s : State) (c : Nat) (m : CopyCmd) (v : Nat) (ok : Bool), m.g = 0 → s.endCopyReg c m v ok = s

/-- R48, R85, R104, R105: RD and RDT send what a FULL register holds; an RD of an EMPTY one does not fire; every other case raises VUNDEF, whose
record names the file, the number and whether it was EMPTY. WR fires on any token and notes it for the commit; a null one only fires. -/
def Obligations.RegisterReadsAndWrites : Prop :=
  (∀ (s : State) (f : RegFile) (r : BitVec 6) (t1 t0 : BitVec 8),
      let undefined (e : Bool) : Cause := { code := .vundef, sub := r.toNat, file := f.num, emp := e }
      match s.cctx.regState f r.toNat with
      | .full => s.Sends (.rd f r t1 t0) [t0, t1] (s.cctx.regTok f r.toNat) ∧ s.Sends (.rdt f r t1 t0) [t0, t1] (s.cctx.regTok f r.toNat)
      | .empty => exec (.rd f r t1 t0) s = .next s ∧ s.Traps (.rdt f r t1 t0) (undefined true)
      | .invalid => s.Traps (.rd f r t1 t0) (undefined false) ∧ s.Traps (.rdt f r t1 t0) (undefined false)) ∧
  (∀ (s : State) (f : RegFile) (r : BitVec 6),
      if s.slot.l.tok.isNull then s.Does (.wr f r) { isNull := true } else s.Records (.wr f r) (.wr f r.toNat s.slot.l.tok))

/-- R86: what a write makes of a register, and that every other register stays: a scalar makes it FULL with its value, of which a p register keeps
32 bits; a vector writes its valid lanes alone; a null one changes nothing. R54, R87, R120: the commit of a block whose only effects are WRs and
whose exit is a branch, call or return: every register is what its WRs make of it, in slot order, g1 holds the link after a call, the thread stays,
and every byte of memory is kept. -/
def Obligations.RegisterWriteRule : Prop :=
  (
    (∀ (t : Ctx) (r : Nat) (v : W64), r ≠ 0 →
      (t.writeTok .gr r (.scalar v)).gReg r = ⟨.full, v⟩ ∧ (t.writeTok .pr r (.scalar v)).pReg r = ⟨.full, v.setWidth 32⟩) ∧
    (∀ (t : Ctx) (r : Nat) (v : W64), (t.writeTok .ox r (.scalar v)).oxReg r = ⟨.full, v⟩) ∧
    (∀ (t : Ctx) (r : Nat) (x : V1024) (m : W32), m ≠ 0 →
      ((t.writeTok .vr r (.vector x m)).vReg r).st = .full ∧
      ∀ j, j < 32 → lane ((t.writeTok .vr r (.vector x m)).vReg r).val 32 j =
        if m.getLsbD j then lane x 32 j else lane (t.vReg r).val 32 j) ∧
    (∀ (t : Ctx) (f : RegFile) (r : Nat), t.writeTok f r .null = t) ∧
    (∀ (t : Ctx) (r : Nat) (x : V1024), t.writeTok .vr r (.vector x 0) = t) ∧
    (∀ (t : Ctx) (r : Nat), ({} : Ctx).vReg r = ⟨.invalid, 0⟩ ∧ (t.makeInvalid .vr r).vReg r = ⟨.invalid, 0⟩) ∧
    ∀ (t : Ctx) (f f' : RegFile) (r r' : Nat) (k : Tok), (f, r) ≠ (f', r') →
      (t.writeTok f r k).regState f' r' = t.regState f' r' ∧ (t.writeTok f r k).regTok f' r' = t.regTok f' r') ∧
  (
    ∀ (s : State) (c x : Nat) (b : Block) (e : BlkExit), s.ev = .blockCommit c x → x ≠ 0 → (s.ctx c x).pair = false →
      (s.ctx c x).blk = some b → b.exit = some e → s.mayCommit c x b = true → b.taken = [] →
      (∀ q ∈ b.slots, q.push = [] ∧ (q.eff = .none ∨ ∃ f r k, q.eff = .wr f r k)) →
      e.kind ∈ [.br, .bri, .call, .calli, .ret] →
      ∃ t, exec .blockCommit s = .next t ∧
        let written := b.slots.foldl (fun u q => match q.eff with | .wr f r k => u.writeTok f r k | _ => u) (s.ctx c x)
        let linked := if e.kind ∈ [.call, .calli] then written.setG 1 (BitVec.ofNat 64 ((b.addr + b.bytes) % 2 ^ 48)) else written
        (∀ f r, (t.ctx c x).regState f r = linked.regState f r ∧ (t.ctx c x).regTok f r = linked.regTok f r) ∧
        (t.ctx c x).commitAt = some s.now ∧ (t.ctx c x).gtid = (s.ctx c x).gtid ∧ (t.ctx c x).st = .active ∧
        (∀ pa, t.readByte pa = s.readByte pa) ∧ (t.core c).lmem = (s.core c).lmem ∧ t.hostMem = s.hostMem)

/-! ### Exits of a block -/

/-- R40, R52, R67, R120: the branches and calls of the WB form end the block at its start plus eight times the offset, those that take an address
end it there; an address that is not a multiple of 8 raises ALIGN, else one above 48 bits XLAT; a second exit BLKFMT. The model's own readings here:
log entry 65. -/
def Obligations.Branches : Prop :=
  (∀ (s : State) (pm : Pm) (off : BitVec 22), s.offScalar pm = false → s.cblk.exit = none →
      let rel := (BitVec.ofNat 48 s.cblk.addr + off.signExtend 48 * 8).toNat
      s.Exits (.br pm off) { kind := .br, target := rel } ∧ s.Exits (.call pm off) { kind := .call, target := rel } ∧
      let l := s.lval.toNat
      (l % 8 = 0 → l < 2 ^ 48 →
        s.Exits (.bri pm) { kind := .bri, target := l } ∧ s.Exits (.calli pm) { kind := .calli, target := l } ∧
        s.Exits (.ret pm) { kind := .ret, target := l } ∧ s.Exits (.reth pm) { kind := .ret, target := l })) ∧
  (∀ (s : State) (pm : Pm) (off : BitVec 22) (i : Instr), s.offScalar pm = false →
      (i ∈ [.bri pm, .calli pm, .ret pm, .reth pm] →
        let l := s.lval.toNat
        (l % 8 ≠ 0 → s.Traps i { code := .align, va := l }) ∧
        (l % 8 = 0 → 2 ^ 48 ≤ l → s.Traps i { code := .xlat, va := l }) ∧
        (l % 8 = 0 → l < 2 ^ 48 → s.cblk.exit.isSome → s.Traps i { code := .blkfmt })) ∧
      (i ∈ [.br pm off, .call pm off] → s.cblk.exit.isSome → s.Traps i { code := .blkfmt }))

/-- R281, R284, R285, R346, R350, R356, R358: MIG to a core of the pod, EXIT of a root or communication thread, DRET of a routine, ERET of a handler
and TRAP end the block where they may; elsewhere they raise PRIV, LBOUND, MREF or ESCAPE. The model's own readings here: log entry 10. -/
def Obligations.ThreadExits : Prop :=
  (∀ (s : State) (pm : Pm) (code : BitVec 6), s.offScalar pm = false → s.cblk.exit = none →
      s.Exits (.trap pm code) { kind := .trap, target := code.toNat } ∧
      (∀ pkg core, s.cur.ctx ≠ 0 → pkg < 256 → core < 26112 → s.lval.toNat = pkg * 2 ^ 19 + core * 16 →
        s.ccore.ownsTile s.cur.ctx = false → s.ccore.enrolledOutside s.cur.core s.cur.ctx (coreKey pkg core) = false →
        s.Exits (.mig pm) { kind := .mig, target := coreKey pkg core }) ∧
      (s.cur.ctx ≠ 0 → depthOf s.cctx.gtid = 0 ∨ s.cur.ctx = 1 → s.Exits (.exit pm) { kind := .exit, value := s.lval }) ∧
      (s.cur.ctx = 0 → s.ccore.head.routine.isSome → s.strict s.cur.core 0 = false → s.Exits (.dret pm) { kind := .dret, value := s.lval }) ∧
      (s.cur.ctx = 0 → s.ccore.head.handler = true → s.Exits (.eret pm) { kind := .eret })) ∧
  (∀ (s : State) (pm : Pm), s.offScalar pm = false →
      (s.cur.ctx = 0 → s.Traps (.mig pm) { code := .priv } ∧ s.Traps (.exit pm) { code := .priv }) ∧
      (s.cur.ctx ≠ 0 → s.Traps (.dret pm) { code := .priv } ∧ s.Traps (.eret pm) { code := .priv } ∧
        let l := s.lval.toNat
        let dst := coreKey (l / 2 ^ 19) (l / 16 % 2 ^ 15)
        (2 ^ 27 ≤ l ∨ l % 16 ≠ 0 ∨ 26112 ≤ l / 16 % 2 ^ 15 → s.Traps (.mig pm) { code := .lbound, va := l }) ∧
        (l < 2 ^ 27 → l % 16 = 0 → l / 16 % 2 ^ 15 < 26112 →
          (s.ccore.ownsTile s.cur.ctx = true → s.Traps (.mig pm) { code := .mref, sub := 2 }) ∧
          (s.ccore.ownsTile s.cur.ctx = false → s.ccore.enrolledOutside s.cur.core s.cur.ctx dst = true →
            s.Traps (.mig pm) { code := .mref, sub := 5 }))) ∧
      (s.cur.ctx = 0 → (s.ccore.head.routine = none → s.Traps (.dret pm) { code := .priv }) ∧
        (s.ccore.head.handler = false → s.Traps (.eret pm) { code := .priv }) ∧
        (s.ccore.head.routine.isSome → s.strict s.cur.core 0 = true → s.Traps (.dret pm) { code := .escape })))

/-! ### Null -/

/-- R43, R46, R143: an instruction with a null scalar operand, or that its predicate turns off, sends null to its targets and does nothing else;
NULL and NULLH always do. That its predicate turns off as a whole an instruction which is not lane-wise, TINS among them, is the model's own reading
(log entry 18). Null lanes of a vector operand are the lanes' own matter. A null WR, RD and RDT are the registers' own statements. -/
def Obligations.NullOperandsFireNull : Prop :=
  ∀ (s : State) (i : Instr), i.nbits ≠ 0 → i.wf = true →
    ((match i with | .rd .. | .rdt .. | .wr .. => false | i => if laneWise i then s.nullScalar i else s.offScalar i.pmode) = true →
      s.FiresNull i) ∧
    ((match i with | .null .. | .nullh .. => true | _ => false) = true → s.FiresNull i)

/-! ### The vector unit -/

/-- R142, R143, R146 to R148: integer elements wrap; the smaller and the larger compare signed; the absolute value and negation of the most negative
element give the greatest and add to ex6. R150, R153, R154, R162: logic on all bits, shifts of each element by the whole of R, the generator MIX,
and the dot product of four bytes of each lane added to P. -/
def Obligations.VectorIntegerAndBitResults : Prop :=
  (
    ∀ (s : State) (pm : Pm) (f : Fmt) (t1 t0 : BitVec 8), f ∈ intFormats → s.offVector pm = false →
      let a (j : Nat) := lane s.lvec f.width j
      let b (j : Nat) := lane s.rvec f.width j
      let one (k : Nat) : Bool := s.laneIn pm k && s.lok k
      let both (k : Nat) : Bool := s.laneIn pm k && s.lok k && s.rok k
      let least := BitVec.intMin f.width
      let clamped := elementEvents f.width one (fun j => a j == least) 6
      s.Lanes (.vadd pm f t1 t0) [t0, t1] f.width both (fun j => a j + b j) ∧
      s.Lanes (.vsub pm f t1 t0) [t0, t1] f.width both (fun j => a j - b j) ∧
      s.Lanes (.vmul pm f t1 t0) [t0, t1] f.width both (fun j => a j * b j) ∧
      s.Lanes (.vmin pm f t1 t0) [t0, t1] f.width both (fun j => if (a j).sle (b j) then a j else b j) ∧
      s.Lanes (.vmax pm f t1 t0) [t0, t1] f.width both (fun j => if (b j).sle (a j) then a j else b j) ∧
      s.Lanes (.vabs pm f t1 t0) [t0, t1] f.width one (fun j => if a j = least then ~~~ least else if (a j).msb then - a j else a j) clamped ∧
      s.Lanes (.vneg pm f t1 t0) [t0, t1] f.width one (fun j => if a j = least then ~~~ least else - a j) clamped) ∧
  (
    ∀ (s : State) (pm : Pm) (f : Fmt) (k : BitVec 2) (t1 t0 : BitVec 8), f ∈ intFormats → s.offVector pm = false → k.toNat < 3 →
      let one (j : Nat) : Bool := s.laneIn pm j && s.lok j
      let both (j : Nat) : Bool := s.laneIn pm j && s.lok j && s.rok j
      let a (j : Nat) := lane s.lvec 32 j
      let b (j : Nat) := lane s.rvec 32 j
      let e (j : Nat) := lane s.lvec f.width j
      let c := s.rval.toNat
      let p (j i : Nat) : W32 :=
        let x := (a j).extractLsb' (8 * i) 8
        let y := (b j).extractLsb' (8 * i) 8
        (if k = 0 then x.signExtend 32 else x.setWidth 32) * (if k = 2 then y.setWidth 32 else y.signExtend 32)
      s.Lanes (.vand pm t1 t0) [t0, t1] 32 both (fun j => a j &&& b j) ∧ s.Lanes (.vor pm t1 t0) [t0, t1] 32 both (fun j => a j ||| b j) ∧
      s.Lanes (.vxor pm t1 t0) [t0, t1] 32 both (fun j => a j ^^^ b j) ∧
      s.Lanes (.vandn pm t1 t0) [t0, t1] 32 both (fun j => a j &&& ~~~ b j) ∧
      (s.slot.r.isNull = false → s.Lanes (.vshl pm f t1 t0) [t0, t1] f.width one (fun j => e j <<< c) ∧
        s.Lanes (.vshr pm f t1 t0) [t0, t1] f.width one (fun j => e j >>> c) ∧
        s.Lanes (.vsra pm f t1 t0) [t0, t1] f.width one (fun j => (e j).sshiftRight c) ∧
        s.Lanes (.vrng pm t1 t0) [t0, t1] 32 one (fun j => BitVec.ofNat 32 (mix (a j).toNat c))) ∧
      s.Lanes (.vdot4 k t1 t0) [t0, t1] 32 (fun j => s.lok j && s.rok j && s.pok j)
        (fun j => lane s.pvec 32 j + p j 0 + p j 1 + p j 2 + p j 3))

/-- R152, R155 to R158, R163: the instructions that move elements, and the ordered keys. -/
def Obligations.VectorMoveResults : Prop :=
  ∀ (s : State) (pm : Pm) (f : Fmt) (z d n : Bool) (t1 t0 : BitVec 8), f ∈ intFormats ++ floatFormats →
    let runs (i : Instr) (p : Prop) : Prop := s.nullScalar i = false → p
    let w := f.width
    let a (j : Nat) := lane s.lvec 32 j
    let r := s.rval.toNat
    let from_ (i : Nat) : Nat := (lane s.rvec 32 i).toNat % 32
    let at_ := r % (1024 / w)
    let put := s.pval.toNat % (1024 / w)
    let slid (i : Nat) : Option Nat :=
      let k : Int := if d then (i : Int) + r else (i : Int) - r
      if z then some (k % 32).toNat else if 0 ≤ k ∧ k ≤ 31 then some k.toNat else none
    runs (.vsel t1 t0)
      (s.Lanes (.vsel t1 t0) [t0, t1] 32 (fun i => s.lok i && s.rok i) (fun i => if s.pval.getLsbD i then a i else lane s.rvec 32 i)) ∧
    runs (.vbcast pm f t1 t0) (s.Lanes (.vbcast pm f t1 t0) [t0, t1] w (s.laneIn pm) (fun _ => s.lval.setWidth w)) ∧
    runs (.vextr pm f t1 t0) (if s.laneIn pm (w * at_ / 32) && s.lok (w * at_ / 32) then
      let e := lane s.lvec w at_
      s.Sends (.vextr pm f t1 t0) [t0, t1] (.scalar (if f.isInt then e.signExtend 64 else e.setWidth 64))
    else s.FiresNull (.vextr pm f t1 t0)) ∧
    runs (.vins f t1 t0) (s.Lanes (.vins f t1 t0) [t0, t1] w (fun i => s.lok i || (w == 32 && i == put))
      (fun j => if j = put then s.rval.setWidth w else lane s.lvec w j)) ∧
    runs (.vperm pm t1 t0)
      (s.Lanes (.vperm pm t1 t0) [t0, t1] 32 (fun i => s.laneIn pm i && s.rok i && s.lok (from_ i)) (fun i => a (from_ i))) ∧
    runs (.vslide pm z d t1 t0) (s.Lanes (.vslide pm z d t1 t0) [t0, t1] 32
      (fun i => s.laneIn pm i && (match slid i with | some k => s.lok k | none => true))
      (fun i => match slid i with | some k => a k | none => 0)) ∧
    runs (.vfkey pm n t1 t0) (s.Lanes (.vfkey pm n t1 t0) [t0, t1] 32 (fun i => s.laneIn pm i && s.lok i)
      (fun i => if 0x7F800000 < ((a i) &&& 0x7FFFFFFF).toNat then (if n then 0xFFFFFFFF else 0)
        else if a i = 0x80000000 then 0x80000000 else if (a i).msb then ~~~ (a i) else a i ^^^ 0x80000000))

/-- R142, R143, R146 to R149: the operations on floating-point elements, each the exact value rounded once to nearest, with the counters it feeds.
The model's own readings here: log entry 6. -/
def Obligations.VectorFloatResults : Prop :=
  ∀ (s : State) (pm : Pm) (f : Fmt) (t1 t0 : BitVec 8), f ∈ floatFormats → s.offVector pm = false →
    let a (j : Nat) : Nat := (lane s.lvec f.width j).toNat
    let b (j : Nat) : Nat := (lane s.rvec f.width j).toNat
    let x (j : Nat) := unpack f (a j)
    let y (j : Nat) := unpack f (b j)
    let p (j : Nat) := unpack f (lane s.pvec f.width j).toNat
    let one (k : Nat) : Bool := s.laneIn pm k && s.lok k
    let both (k : Nat) : Bool := s.laneIn pm k && s.lok k && s.rok k
    let all (k : Nat) : Bool := s.lok k && s.rok k && s.pok k
    let rounds (i : Instr) (valid : Nat → Bool) (e : Nat → Exact × List Nat) : Prop :=
      s.Elems i [t0, t1] f.width valid fun j => finish f 0 (e j)
    rounds (.vadd pm f t1 t0) both (fun j => addExact (x j) (y j)) ∧ rounds (.vsub pm f t1 t0) both (fun j => addExact (x j) (y j).flip) ∧
    rounds (.vmul pm f t1 t0) both (fun j => mulExact (x j) (y j)) ∧ rounds (.vdiv pm f t1 t0) both (fun j => divExact (x j) (y j)) ∧
    rounds (.vfma f t1 t0) all (fun j => fmaExact (x j) (y j) (p j)) ∧ rounds (.vfnma f t1 t0) all (fun j => fmaExact (x j).flip (y j) (p j)) ∧
    rounds (.vsqrt pm f t1 t0) one (fun j => sqrtExact (x j)) ∧ rounds (.vrcp pm f t1 t0) one (fun j => rcpExact (x j)) ∧
    rounds (.vrsq pm f t1 t0) one (fun j => rsqExact (x j)) ∧ rounds (.vexp2 pm f t1 t0) one (fun j => exp2Exact (x j)) ∧
    rounds (.vlog2 pm f t1 t0) one (fun j => log2Exact (x j)) ∧
    s.Elems (.vmin pm f t1 t0) [t0, t1] f.width both (fun j => minMaxF f false (a j) (b j)) ∧
    s.Elems (.vmax pm f t1 t0) [t0, t1] f.width both (fun j => minMaxF f true (a j) (b j)) ∧
    s.Elems (.vabs pm f t1 t0) [t0, t1] f.width one (fun j => deliverSame f (x j) (a j % f.signBit)) ∧
    s.Elems (.vneg pm f t1 t0) [t0, t1] f.width one (fun j => deliverSame f (x j) (a j ^^^ f.signBit))

/-- R124, R139, R146, R149: the special operands of the floating-point operations, what they deliver and count. R126, R146, R149: the exact sums,
products, quotients and roots of finite operands, which are rounded once. R125: rounding a magnitude of `k`
fraction bits to an integer: mode 0 to the nearest, ties to even; 1 toward zero; 2 up; 3 down; and whether it is inexact. The model's own readings
here: log entry 6. -/
def Obligations.FloatSpecialsAndRounding : Prop :=
  (
    ∀ (f : Fmt) (a b c : FVal) (m n : Bool) (k l : Nat) (e g : Int), f ∈ floatFormats →
      let invalidly := (cnan f, [0, 5])
      let nan (xs : List FVal) : Res := (cnan f, if xs.any FVal.isSig then [0, 5] else [5])
      let inf (neg : Bool) := f.signed neg f.infBits
      (a.isNan || b.isNan → finish f 0 (addExact a b) = nan [a, b] ∧ finish f 0 (mulExact a b) = nan [a, b] ∧
        finish f 0 (divExact a b) = nan [a, b] ∧ finish f 0 (fmaExact a b c) = nan [a, b, c]) ∧
      finish f 0 (addExact (.inf m) (.inf n)) = (if m = n then (inf m, []) else invalidly) ∧
      finish f 0 (addExact (.inf m) (.fin n k e)) = (inf m, []) ∧ finish f 0 (addExact (.fin n k e) (.inf m)) = (inf m, []) ∧
      finish f 0 (mulExact (.inf m) (.inf n)) = (inf (m != n), []) ∧
      finish f 0 (mulExact (.inf m) (.fin n k e)) = (if k = 0 then invalidly else (inf (m != n), [])) ∧
      finish f 0 (mulExact (.fin n k e) (.inf m)) = (if k = 0 then invalidly else (inf (n != m), [])) ∧
      finish f 0 (fmaExact (.inf m) (.fin n 0 e) c) = invalidly ∧ finish f 0 (fmaExact (.fin n 0 e) (.inf m) c) = invalidly ∧
      finish f 0 (divExact (.inf m) (.inf n)) = invalidly ∧ finish f 0 (divExact (.inf m) (.fin n k e)) = (inf (m != n), []) ∧
      finish f 0 (divExact (.fin m k e) (.inf n)) = (f.signed (m != n) 0, []) ∧
      finish f 0 (divExact (.fin m k e) (.fin n 0 g)) = (if k = 0 then invalidly else (inf (m != n), [1])) ∧
      finish f 0 (sqrtExact (.fin m 0 e)) = (f.signed m 0, []) ∧ finish f 0 (sqrtExact (.fin true (l + 1) e)) = invalidly ∧
      finish f 0 (sqrtExact (.inf m)) = (if m then invalidly else (inf false, [])) ∧
      finish f 0 (rcpExact (.fin m 0 e)) = (inf m, [1]) ∧ finish f 0 (rcpExact (.inf m)) = (f.signed m 0, []) ∧
      finish f 0 (rsqExact (.fin m 0 e)) = (inf m, [1]) ∧ finish f 0 (rsqExact (.fin true (l + 1) e)) = invalidly ∧
      finish f 0 (rsqExact (.inf m)) = (if m then invalidly else (0, [])) ∧
      finish f 0 (log2Exact (.fin m 0 e)) = (inf true, [1]) ∧ finish f 0 (log2Exact (.fin true (l + 1) e)) = invalidly ∧
      finish f 0 (log2Exact (.inf m)) = (if m then invalidly else (inf false, [])) ∧
      finish f 0 (exp2Exact (.inf m)) = (if m then 0 else inf false, []) ∧
      (a.isNan → [sqrtExact a, rcpExact a, rsqExact a, exp2Exact a, log2Exact a].all (fun r => finish f 0 r == nan [a]) = true)) ∧
  -- the exact values of finite operands: sums, products, and quotients and roots to 64 bits with what lies beyond
  (
    ∀ (n m o : Bool) (k l i : Nat) (e g h : Int),
      let x := FVal.fin n k e
      let y := FVal.fin m l g
      (∃ s u v, addExact x y = (.fin s u v false, []) ∧ ∀ lo, lo ≤ e → lo ≤ g → let sum := inUnits n k e lo + inUnits m l g lo
        lo ≤ v ∧ inUnits s u v lo = sum ∧ (sum = 0 → (s = true ↔ n = true ∧ m = true ∧ k = 0 ∧ l = 0))) ∧
      mulExact x y = (.fin (n != m) (k * l) (e + g) false, []) ∧
      fmaExact x y (.fin o i h) = addExact (.fin (n != m) (k * l) (e + g)) (.fin o i h) ∧
      (l ≠ 0 → ∃ q v st, divExact x y = (.fin (n != m) q v st, []) ∧ v = e - g - 64 ∧ q * l ≤ k * 2 ^ 64 ∧ k * 2 ^ 64 < (q + 1) * l ∧
        (st = true ↔ q * l ≠ k * 2 ^ 64)) ∧
      rcpExact x = divExact (.fin false 1 0) x ∧
      (k ≠ 0 → ∃ r v st, sqrtExact (.fin false k e) = (.fin false r v st, []) ∧ 128 ≤ e - 2 * v ∧ e - 2 * v ≤ 129 ∧
        let w := k * 2 ^ (e - 2 * v).toNat
        r * r ≤ w ∧ w < (r + 1) * (r + 1) ∧ (st = true ↔ r * r ≠ w)) ∧
      (k ≠ 0 → ∃ r v st, rsqExact (.fin false k e) = (.fin false r v st, []) ∧ 255 ≤ -(2 * v + e) ∧ -(2 * v + e) ≤ 256 ∧
        let w := 2 ^ (-(2 * v + e)).toNat
        r * r * k ≤ w ∧ w < (r + 1) * (r + 1) * k ∧ (st = true ↔ r * r * k ≠ w))) ∧
  (
    ∀ (neg : Bool) (mag k : Nat),
      let q (m : Nat) : Nat := (roundNat neg mag k false m).1
      let exact : Prop := mag % 2 ^ k = 0
      2 * q 0 * 2 ^ k ≤ 2 * mag + 2 ^ k ∧ 2 * mag ≤ 2 * q 0 * 2 ^ k + 2 ^ k ∧
      (2 * mag + 2 ^ k = 2 * q 0 * 2 ^ k ∨ 2 * mag = 2 * q 0 * 2 ^ k + 2 ^ k → q 0 % 2 = 0) ∧
      (q 1 * 2 ^ k ≤ mag ∧ mag < (q 1 + 1) * 2 ^ k) ∧
      (∀ m, m = 2 ∨ m = 3 → if neg = (m == 3) then mag ≤ q m * 2 ^ k ∧ q m * 2 ^ k < mag + 2 ^ k
        else q m * 2 ^ k ≤ mag ∧ mag < (q m + 1) * 2 ^ k) ∧
      ∀ m, (roundNat neg mag k false m).2 = true ↔ ¬ exact)

/-- R151, R159: VCMP sends the mask of the lanes all of whose elements meet the condition; integers compare signed; -0 equals +0, and with a NaN
only ne and uo hold. VRED of integers is the sum, the greatest, the least, the conjunction or the disjunction of the valid elements, each read as 64
bits; of floats it is the fixed tree in FP32; without a valid lane it is null. -/
def Obligations.VectorCompareAndReduce : Prop :=
  (∀ (s : State) (pm : Pm) (c : BitVec 3) (f : Fmt) (t1 t0 : BitVec 8), f ∈ intFormats ++ floatFormats → s.offVector pm = false →
      let w := f.width
      let valid (k : Nat) : Bool := s.laneIn pm k && s.lok k && s.rok k
      let a (j : Nat) := lane s.lvec w j
      let b (j : Nat) := lane s.rvec w j
      let x (j : Nat) := unpack f (a j).toNat
      let y (j : Nat) := unpack f (b j).toNat
      let un (j : Nat) : Bool := (x j).isNan || (y j).isNan
      let eq (j : Nat) : Bool := if f.isFloat then (x j).eqv (y j) else a j == b j
      let lt (j : Nat) : Bool := if f.isFloat then (x j).below (y j) && !eq j else (a j).slt (b j)
      let gt (j : Nat) : Bool := if f.isFloat then (y j).below (x j) && !eq j else (b j).slt (a j)
      let unordered (j : Nat) : Bool := f.isFloat && un j
      let holds (j : Nat) : Bool := match c.toNat with
        | 0 => !unordered j && eq j
        | 1 => unordered j || !eq j
        | 2 => !unordered j && lt j
        | 3 => !unordered j && (lt j || eq j)
        | 4 => !unordered j && gt j
        | 5 => !unordered j && (gt j || eq j)
        | 6 => unordered j
        | _ => !unordered j
      let counts (j : Nat) : Bool := f.isFloat && ((2 ≤ c.toNat && c.toNat ≤ 5 && un j) || (x j).isSig || (y j).isSig)
      ∃ v : W64, s.Does (.vcmp pm c f t1 t0) { out := sameTok [t0, t1] (.scalar v), ex := elementEvents w valid counts 0 } ∧
        v.toNat < 2 ^ 32 ∧ ∀ i, i < 32 → v.getLsbD i = (valid i && (List.range (32 / w)).all fun k => holds (32 / w * i + k))) ∧
  (∀ (s : State) (pm : Pm) (f : Fmt) (t1 t0 : BitVec 8), s.offVector pm = false →
      let w := f.width
      let n := 1024 / w
      let valid (k : Nat) : Bool := s.laneIn pm k && s.lok k
      let es : List W64 := ((List.range n).filter fun j => valid (w * j / 32)).map fun j => (lane s.lvec w j).signExtend 64
      let gives (o : BitVec 3) (y : W64) : Prop := s.Sends (.vred pm o f t1 t0) [t0, t1] (.scalar y)
      let least := (BitVec.intMin w).signExtend 64
      (f ∈ intFormats → (∃ k, k < 32 ∧ valid k = true) →
        gives 0 (es.foldl (· + ·) 0) ∧ gives 1 (es.foldl (fun a b => if a.sle b then b else a) least) ∧
        gives 2 (es.foldl (fun a b => if a.sle b then a else b) (~~~ least)) ∧ gives 3 (es.foldl (· &&& ·) (BitVec.allOnes 64)) ∧
        gives 4 (es.foldl (· ||| ·) 0)) ∧
      (f ∈ floatFormats → (∃ k, k < 32 ∧ valid k = true) → ∀ o : BitVec 3, o.toNat < 3 →
        let id : Nat := if o = 0 then 0x80000000 else if o = 1 then 0xFF800000 else 0x7F800000
        let xs := (List.range n).map fun j => if valid (w * j / 32) then widen32 f (lane s.lvec w j).toNat else id
        let r := tree (redOp o.toNat true) (if w = 32 then 5 else 6) xs
        s.Does (.vred pm o f t1 t0) { out := sameTok [t0, t1] (.scalar (BitVec.ofNat 64 r.1)), ex := r.2.map fun k => (k, 1) }) ∧
      (f ∈ intFormats ++ floatFormats → (∀ k, k < 32 → valid k = false) → ∀ o, s.FiresNull (.vred pm o f t1 t0)))

/-- R130, R131 to R134, R160, R161, R164, R165: conversions of formats, requantisation, and packing to and from block floating point. The model's
own readings here: log entry 55. -/
def Obligations.VectorConvertResults : Prop :=
  ∀ (s : State) (pm : Pm) (fd fs : Fmt) (x : Bool) (t1 t0 : BitVec 8),
    let runs (i : Instr) (p : Prop) : Prop := s.nullScalar i = false → p
    fd ∈ intFormats ++ floatFormats → fs ∈ intFormats ++ floatFormats → fd ≠ fs →
    let c := 1024 / max fs.width fd.width
    let per := 32 / fd.width
    runs (.vcvt pm fd fs t1 t0) (s.Elems (.vcvt pm fd fs t1 t0) [t0, t1] fd.width
      (fun k => s.laneIn pm k && (List.range per).all fun b => c ≤ k * per + b || s.lok (fs.width * (k * per + b) / 32))
      (fun j => if c ≤ j then (0, []) else
        convert fd fs (lane s.lvec fs.width j).toNat s.rval.toInt (s.cctx.fpm.toNat % 4))) ∧
    (let sh := s.rval.toNat
    let v (j : Nat) : Int :=
      let l := (lane s.lvec 32 j).toInt
      (if sh = 0 then l else (l + 2 ^ (sh - 1)) / 2 ^ sh) + s.pval.toInt
    let valid (k : Nat) : Bool := 8 ≤ k || (List.range 4).all fun b => s.lok (4 * k + b)
    runs (.vqshr t1 t0) (s.Lanes (.vqshr t1 t0) [t0, t1] 8 valid (fun j => if 32 ≤ j then 0 else BitVec.ofInt 8 (max (-128) (min 127 (v j))))
      (elementEvents 8 valid (fun j => j < 32 && (decide (v j < -128) || decide (127 < v j))) 6))) ∧
    (let w := if x then 4 else 8
    runs (.qbfx pm x t1 t0) (if (List.range 32).all (fun k => s.laneIn pm k && s.lok k) then
      let q := quantise x ((List.range 32).map fun j => unpack .f32 (lane s.lvec 32 j).toNat)
      ∃ v, s.Does (.qbfx pm x t1 t0)
          { out := [(t0, .vector v 0xFFFFFFFF), (t1, .scalar (BitVec.ofNat 64 (q.2.1 + 256 * q.2.2.1)))], ex := q.2.2.2 } ∧
        (∀ j, j < 32 → lane v w j = BitVec.ofNat w (q.1.getD j 0)) ∧ v.toNat < 2 ^ (32 * w)
    else s.FiresNull (.qbfx pm x t1 t0)) ∧
    runs (.dqbfx pm x t1 t0) (s.Elems (.dqbfx pm x t1 t0) [t0, t1] 32 (fun k => s.laneIn pm k && s.lok (w * k / 32))
      (fun j => dequantise x .f32 (lane s.lvec w j).toNat (s.rval.toNat % 256) (s.rval.toNat / 256 % 256))))

/-! ### Values that an instruction reads -/

/-- R31, R91 to R100, R268, R269, R308 to R310, R324, R325, R331, R332: what RCTL sends for each control number and RCNT for each number, with
LBOUND for one that names nothing; DIGR sends the newest ready sum of the launch's digest slot; in a STRICT launch the reads whose value depends on
order raise ESCAPE. R268, R269: POP sends the oldest word that the block has not taken, of a link queue in the communication context or of the
mailbox, and notes it as taken; elsewhere a link queue raises PRIV; QSTAT sends the occupancy of a queue. R364: the trailing context of a pair takes
the value of its slot from the queue that the leading one fills, and touches nothing else. The model's own readings here: log entries 9, 10, 15 (what
RCTL reads of a counter just written) and 78 (ESCAPE before the other checks of SEND and RCNT). -/
def Obligations.ReadsOfStateAndQueues : Prop :=
  (
    (∀ (s : State) (pm : Pm) (cn : BitVec 12) (t0 : BitVec 8), s.offScalar pm = false → s.trails = false →
        s.strict s.cur.core s.cur.ctx = false →
        let c := s.cur.core
        let x := s.cur.ctx
        let k := s.ccore
        let t := s.cctx
        let d := s.die (dieOf c)
        let n := cn.toNat
        let plain (v : W64) : Prop := s.Sends (.rctl pm cn t0) [t0] (.scalar v)
        -- a counter that WCTL, SCTL or CCTL has just written reads as before
        let counter (m : Nat) : Prop := s.Reads (.rctl pm cn t0) [t0] (BitVec.ofNat 64 (match k.unseen.get? m with
          | some e => e.2
          | none => k.counter m))
        (n = 0x000 → plain (BitVec.ofNat 64 (c / 32768 * 2 ^ 19 + c % 32768 * 16 + x))) ∧ (n = 0x001 → plain t.gtid) ∧
        (n = 0x002 → plain k.tvec) ∧ (n = 0x003 → plain (t.fpm.setWidth 64)) ∧ (n = 0x004 → plain k.tom) ∧
        (n = 0x005 → plain (k.hbi.setWidth 64)) ∧ (n = 0x006 → plain (k.arbseed.setWidth 64)) ∧
        (n = 0x007 → plain (BitVec.ofNat 64 s.now + (s.pkg (pkgOf c)).tbase)) ∧ (n = 0x008 → plain (t.cwb0.setWidth 64)) ∧
        (n = 0x009 → plain (t.cwl0.setWidth 64)) ∧ (n = 0x00A → plain (t.cwb1.setWidth 64)) ∧ (n = 0x00B → plain (t.cwl1.setWidth 64)) ∧
        (n = 0x00C → plain k.seinj) ∧ (∀ i, i < 4 → n = 0x010 + i → plain (k.lgm.get 0 i)) ∧
        (∀ i, i < 16 → n = 0x020 + i → plain ((k.tsh.get 0 i).setWidth 64)) ∧ (∀ i, i < 16 → n = 0x030 + i → counter n) ∧
        (∀ j, j < 4 → n = 0x040 + j → counter (0x100 + 4 * x + j)) ∧ (0x100 ≤ n → n ≤ 0x140 → counter n) ∧
        (0x150 ≤ n → n ≤ 0x160 → counter n) ∧ (n = 0x180 → plain (d.ebud.setWidth 64)) ∧
        (n = 0x181 → s.Reads (.rctl pm cn t0) [t0] ((BitVec.ofInt 32 d.erem).setWidth 64)) ∧
        (n = 0x182 → s.Reads (.rctl pm cn t0) [t0] (BitVec.ofNat 64 d.ewin))) ∧
    (∀ (s : State) (pm : Pm) (t0 : BitVec 8), s.offScalar pm = false → s.trails = false → s.strict s.cur.core s.cur.ctx = false →
        let c := s.cur.core
        let k := s.ccore
        let d := s.die (dieOf c)
        let n := s.lval.toNat
        let reads (v : W64) : Prop := s.Reads (.rcnt pm t0) [t0] v
        let named (m : Nat) : Bool := (0x030 ≤ m && m ≤ 0x03F) || (0x100 ≤ m && m ≤ 0x140) || (0x150 ≤ m && m ≤ 0x160)
        let own (j : Nat) : Nat := 0x100 + 4 * s.cur.ctx + j
        (n = 0x007 → reads (BitVec.ofNat 64 s.now + (s.pkg (pkgOf c)).tbase)) ∧ (named n → reads (BitVec.ofNat 64 (k.counter n))) ∧
        (∀ j, j < 4 → n = 0x040 + j → reads (BitVec.ofNat 64 (k.counter (own j)))) ∧ (n = 0x181 → reads (BitVec.ofInt 64 d.erem)) ∧
        (n = 0x182 → reads (BitVec.ofNat 64 d.ewin)) ∧
        (∀ m, named m → n = 0x8000 + m → reads (if k.overflowed m then 1 else 0)) ∧
        (∀ j, j < 4 → n = 0x8040 + j → reads (if k.overflowed (own j) then 1 else 0)) ∧
        (∀ b, barOk b = true → n = 0x10000 + b → reads (s.barStatus c b)) ∧
        (∀ b i, barOk b = true → i < 16 → n = 0x20000 + b * 16 + i → reads (BitVec.ofNat 64 ((s.bar (barKey c b)).kRec.getD i 0))) ∧
        (n < 0x030 → n ≠ 0x007 → s.Traps (.rcnt pm t0) { code := .lbound }) ∧
        (∀ b, barOk b = false → b < 0x10000 → n = 0x10000 + b → s.Traps (.rcnt pm t0) { code := .lbound }) ∧
        s.Reads (.digr pm t0) [t0] (BitVec.ofNat 64 (match s.runOf c s.cur.ctx with | some r => s.readyDigest (dieOf c) r.slot | none => 0))) ∧
    (∀ (s : State) (pm : Pm) (cn : BitVec 12) (fn : BitVec 6) (t1 t0 : BitVec 8), s.offScalar pm = false →
        s.strict s.cur.core s.cur.ctx = true →
        s.Traps (.qstat pm fn t0) { code := .escape } ∧ s.Traps (.rcnt pm t0) { code := .escape } ∧
        s.Traps (.digr pm t0) { code := .escape } ∧ s.Traps (.popMb pm t1 t0) { code := .escape } ∧
        s.Traps (.send pm) { code := .escape } ∧
        (cn.toNat = 0x007 ∨ (0x030 ≤ cn.toNat ∧ cn.toNat ≤ 0x043) ∨ (0x100 ≤ cn.toNat ∧ cn.toNat ≤ 0x160) ∨ cn.toNat = 0x181 ∨ cn.toNat = 0x182 →
          s.Traps (.rctl pm cn t0) { code := .escape }))) ∧
  (
    ∀ (s : State) (pm : Pm) (d : Dir) (fn : BitVec 6) (t1 t0 : BitVec 8), s.offScalar pm = false → s.trails = false →
      let k := s.ccore
      let takes (i : Instr) (q : Nat) (words : List W64) : Prop :=
        let n := s.cblk.taken.get 0 q
        ∀ w, words[n]? = some w →
          s.Does i { out := sameTok i.targets (.scalar w), taken := some (s.cblk.taken.put q (n + 1))
                     passed := if s.leads then [(s.cur.slot, .scalar w)] else [] }
      let link (q : Nat) : List W64 := (k.linkIn.get [] q).map (·.word)
      (s.cctx.blk.isSome → s.cur.ctx = 1 →
        takes (.pop pm d t1 t0) d.num (link d.num) ∧ takes (.popn pm t0) 0 (link 0) ∧ takes (.pope pm t0) 1 (link 1) ∧
        takes (.pops pm t0) 2 (link 2) ∧ takes (.popw pm t0) 3 (link 3)) ∧
      (s.cur.ctx ≠ 1 → ∀ i ∈ [.pop pm d t1 t0, .popn pm t0, .pope pm t0, .pops pm t0, .popw pm t0], s.Traps i { code := .priv }) ∧
      (s.strict s.cur.core s.cur.ctx = false →
        (s.cctx.blk.isSome → takes (.popMb pm t1 t0) 4 s.cctx.mbox) ∧
        let reads (v : Nat) : Prop := s.Reads (.qstat pm fn t0) [t0] (BitVec.ofNat 64 v)
        let f := fn.toNat
        (f < 4 → reads (k.linkIn.get [] f).length) ∧
        (4 ≤ f → f < 8 → reads ((k.linkOut.get [] (f - 4)).length + k.reserved.get 0 (f - 4))) ∧
        (f = 8 → reads s.cctx.mbox.length) ∧ (f = 9 → reads k.spawnq.length) ∧ (f = 10 → reads (k.arrq.length + s.receiving s.cur.core)))) ∧
  (
    ∀ (s : State) (i : Instr) (k : Tok), i.passesValue = true → s.trails = true →
      (if laneWise i then s.nullScalar i else s.offScalar i.pmode) = false →
      (∀ q, i.popQueue? = some q → q = 4) → s.strict s.cur.core s.cur.ctx = false →
      let lead := leader s.cur.ctx
      ((s.ctx s.cur.core lead).lvq.find? fun e => e.1 == s.cur.slot) = some (s.cur.slot, k) →
      ∃ u, Fires s u { out := sameTok i.targets k } ∧
        exec i s = .next (u.modCtx s.cur.core lead fun t => { t with lvq := t.lvq.erase (s.cur.slot, k) }))

/-! ### Effects at commit -/

/-- R90 to R92, R252, R309, R311, R328, R333, R351: WCTL, SCTL and CCTL record a write of a register that their context may write, and raise PRIV
for any other; the effects that every context may record, and the counters that only the head context may write. R91, R93, R94, R96: a committed
write of a register of the context, or of tvec, arbseed, lgm and tsh, gives it L, or the old value with the bits of L set or cleared, but for
reserved bits, from the rotation after the commit on, and changes no other of them. R91, R308: a committed write of a counter replaces its value in
this cycle, to which the cycle's events are added, and RCTL reads the value before until the rotation after. The model's own readings here: log
entry 15. -/
def Obligations.RecordedEffectsAndControlWrites : Prop :=
  (
    (∀ (s : State) (pm : Pm) (cn : BitVec 12), s.offScalar pm = false →
        let n := cn.toNat
        let x := if s.cctx.pair then leader s.cur.ctx else s.cur.ctx
        let owns (i : Nat) : Bool := x != 0 && s.ccore.tom.toNat / 16 ^ i % 16 == x
        let anyone : Bool := n == 3 || (8 ≤ n && n ≤ 11) || (0x010 ≤ n && n ≤ 0x013) || (0x030 ≤ n && n ≤ 0x03F)
        let head : Bool := n == 2 || (4 ≤ n && n ≤ 6) || n == 0x00C || (0x100 ≤ n && n ≤ 0x160) || n == 0x180
        let may : Bool := anyone || (head && s.cur.ctx == 0) || (0x020 ≤ n && n ≤ 0x02F && owns (n - 0x020))
        if may then
          s.Records (.wctl pm cn) (.ctl 1 n s.lval) ∧ s.Records (.sctl pm cn) (.ctl 2 n s.lval) ∧ s.Records (.cctl pm cn) (.ctl 3 n s.lval)
        else s.Traps (.wctl pm cn) { code := .priv } ∧ s.Traps (.sctl pm cn) { code := .priv } ∧ s.Traps (.cctl pm cn) { code := .priv }) ∧
    (∀ (s : State) (pm : Pm) (g : BitVec 6), s.offScalar pm = false →
        s.Records (.hbt pm) .hbt ∧ s.Records (.hbtH pm) .hbt ∧ s.Records (.trmk pm) (.trmk s.lval) ∧ s.Records (.retain pm) .retain ∧
        s.Records (.cpy pm g) (.copy false g.toNat) ∧ s.Records (.cpyw pm g) (.copy true g.toNat) ∧
        let n := s.lval.toNat
        let slot (m : Nat) : Prop := (0x100 ≤ m ∧ m ≤ 0x140) ∨ (0x150 ≤ m ∧ m ≤ 0x160)
        let flag : Prop := n = 0x007 ∨ (0x040 ≤ n ∧ n ≤ 0x043) ∨ n = 0x181 ∨ n = 0x182
        ((0x030 ≤ n ∧ n ≤ 0x03F) ∨ (0x8030 ≤ n ∧ n ≤ 0x803F) → s.Records (.wcnt pm) (.wcnt n s.rval)) ∧
        (slot n ∨ (0x8000 ≤ n ∧ slot (n - 0x8000)) →
          if s.cur.ctx = 0 then s.Records (.wcnt pm) (.wcnt n s.rval) else s.Traps (.wcnt pm) { code := .priv, va := n }) ∧
        (flag → s.Traps (.wcnt pm) { code := .priv, va := n }) ∧
        (n < 0x030 → n ≠ 0x007 → s.Traps (.wcnt pm) { code := .lbound, va := n }))) ∧
  (
    ∀ (s : State) (c x sub n : Nat) (l : W64), (s.core c).delayed = [] → (s.core c).unseen = [] →
     (n ∈ [0x002, 0x003, 0x006, 0x008, 0x009, 0x00A, 0x00B] ∨ (0x010 ≤ n ∧ n ≤ 0x013) ∨ (0x020 ≤ n ∧ n ≤ 0x02F) →
      let old := s.creg c x n
      let new := (if sub = 1 then l else if sub = 2 then old ||| l else old &&& ~~~ l) &&& ctlMask n
      let t := s.commitCtl c x sub n l s.now
      (∀ y m, t.creg c y m = s.creg c y m) ∧
      (∀ now, now < s.now + 16 → ({ t with now := now } : State).flushDelayed c = { t with now := now }) ∧
      let u := ({ t with now := s.now + 16 } : State).flushDelayed c
      u.creg c x n = new ∧ (u.core c).delayed = [] ∧
      (∀ m, m ≠ n → m ∉ [0x007, 0x182] → u.creg c x m = s.creg c x m) ∧
      (n = 3 ∨ (8 ≤ n ∧ n ≤ 11) → ∀ y m, y ≠ x → m ∉ [0x007, 0x182] → u.creg c y m = s.creg c y m)) ∧
     ((0x030 ≤ n ∧ n ≤ 0x03F) ∨ (0x100 ≤ n ∧ n ≤ 0x13F) → (s.core c).cwrites = [] →
      let k := s.core c
      let old := BitVec.ofNat 64 (k.counter n)
      let new := (if sub = 1 then l else if sub = 2 then old ||| l else old &&& ~~~ l).toNat % (if n ≤ 0x03F then 2 ^ 32 else 2 ^ 48)
      let t := s.commitCtl c x sub n l s.now
      let seen (u : State) : W64 := u.creg c x n
      seen t = old ∧ { t with cores := s.cores } = s ∧ (∀ d, d ≠ c → t.core d = s.core d) ∧
      -- the end of the cycle
      let u := t.modCore c Core.closeCounters
      (u.core c).counter n = min (if n ≤ 0x03F then 2 ^ 32 - 1 else 2 ^ 48 - 1) (new + k.incs.get 0 n) ∧
      seen u = BitVec.ofNat 64 (min (if n ≤ 0x03F then 2 ^ 32 - 1 else 2 ^ 48 - 1) (k.counter n + k.incs.get 0 n)) ∧
      seen (({ u with now := s.now + 16 } : State).flushDelayed c) = BitVec.ofNat 64 ((u.core c).counter n)))

/-- R270, R271: STRM and MARK belong to the communication context, a MARK reserving an entry of each queue that its word names; SEND records its
word for a context that may receive one, and raises PROT for any other destination. R26, R314 to R317, R321, R325: the barrier instructions record
their effects where the identifier names an object and the context may use it, and raise LBOUND, PROT or BOVR otherwise. The model's own readings
here: log entry 10. -/
def Obligations.MessageAndBarrierInstructions : Prop :=
  (
    (∀ (s : State) (pm : Pm), s.offScalar pm = false →
        let l := s.lval.toNat
        (s.cur.ctx ≠ 1 → s.Traps (.strm pm) { code := .priv } ∧ s.Traps (.mark pm) { code := .priv }) ∧
        (s.cur.ctx = 1 →
          (if l < 64 then s.Records (.strm pm) (.strm l) else s.Traps (.strm pm) { code := .lbound }) ∧
          (if l / 16 % 4 = 3 then s.Traps (.mark pm) { code := .lbound }
          else s.Does (.mark pm) { eff := .mark s.lval, marks := (List.range 4).filter fun d => s.lval.getLsbD d }))) ∧
    (∀ (s : State) (pm : Pm), s.offScalar pm = false → s.strict s.cur.core s.cur.ctx = false →
        let l := s.lval.toNat
        (∀ pkg core x, pkg < 256 → core < 26112 → 0 < x → x < 16 → l = pkg * 2 ^ 19 + core * 16 + x →
          s.Records (.send pm) (.send
            { src := s.cur.core, sctx := s.cur.ctx, dst := pkg * 32768 + core, dctx := x, lid := s.cctx.gtid.toNat / 2 ^ 48, gtid := s.cctx.gtid
              word := s.rval, rblk := s.cctx.blkAddr, rslot := s.cur.slot })) ∧
        (2 ^ 27 ≤ l ∨ 26112 ≤ l / 16 % 2 ^ 15 ∨ l % 16 = 0 → s.Traps (.send pm) { code := .prot, va := l }))) ∧
  (
    ∀ (s : State) (pm : Pm), s.offScalar pm = false →
      let b := s.lval.toNat
      let n := s.rval.toNat
      let o := s.bar (barKey s.cur.core b)
      let x := if s.cctx.pair then leader s.cur.ctx else s.cur.ctx
      let entry := s.ccore.enrol.find? fun e => e.ctx == x && e.bar == b
      let mine : Bool := o.kInit && o.kLid == s.cctx.gtid.toNat / 2 ^ 48
      let arrived : Bool := (s.cblk.slots.take s.cur.slot).any fun q => match q.eff with | .arrive d _ => d == b | _ => false
      let all : List Instr := [.binit pm, .arv pm, .arvd pm, .bwt pm, .ecomb pm]
      if barOk b then
        (if n = 0 ∨ scopeContexts (b / 256) < n then s.Traps (.binit pm) { code := .lbound }
        else if o.kInit && o.kLid != s.cctx.gtid.toNat / 2 ^ 48 && ((s.pkg o.pkg).run? o.kLid).isSome && s.cur.ctx != 0 then
          s.Traps (.binit pm) { code := .prot }
        else s.Records (.binit pm) (.binit b n)) ∧
        (if mine && (match entry with | some e => !e.dropped | none => o.kE != 0) then
          s.Records (.arv pm) (.arrive b false) ∧ s.Records (.arvd pm) (.arrive b true)
        else s.Traps (.arv pm) { code := .bovr } ∧ s.Traps (.arvd pm) { code := .bovr }) ∧
        (if arrived || entry.isSome then s.Records (.bwt pm) (.bwt b) else s.Traps (.bwt pm) { code := .bovr }) ∧
        (if mine then s.Records (.ecomb pm) (.ecomb b) else s.Traps (.ecomb pm) { code := .bovr })
      else ∀ i ∈ all, s.Traps i { code := .lbound })

/-- R171, R172, R177, R178: a tile instruction whose tiles its context owns records its operation with L, R and the vector L; one whose tile it does
not own raises PRIV, which names the first such tile; the address of TLD and TST must lie in local memory, aligned. The model's own readings here:
log entry 17. -/
def Obligations.TileInstructions : Prop :=
  ∀ (s : State) (pm : Pm) (td ta tb reg : BitVec 4) (g : BitVec 6) (acc : BitVec 2), s.offScalar pm = false →
    let x := if s.cctx.pair then leader s.cur.ctx else s.cur.ctx
    let owned (t : BitVec 4) : Bool := x != 0 && s.ccore.tom.toNat / 16 ^ t.toNat % 16 == x
    let v := s.slot.l.tok.vec
    let records (i : Instr) (ts : List (BitVec 4)) (e : TileEntry) : Prop :=
      match ts.find? fun t => !owned t with
      | some t => s.Traps i { code := .priv, sub := t.toNat }
      | none => s.Records i (.tile { e with l := s.lval, r := s.rval, payload := v.1, mask := v.2 })
    let l := s.lval.toNat
    (l % 32 = 0 → l < 0x60000 →
      records (.tld pm td) [td] { op := .tld, td := td.toNat } ∧ records (.tst pm ta) [ta] { op := .tst, ta := ta.toNat }) ∧
    (owned td = true → (0x60000 ≤ l → s.Traps (.tld pm td) { code := .lbound, va := l } ∧ s.Traps (.tst pm td) { code := .lbound, va := l }) ∧
      (l < 0x60000 → l % 32 ≠ 0 → s.Traps (.tld pm td) { code := .align, va := l } ∧ s.Traps (.tst pm td) { code := .align, va := l })) ∧
    records (.tzero pm td) [td] { op := .tzero, td := td.toNat } ∧
    records (.tmma pm td ta tb acc) [td, ta, tb] { op := .tmma, td := td.toNat, ta := ta.toNat, tb := tb.toNat, acc := acc.toNat } ∧
    records (.tmmas pm td ta tb acc) [td, ta, tb] { op := .tmmas, td := td.toNat, ta := ta.toNat, tb := tb.toNat, acc := acc.toNat } ∧
    records (.tmmac pm td ta tb acc) [td, ta, tb] { op := .tmmac, td := td.toNat, ta := ta.toNat, tb := tb.toNat, acc := acc.toNat } ∧
    records (.tckv pm ta g) [ta] { op := .tckv, ta := ta.toNat, reg := g.toNat } ∧
    records (.tadd pm td ta tb) [td, ta, tb] { op := .tadd, td := td.toNat, ta := ta.toNat, tb := tb.toNat } ∧
    records (.tcvt pm td ta) [td, ta] { op := .tcvt, td := td.toNat, ta := ta.toNat } ∧
    records (.ttrn pm td ta) [td, ta] { op := .ttrn, td := td.toNat, ta := ta.toNat } ∧
    records (.trow pm ta reg) [ta] { op := .trow, ta := ta.toNat, reg := reg.toNat } ∧
    records (.tins pm td) [td] { op := .tins, td := td.toNat }

/-! ### Loads and stores -/

/-- R50, R192 to R199, R201 to R203, R236: a load of local memory takes the bytes as they stand in this cycle, with the stores of lower slots of its
block over them, directly or through a circular window, and its words enter the banks four cycles later. A load of the core's own PRIV page has its
result after 16 cycles if the store buffer holds all of it, else by a request to the home, as one of CODE or host memory, which follows the core's
earlier effects. The model's own readings here: log entries 12, 17 and 56. -/
def Obligations.Loads : Prop :=
  (∀ (s : State) (pm : Pm) (lsid : BitVec 5) (size : BitVec 2) (flag : Bool) (imm : BitVec 6) (t0 : BitVec 8), s.trails = false →
      let n := 2 ^ size.toNat
      let a := (s.lval.toNat + imm.toNat * n) % 2 ^ 64
      let loads (i : Instr) (as : List Nat) (bs : List Byte) (r : LoadRec) : Prop :=
        s.Does i { out := linksOnly [t0], loads := [{ r with slot := s.cur.slot, targets := [t0], fixed := some bs }], banks := [s.bankAccess as] }
      let direct := (List.range n).map (a + ·)
      let w := s.cctx.window (if flag then 1 else 0)
      let through := windowBytes w (signedOf a 64) n
      (s.offScalar pm = false → a % n = 0 →
        (a + n ≤ 0x60000 →
          loads (.ld pm lsid size flag imm t0) direct (direct.map s.localByte) { slot := 0, targets := [], sext := if flag then some (8 * n) else none }) ∧
        (w.2 ≠ 0 → w.1 + w.2 ≤ 0x60000 →
          loads (.ldw pm lsid size flag imm t0) through (through.map s.localByte) { slot := 0, targets := [] })) ∧
      (s.nullScalar (.vld pm lsid size flag imm t0) = false → size.toNat < 3 →
        let v := (s.lval.toNat + imm.toNat * 128) % 2 ^ 64
        let off := s.slot.r.tok.vec
        let m := s.laneMask pm &&& (if size = 2 then off.2 else 0xFFFFFFFF)
        let lanes := (List.range 32).filter fun k => m.getLsbD k
        let at_ (k : Nat) : Nat := laneAddr size.toNat v s.rval off.1 k
        let w0 := s.cctx.window 0
        let bytes (k : Nat) : List Nat := if flag then windowBytes w0 (signedOf (at_ k) 64) 4 else (List.range 4).map (at_ k + ·)
        lanes ≠ [] → (∀ k ∈ lanes, at_ k % 4 = 0) → (if flag then w0.2 ≠ 0 ∧ w0.1 + w0.2 ≤ 0x60000 else ∀ k ∈ lanes, at_ k + 4 ≤ 0x60000) →
        (size = 0 → flag = false → v < 0x100000) →
        loads (.vld pm lsid size flag imm t0) (lanes.flatMap bytes) (laneBytes (lanes.map fun k => (k, (bytes k).map s.localByte)))
          { slot := 0, targets := [], vec := true, mask := m }) ∧
      -- every lane excluded
      (s.nullScalar (.vld pm lsid size flag imm t0) = false → size.toNat < 3 →
        let m := s.laneMask pm &&& (if size = 2 then s.slot.r.tok.vec.2 else 0xFFFFFFFF)
        let w0 := s.cctx.window 0
        m = 0 → (if flag then w0.2 ≠ 0 ∧ w0.1 + w0.2 ≤ 0x60000 else size ≠ 0 ∨ (s.lval.toNat + imm.toNat * 128) % 2 ^ 64 < 0x100000) →
        let r : LoadRec := { slot := s.cur.slot, targets := [t0], vec := true, mask := 0, fixed := some (List.replicate 128 0) }
        s.LoadsNear (.vld pm lsid size flag imm t0) { out := linksOnly [t0], loads := [r] })) ∧
  -- a contiguous VLD of a global page: a read of each 32-byte group that holds a lane, unless the store buffer holds every byte
  (∀ (s : State) (pm : Pm) (lsid : BitVec 5) (imm : BitVec 6) (t0 : BitVec 8) (l : Leaf),
      let i : Instr := .vld pm lsid 0 false imm t0
      let v := (s.lval.toNat + imm.toNat * 128) % 2 ^ 64
      s.trails = false → s.nullScalar i = false → s.Maps v l → l.isAlias = false → v % 128 = 0 →
      (l.cls = .priv ∧ l.owner = s.cur.core) ∨ l.cls = .code → (∀ o ∈ s.cblk.loads, o.slot ≠ s.cur.slot) →
      let m := s.laneMask pm
      let groups := (List.range 4).filter fun k => (List.range 8).any fun j => m.getLsbD (8 * k + j)
      let near := groups = [] ∨ (l.cls = .priv ∧ ∀ k, k < 128 → m.getLsbD (k / 4) = true → (s.ccore.psbByte (l.pa v + k)).isSome = true)
      let bytes := (List.range 128).map fun k => s.globalByte (l.pa v + k)
      let r (parts : Nat) : LoadRec := { slot := s.cur.slot, targets := [t0], vec := true, mask := m, fixed := some bytes, parts := parts }
      let f (parts : Nat) : Firing := { out := linksOnly [t0], tlb := s.hit v l, loads := [r parts] }
      let ask (e : Nat × Nat) : Nat × Req := (homeOf (l.pa (v + 32 * e.1)), { s.asks l (v + 32 * e.1) with
        kind := .read, code := l.cls == .code, n := 32, ret := .load s.cctx.serial s.cur.slot (e.2 + 1), part := e.2 + 1 })
      (near → s.LoadsNear i (f 1)) ∧ (¬ near → s.RequestsAll i (f groups.length) ((groups.zip (List.range groups.length)).map ask))) ∧
  (∀ (s : State) (pm : Pm) (lsid : BitVec 5) (size : BitVec 2) (flag : Bool) (imm : BitVec 6) (t0 : BitVec 8) (l : Leaf),
      s.trails = false → s.offScalar pm = false →
      let n := 2 ^ size.toNat
      let a := (s.lval.toNat + imm.toNat * n) % 2 ^ 64
      let i : Instr := .ld pm lsid size flag imm t0
      let r : LoadRec := { slot := s.cur.slot, targets := [t0], sext := if flag then some (8 * n) else none }
      let f : Firing := { out := linksOnly [t0], tlb := s.hit a l }
      let now := (List.range n).map fun k => s.globalByte (l.pa a + k)
      let buffered : Bool := (List.range n).all fun k => (s.ccore.psbByte (l.pa a + k)).isSome
      let q : Req := { s.asks l a with kind := .read, n := n, ret := .load s.cctx.serial s.cur.slot 1, part := 1 }
      s.Maps a l → l.isAlias = false → a % n = 0 →
      (l.cls = .priv → l.owner = s.cur.core → (∀ o ∈ s.cblk.loads, o.slot ≠ s.cur.slot) →
        if buffered then
          ∃ u, Fires s u { f with loads := [{ r with fixed := some now }] } ∧
            exec i s = .next (u.sched (s.now + 16) (.loadResult s.cur.core s.cur.ctx s.cctx.serial s.cur.slot 0 [] none))
        else s.Requests i { f with loads := [{ r with fixed := some now }] } (homeOf (l.pa a)) q) ∧
      (l.cls = .code → s.Requests i { f with loads := [{ r with fixed := some now }] } (homeOf (l.pa a)) { q with code := true }) ∧
      (l.cls = .hostm → s.strict s.cur.core s.cur.ctx = false →
        let own := (List.range n).map fun k => s.hostOwn (l.pa a + k)
        let enters := match s.ccore.lastOut with
          | some u => max (s.now + 2) (u + 1)
          | none => s.now + 2
        s.RequestsAt enters i { f with host := true, loads := [{ r with own := own, fixed := some (s.readHost (l.pa a) n) }] } (2 ^ 24 + l.owner) q))

/-- R195, R196, R198, R201 to R203, R236: a store records the bytes that its commit writes and where: local memory, the core's own PRIV page, host
memory. The model's own readings here: log entries 17 and 56. -/
def Obligations.Stores : Prop :=
  ∀ (s : State) (pm : Pm) (lsid : BitVec 5) (size : BitVec 2) (imm : BitVec 6) (l : Leaf),
    let n := 2 ^ size.toNat
    let a := (s.lval.toNat + imm.toNat * n) % 2 ^ 64
    let bs := leBytes s.rval.toNat n
    let w0 := s.cctx.window 0
    (s.offScalar pm = false → a % n = 0 →
      (a + n ≤ 0x60000 → s.Records (.st pm lsid size false imm) (.localStore (((List.range n).map (a + ·)).zip bs))) ∧
      (w0.2 ≠ 0 → w0.1 + w0.2 ≤ 0x60000 →
        s.Records (.st pm lsid size true imm) (.localStore ((windowBytes w0 (signedOf a 64) n).zip bs))) ∧
      (s.Maps a l → l.isAlias = false → l.wr = true →
        let cells := ((List.range n).map (l.pa a + ·)).zip bs
        (l.cls = .priv → l.owner = s.cur.core →
          s.Does (.st pm lsid size false imm) { eff := .privStore cells, tlb := s.hit a l }) ∧
        (l.cls = .hostm → s.strict s.cur.core s.cur.ctx = false →
          s.Does (.st pm lsid size false imm) { eff := .hostStore l.owner cells, host := true, tlb := s.hit a l }))) ∧
    (size.toNat < 3 → ∀ flag, s.nullScalar (.vst pm lsid size flag imm) = false →
      let v := (s.lval.toNat + imm.toNat * 128) % 2 ^ 64
      let data := s.slot.r.tok.vec
      let off := s.slot.p.tok.vec
      let m := data.2 &&& (if size = 2 then off.2 else 0xFFFFFFFF) &&& (if size = 0 then s.laneMask pm else 0xFFFFFFFF)
      let lanes := (List.range 32).filter fun k => m.getLsbD k
      let word (k : Nat) : List Byte := leBytes (data.1.extractLsb' (32 * k) 32).toNat 4
      let at_ (k : Nat) : Nat := laneAddr size.toNat v s.pval off.1 k
      let bytes (k : Nat) : List Nat := if flag then windowBytes w0 (signedOf (at_ k) 64) 4 else (List.range 4).map (at_ k + ·)
      ((∀ k ∈ lanes, at_ k % 4 = 0) → (if flag then w0.2 ≠ 0 ∧ w0.1 + w0.2 ≤ 0x60000 else ∀ k ∈ lanes, at_ k + 4 ≤ 0x60000) →
        (size = 0 → flag = false → v < 0x100000) →
        s.Records (.vst pm lsid size flag imm) (.localStore (lanes.flatMap fun k => (bytes k).zip (word k)))) ∧
      (size = 0 → flag = false → s.Maps v l → l.isAlias = false → l.wr = true → v % 128 = 0 → l.cls = .priv → l.owner = s.cur.core →
        s.Does (.vst pm lsid size flag imm)
          { eff := .privStore (lanes.flatMap fun k => ((List.range 4).map fun j => l.pa v + 4 * k + j).zip (word k)), tlb := s.hit v l }))

/-- R192, R196, R202: where LD, LDW and ST trap: the guard range, an address above 48 bits, an access that is not aligned, one that runs over the
end of local memory, a window that cannot be used, and the classes of page that loads and stores may not reach. R197, R273, R274: a load or store of
another core's PRIV page ends its block without effect, and the thread, if it may leave, begins its departure to the page's owner, there to execute
the block again. R204, R240: an instruction whose page is not in the first-level buffer does not fire: it waits for its walk, and nothing else of
the machine changes but the walk's end, which is awaited, and the lines of the table that come from DRAM for it. The model's own readings here: log
entries 5, 17 and 64. -/
def Obligations.MemoryAccessExceptions : Prop :=
  (
    ∀ (s : State) (pm : Pm) (lsid : BitVec 5) (size : BitVec 2) (flag : Bool) (imm : BitVec 6) (t0 : BitVec 8) (l : Leaf),
      s.trails = false → s.offScalar pm = false →
      let n := 2 ^ size.toNat
      let a := (s.lval.toNat + imm.toNat * n) % 2 ^ 64
      let traps (k : FaultCode) : Prop :=
        s.Traps (.ld pm lsid size flag imm t0) { code := k, va := a } ∧ s.Traps (.st pm lsid size false imm) { code := k, va := a }
      let w := s.cctx.window (if flag then 1 else 0)
      (0x60000 < a + n → a < 0x100000 → traps .lbound) ∧ (2 ^ 48 ≤ a → traps .xlat) ∧ (a + n ≤ 0x60000 → a % n ≠ 0 → traps .align) ∧
      (w.2 = 0 ∨ 0x60000 < w.1 + w.2 → s.Traps (.ldw pm lsid size flag imm t0) { code := .lbound } ∧
        (flag = false → s.Traps (.st pm lsid size true imm) { code := .lbound })) ∧
      (w.2 ≠ 0 → w.1 + w.2 ≤ 0x60000 → a % n ≠ 0 → s.Traps (.ldw pm lsid size flag imm t0) { code := .align, va := a }) ∧
      (s.Maps a l →
        let after := s.touchTlb s.cur.core s.cctx.asid s.cctx.gen a
        let faults (i : Instr) (k : FaultCode) : Prop := exec i s = .next (after.takeFault s.cur.core s.cur.ctx { code := k, va := a } s.cur.slot)
        let ld : Instr := .ld pm lsid size flag imm t0
        let st : Instr := .st pm lsid size false imm
        (l.isAlias = true ∨ l.cls = .lat ∨ l.cls = .sched → faults ld .prot ∧ faults st .prot) ∧
        (l.isAlias = false → l.cls = .code ∨ (l.cls ∈ [.priv, .hostm] ∧ l.wr = false) → faults st .prot) ∧
        (l.isAlias = false → l.cls ∈ [.priv, .hostm] → a % n ≠ 0 → faults ld .align ∧ (l.wr = true → faults st .align)) ∧
        (l.isAlias = false → l.cls = .hostm → a % n = 0 → s.strict s.cur.core s.cur.ctx = true → faults ld .escape))) ∧
  (
    ∀ (s : State) (pm : Pm) (lsid : BitVec 5) (size : BitVec 2) (flag : Bool) (imm : BitVec 6) (t0 : BitVec 8) (l : Leaf) (b : Block),
      s.offScalar pm = false → s.cctx.pair = false → s.cctx.blk = some b →
      let n := 2 ^ size.toNat
      let a := (s.lval.toNat + imm.toNat * n) % 2 ^ 64
      let c := s.cur.core
      let x := s.cur.ctx
      s.Maps a l → l.isAlias = false → l.cls = .priv → l.owner ≠ c → a % n = 0 →
      x ≠ 0 → s.cctx.pend = none → b.hdr % 2 = 0 → b.highPrologue = false → s.ccore.ownsTile x = false → s.ccore.enrolledOutside c x l.owner = false →
      ∀ i : Instr, i = .ld pm lsid size flag imm t0 ∨ (i = .st pm lsid size false imm ∧ l.wr = true) →
        ∃ t, exec i s = .next t ∧
          (t.ctx c x).st = .departing ∧ (t.ctx c x).depart = some ⟨l.owner, b.addr, false, b.carried false, false, false, 0⟩ ∧
          (t.ctx c x).blk = none ∧ (t.ctx c x).g = s.cctx.g ∧ (t.ctx c x).p = s.cctx.p ∧ (t.ctx c x).v = s.cctx.v ∧
          (t.ctx c x).ox = s.cctx.ox ∧ (s.now, Event.continuationDepart c x) ∈ t.agenda ∧ t.mem = s.mem ∧ t.hostMem = s.hostMem ∧
          (t.core c).lmem = (s.core c).lmem) ∧
  (
    ∀ (s : State) (pm : Pm) (lsid : BitVec 5) (size : BitVec 2) (flag : Bool) (imm : BitVec 6) (g : BitVec 6) (t0 : BitVec 8) (b : Block),
      s.offScalar pm = false → s.trails = false → s.cctx.blk = some b →
      let a := (s.lval.toNat + imm.toNat * 2 ^ size.toNat) % 2 ^ 64
      ∀ i : Instr,
        ((i ∈ [.ld pm lsid size flag imm t0, .st pm lsid size false imm, .join pm lsid size flag imm, .xld pm lsid size imm t0] ∧ s.Misses a) ∨
          (i = .incw pm g ∧ s.Misses s.lval.toNat)) →
        ∃ t cycle, exec i s = .next t ∧
          t.cctx = { s.cctx with blk := some { b with slots := b.slots.modify s.cur.slot fun q => { q with walking := true } } } ∧
          s.now < cycle ∧
          (let walk : Event := .translationWalk s.cur.core s.cur.ctx s.cctx.serial s.cctx.asid s.cctx.gen
            (if i = .incw pm g then s.lval.toNat else a) (some s.cur.slot)
          (cycle, walk) ∈ t.agenda ∧ (∀ e ∈ s.agenda, e ∈ t.agenda) ∧
          ∀ e ∈ t.agenda, e ∈ s.agenda ∨ e = (cycle, walk) ∨ ∃ u h line, e = (u, .dramLineFill h line)) ∧
          (∀ h, { t.xtal h with lineWait := (s.xtal h).lineWait } = s.xtal h) ∧
          (∀ x, x ≠ s.cur.ctx → t.ccore.ctx x = s.ccore.ctx x) ∧ { t.ccore with ctxs := s.ccore.ctxs } = s.ccore ∧
          (∀ c, c ≠ s.cur.core → t.core c = s.core c) ∧
          { t with cores := s.cores, agenda := s.agenda, free := s.free, xtals := s.xtals } = s)

/-! ### The lattice -/

/-- R209 to R213, R240, R244 to R247, R249 to R251: a lattice instruction whose address lies on a page of the right class, type, width and alignment
records the requests that its commit releases, with the operand values as their locations take them; FREEZE and FRZQ of a range record each writable
LAT frame of it, once every page between is known. R248: an exact read sends a request for each aligned group that it reads, and its token waits for
them. The model's own readings here: log entries 23, 25, 56 (a vector read with every lane excluded) and 57. -/
def Obligations.LatticeInstructionsAndExactReads : Prop :=
  (
    (∀ (s : State) (pm : Pm) (lsid : BitVec 5) (size : BitVec 2) (flag : Bool) (imm : BitVec 6) (g : BitVec 6) (count : BitVec 8) (l : Leaf),
        l.isAlias = false →
        let at_ (n : Nat) : Nat := (s.lval.toNat + imm.toNat * n) % 2 ^ 64
        let n := 2 ^ size.toNat
        let bits := 8 * 2 ^ l.lat.width
        let fits (v : W64) : Bool := decide (v.toNat < 2 ^ bits) || (l.lat.sgn && v == (BitVec.ofNat bits v.toNat).signExtend 64)
        let data := s.slot.r.tok.vec
        let m := s.laneMask pm &&& data.2
        (l.cls = .lat → l.wr = true →
          (s.offScalar pm = false → s.Maps (at_ n) l → l.lat.ty ≠ .fill → l.lat.width = size.toNat → fits s.rval → at_ n % n = 0 →
            s.Does (.join pm lsid size flag imm)
              { eff := .reqs flag [{ s.asks l (at_ n) with val := s.rval.toNat % 2 ^ bits }], tlb := s.hit (at_ n) l }) ∧
          (s.nullScalar (.vjoin pm lsid size flag imm) = false → s.Maps (at_ 128) l → l.lat.ty ≠ .fill → l.lat.width = size.toNat → at_ 128 % 128 = 0 →
            let js := (List.range (128 / n)).filter fun j => m.getLsbD (8 * n * j / 32) && (n < 8 || m.getLsbD (2 * j + 1))
            s.Does (.vjoin pm lsid size flag imm)
              { eff := .reqs flag (js.map fun j => { s.asks l (at_ 128 + j * n) with val := (lane data.1 (8 * n) j).toNat })
                tlb := s.hit (at_ 128) l }) ∧
          (s.offScalar pm = false → s.Maps (at_ 8) l → l.lat.ty = .fill → at_ 8 % 8 = 0 →
            s.Does (.fillD pm lsid imm)
              { eff := .reqs false [{ s.asks l (at_ 8) with kind := .fill, bytes := (leBytes s.rval.toNat 8).map some }]
                tlb := s.hit (at_ 8) l }) ∧
          (s.nullScalar (.fillV pm lsid imm) = false → s.Maps (at_ 128) l → l.lat.ty = .fill → at_ 128 % 128 = 0 →
            let groups := (List.range 4).filter fun k => (List.range 8).any fun i => m.getLsbD (8 * k + i)
            let unit (k i : Nat) : Option Byte := if m.getLsbD (8 * k + i / 4) then some (lane data.1 8 (32 * k + i)) else none
            s.Does (.fillV pm lsid imm)
              { eff := .reqs false (groups.map fun k =>
                  { s.asks l (at_ 128 + 32 * k) with kind := .fill, bytes := (List.range 32).map (unit k) })
                tlb := s.hit (at_ 128) l })) ∧
        (s.offScalar pm = false → l.cls = .lat → count.toNat ≤ 4 →
          let a := s.lval.toNat
          let ms := (s.rval :: [s.cctx.oxReg 1, s.cctx.oxReg 2, s.cctx.oxReg 3].map Reg.val).take count.toNat
          let members := ms.map fun v => v.toNat % 2 ^ bits
          let admitted : Bool := match l.lat.ty with
            | .max | .min | .cnt => count == 1
            | .or => count == 1 && members.all (· != 0)
            | .once => members.Nodup
            | .fill => count == 0
            | .sum => false
          s.Maps a l → (∀ r, 1 ≤ r → r < count.toNat → (s.cctx.oxReg r).st = .full) → admitted → (∀ v ∈ ms, fits v) →
          a % (if l.lat.ty = .fill then 64 * 2 ^ l.lat.fsz else 2 ^ l.lat.width) = 0 →
          s.Does (.waitt pm g count)
            { eff := .wait { s.asks l a with kind := .wait, trig := if count = 0 then none else some members, dst := g.toNat }
              tlb := s.hit a l }) ∧
        (l.cls = .sched → l.wr = true → s.strict s.cur.core s.cur.ctx = false →
          let a := s.lval.toNat
          s.Maps a l → a % 8 = 0 →
          (s.offScalar .ternary = false →
            s.Does (.faddb g)
              { eff := .sched { s.asks l a with kind := .faddb, val := s.rval.toNat, bound := s.pval.toNat, dst := g.toNat }, tlb := s.hit a l }) ∧
          (s.offScalar pm = false →
            s.Does (.incw pm g) { eff := .sched { s.asks l a with kind := .incw, bound := s.rval.toNat, dst := g.toNat }, tlb := s.hit a l }))) ∧
    (∀ (s : State) (pm : Pm) (l h : Leaf), s.offScalar pm = false → s.lval.toNat % 65536 = 0 →
        let a := s.lval.toNat
        let f := s.rval.toNat
        let b := (a + (f - 1) * 65536) % 2 ^ 64
        (f = 0 → s.Does (.freeze pm) {} ∧ s.Does (.frzq pm) {}) ∧
        (256 < f → s.Traps (.freeze pm) { code := .lbound, va := a } ∧ s.Traps (.frzq pm) { code := .lbound, va := a }) ∧
        (0 < f → f ≤ 256 → s.Maps a l → l.isAlias = false → l.cls = .lat → l.wr = true →
          let s1 := s.touchTlb s.cur.core s.cctx.asid s.cctx.gen a
          s1.Maps b h → h.isAlias = false → h.cls = .lat → h.wr = true →
          let s2 := s1.touchTlb s.cur.core s.cctx.asid s.cctx.gen b
          let pages := (List.range f).map fun i => a + 65536 * i
          let known := pages.filterMap fun va => (s2.pageKnown va).map fun k => (va, k)
          let frames := freezeFrames known
          let tlb := some s2.ccore.tlb
          ((∀ va ∈ pages, (s2.pageKnown va).isSome) →
            s.Does (.freeze pm) { eff := .freeze (frames.map fun e => { s.asks e.1 e.2 with kind := .freeze }), tlb := tlb } ∧
            s.Does (.frzq pm) { eff := .frzq ((frames.map (·.2)).headD 0) (frames.map fun e => e.1.pa e.2), tlb := tlb }) ∧
          (∀ va, (pages.find? fun p => (s2.pageKnown p).isNone) = some va → s.Stands → ∀ i ∈ [.freeze pm, .frzq pm],
            s.Yields i fun t => t.slot = { s.slot with walking := true, probe := some va, probed := known } ∧
              ∃ u, (u, Event.translationWalk s.cur.core s.cur.ctx s.cctx.serial s.cctx.asid s.cctx.gen va (some s.cur.slot)) ∈ t.agenda)))) ∧
  (
    ∀ (s : State) (pm : Pm) (lsid : BitVec 5) (size : BitVec 2) (imm : BitVec 6) (t0 : BitVec 8) (l : Leaf), s.trails = false → l.isAlias = false →
      let n := 2 ^ size.toNat
      let a := (s.lval.toNat + imm.toNat * n) % 2 ^ 64
      let v := (s.lval.toNat + imm.toNat * 128) % 2 ^ 64
      let readable : Prop := (l.cls = .lat ∧ (l.lat.ty = .fill ∨ l.lat.width = size.toNat)) ∨ l.cls = .code
      let r : LoadRec := { slot := s.cur.slot, targets := [t0] }
      (s.offScalar pm = false → s.Maps a l → readable → a % n = 0 →
        s.Requests (.xld pm lsid size imm t0)
          { out := linksOnly [t0], tlb := s.hit a l
            loads := [{ r with sext := if l.cls = .lat ∧ l.lat.sgn = true then some (8 * n) else none }] }
          (homeOf (l.pa a))
          { s.asks l a with kind := .exact, code := l.cls == .code, n := n, bytes := List.replicate n (some 0)
                            ret := .load s.cctx.serial s.cur.slot 1, part := 1 }) ∧
      (s.nullScalar (.vxld pm lsid size imm t0) = false → s.Maps v l → readable → v % 128 = 0 →
        let m := s.laneMask pm
        let groups := (List.range 4).filter fun k => (List.range 8).any fun j => m.getLsbD (8 * k + j)
        let ask (e : Nat × Nat) : Nat × Req := (homeOf (l.pa (v + 32 * e.1)), { s.asks l (v + 32 * e.1) with
          kind := .exact, code := l.cls == .code, n := 32
          bytes := (List.range 32).map fun i => if m.getLsbD (8 * e.1 + i / 4) then some 0 else none
          ret := .load s.cctx.serial s.cur.slot (e.2 + 1), part := e.2 + 1 })
        (groups ≠ [] → s.RequestsAll (.vxld pm lsid size imm t0)
          { out := linksOnly [t0], tlb := s.hit v l
            loads := [{ r with vec := true, mask := m, groups := groups.map (32 * ·), parts := groups.length }] }
          ((groups.zip (List.range groups.length)).map ask)) ∧
        (groups = [] → s.LoadsNear (.vxld pm lsid size imm t0)
          { out := linksOnly [t0], tlb := s.hit v l, loads := [{ r with vec := true, mask := m, fixed := some [] }] })))

/-! ### Tasks, delegation and the head context -/

/-- R282, R283, R345 to R350: FORK sends the ordinal word of its child and records the child's entry; MERGE on the thread's own core records the
wait for its children; EXIT of a child ends the block with the place of its value; DELEG and DCALL record a request to run the routine at R, with
the arguments in ox0 to ox3, on the core that owns the page of L, the own core for a local address. R76, R284: outside the head context, and in a
delegated routine, every instruction of class H raises PRIV. The model's own readings here: log entry 10. -/
def Obligations.TaskAndDelegationInstructions : Prop :=
  (∀ (s : State) (pm : Pm) (g : BitVec 6) (t0 : BitVec 8) (l : Leaf), s.offScalar pm = false → l.isAlias = false → l.cls = .priv →
      let t := s.cctx
      let w (r : Nat) : W64 := (t.oxReg r).val
      let base (r : Nat) : Nat := (w r).toNat % 2 ^ 48
      let ord (r : Nat) : Nat := (w r).toNat / 2 ^ 48
      let good (r : Nat) : Prop := (t.oxReg r).st = .full ∧ base r % 8 = 0 ∧ s.Maps (base r) l
      let inPage (r o : Nat) : Prop := (base r + 8 + 8 * o) / 65536 = base r / 65536
      (good 7 → s.cur.ctx ≠ 0 ∨ s.ccore.head.routine = none →
        let o := ord 7 + s.lowerForks
        let depth := t.gtid.toNat / 2 ^ 40 % 256
        o < 65536 → inPage 7 o → depth ≠ 255 → s.lval.toNat % 8 = 0 →
        let word := BitVec.ofNat 64 (o * 2 ^ 48 + base 7)
        let hash := t.gtid.toNat % 2 ^ 40
        let child := t.gtid.toNat / 2 ^ 48 * 2 ^ 48 + (depth + 1) * 2 ^ 40 + mix (hash / 2 ^ 8) o % 256 * 2 ^ 32 + mix hash o
        let sp : Spawn :=
          { gtid := BitVec.ofNat 64 child, entry := s.lval.toNat, arg := s.rval, ordw := word, asid := t.asid, gen := t.gen
            pair := (match s.runOf s.cur.core s.cur.ctx with | some r => r.rc.red | none => false), fromCore := s.cur.core, fromCtx := s.cur.ctx
            rblk := t.blkAddr, rslot := s.cur.slot }
        s.Does (.fork pm t0) { eff := .fork sp o, out := sameTok [t0] (.scalar word), tlb := s.hit (base 7) l }) ∧
      (good 7 → l.owner = s.cur.core →
        s.Does (.merge pm g) { eff := .merge g.toNat (ord 7) (l.pa (base 7)), tlb := s.hit (base 7) l }) ∧
      (good 6 → s.cur.ctx ≠ 0 → s.cur.ctx ≠ 1 → t.gtid.toNat / 2 ^ 40 % 256 ≠ 0 → inPage 6 (ord 6) → s.cblk.exit = none →
        s.Does (.exit pm)
          { exit := some { kind := .exit, value := s.lval, slotPa := l.pa (base 6) + 8 + 8 * ord 6, countPa := l.pa (base 6), owner := some l.owner }
            tlb := s.hit (base 6) l })) ∧
  (∀ (s : State) (pm : Pm) (g : BitVec 6) (l : Leaf), s.offScalar pm = false →
      let t := s.cctx
      let a := s.lval.toNat
      let b := s.rval.toNat
      let full : Prop := ∀ r, r < 4 → (t.oxReg r).st = .full
      let msg (dst : Nat) (call : Bool) (reg : Nat) : Eff := .deleg
        { call := call, src := s.cur.core, sctx := s.cur.ctx, dst := dst, reg := reg, routine := b, asid := t.asid, gen := t.gen, gtid := t.gtid
          addr := s.lval, args := [(t.oxReg 0).val, (t.oxReg 1).val, (t.oxReg 2).val, (t.oxReg 3).val], rblk := t.blkAddr, rslot := s.cur.slot }
      (full → b % 8 = 0 → s.strict s.cur.core s.cur.ctx = false →
        (a < 0x60000 → s.Records (.deleg pm) (msg s.cur.core false 0) ∧ s.Records (.dcall pm g) (msg s.cur.core true g.toNat)) ∧
        (s.Maps a l → l.isAlias = false → l.cls = .priv →
          s.Does (.deleg pm) { eff := msg l.owner false 0, tlb := s.hit a l } ∧
          s.Does (.dcall pm g) { eff := msg l.owner true g.toNat, tlb := s.hit a l })) ∧
      (full → b % 8 ≠ 0 → s.Traps (.deleg pm) { code := .align, va := b } ∧ s.Traps (.dcall pm g) { code := .align, va := b }) ∧
      (∀ r, r < 4 → (t.oxReg r).st = .invalid → (∀ q, q < r → (t.oxReg q).st = .full) →
        s.Traps (.deleg pm) { code := .vundef, sub := r, file := 3 } ∧ s.Traps (.dcall pm g) { code := .vundef, sub := r, file := 3 })) ∧
  (∀ (s : State) (pm : Pm), s.offScalar pm = false → s.cur.ctx ≠ 0 ∨ s.ccore.head.routine.isSome →
      ∀ i ∈ headInstructions pm, s.Traps i { code := .priv })

/-- R75, R76, R289 to R305, R352 to R357: every instruction of class H completes in the head context: START of a task and of the communication
thread, REAP of a dump and of a trap record, KILL, ACKF, TLBI, GENB, GSTOP, its resume and GSW, the eight TBLWs and ERET. Where the head context
runs no routine, none of its operands is null and L and R are in range, exec answers a next state in which the slot has fired and holds the effect
that its commit releases, and nothing else has changed: selectors of contexts, dumps to the core's own PRIV pages, invalidations and generations,
gang stops and switches, and of each table the index and data words, where its registers are FULL, its index names an entry of the table, and its
data are in range; ERET in a handler is its block's exit. -/
def Obligations.HeadInstructions : Prop :=
  (
    (∀ (s : State) (pm : Pm) (l : Leaf), s.offScalar pm = false → s.cur.ctx = 0 → s.ccore.head.routine = none →
        let v := s.lval.toNat
        let x := v % 16
        let r := s.rval.toNat
        (x ≠ 0 → v < 16 → s.Records (.start pm) (.start x false) ∧ s.Records (.kill pm) (.kill x) ∧ s.Records (.ackf pm) (.ackf x none)) ∧
        (v = 17 → s.Records (.startComm pm) (.start 1 true)) ∧
        (x ≠ 0 → v < 32 → s.Maps r l → l.isAlias = false → l.cls = .priv → l.owner = s.cur.core →
          (r % 1024 = 0 → s.Does (.reapDump pm) { eff := .reapDump x (l.pa r), tlb := s.hit r l }) ∧
          (r % 64 = 0 → s.Does (.reapTrap pm) { eff := .reapTrap (l.pa r), tlb := s.hit r l }) ∧
          (16 ≤ v → r % 1024 = 0 → s.Does (.ackf pm) { eff := .ackf x (some (l.pa r)), tlb := s.hit r l })) ∧
        (v / 2 ^ 62 ≠ 3 → v / 4096 % 2 ^ 50 = 0 → s.Records (.tlbi pm) (.tlbi (v / 2 ^ 62) (v % 4096) r)) ∧
        (v < 4096 → s.Records (.genb pm) (.genb v)) ∧
        (v = 0 → s.Records (.gstop pm) (.gstop false)) ∧ (v = 1 → s.Records (.gstopResume pm) (.gstop true)) ∧ s.Records (.gsw pm) .gsw) ∧
    (∀ (s : State) (pm : Pm) (idx : Nat), s.offScalar pm = false → s.cur.ctx = 0 → s.ccore.head.routine = none → idx < 2 ^ 52 →
        let t := s.cctx
        let v := s.lval.toNat
        let w (r : Nat) : Nat := (t.oxReg r).val.toNat
        let records (i : Instr) (code words : Nat) : Prop :=
          v = code * 2 ^ 56 + idx → (∀ r, r < words → (t.oxReg r).st = .full) →
            s.Records i (.tblw code idx ((List.range words).map fun r => (t.oxReg r).val))
        let home (pa : Nat) : Prop := pa / 2 ^ 43 % 2 = 0 ∧ pa / 2 ^ 16 % 2 ^ 27 < 37748736
        let setOk (k : Nat) : Prop :=
          let q := (w 0 + 2 ^ 64 * w 1) / 2 ^ (20 * k)
          let op := q / 2 ^ 12 % 16
          op = 0 ∨ (8 ≤ op ∧ op < 12) ∨ (op = 12 ∧ q / 2 ^ 16 % 4 = 3)
        (home idx → idx % 16 = 0 → w 1 / 2 ^ 23 = 0 → w 0 / 2 ^ 56 = 0 → w 0 / 2 ^ 17 % 2 = 0 → w 0 / 2 % 4 ≠ 3 → records (.tblwTranslation pm) 0 2) ∧
        (idx < 4096 → w 1 = 0 → w 0 / 2 ^ 52 = 0 → w 0 / 2 % 2 ^ 11 = 0 → records (.tblwAsidRoot pm) 1 2) ∧
        (idx < 64 → (∀ k, k < 4 → setOk k) → records (.tblwStreamEntry pm) 2 2) ∧
        (idx < 64 → w 0 / 4 % 256 ≤ w 0 / 2 ^ 18 % 256 → w 0 / 2 ^ 18 % 256 ≤ 191 → w 0 / 2 ^ 10 % 256 ≤ w 0 / 2 ^ 26 % 256 →
          w 0 / 2 ^ 26 % 256 ≤ 135 → records (.tblwContainment pm) 3 1) ∧
        (idx < 16 → w 1 % 2 ^ 32 ≠ 0 → w 2 % (if w 0 / 2 % 2 = 1 then 16 else 32) = 0 → w 3 % 2 = 0 → records (.tblwFormatWindow pm) 4 4) ∧
        (idx < 32 → w 0 / 2 ^ 16 % 8 = 0 → w 0 / 4 % 4 < 2 → records (.tblwBreakpoint pm) 5 2) ∧
        (idx < 1536 * 4096 → w 0 = 0 → records (.tblwCorrectionHistory pm) 6 1) ∧
        (home idx → idx % 65536 = 0 → w 0 / 2 ^ 11 = 0 →
          w 0 / 2 ^ 10 % 2 = 0 ∨ (latAttr? (w 0 % 8) (w 0 / 8 % 4) (w 0 / 32 % 2) (w 0 / 64 % 16)).isSome → records (.tblwFrameState pm) 7 1)) ∧
    (∀ (s : State) (pm : Pm), s.offScalar pm = false → s.cur.ctx = 0 → s.ccore.head.handler = true → s.cblk.exit = none →
        s.Exits (.eret pm) { kind := .eret }))

/-! ### Events of the device -/

/-- R16, R17, R262, R263, R369, R371, R374: a message between two places of one package is taken by its target two cycles after its last flit, one
flit a cycle, has travelled the path; a request reaches its home's port after the path alone. A message of class thread goes no further than the
boundary router of a fence around its target, and never passes one that its core sent to the same place before. A message that counts adds one to
what its core has sent. R386: one for another package goes to the port that the map names, or its sender is answered FENCED. The model's own readings here: log entries 51 and 60. -/
def Obligations.MessagesTravel : Prop :=
  (∀ (s : State) (e src : Nat) (m : NetMsg), pkgOf src ≠ pkgOf m.target →
    let p := pkgOf src
    let way := (s.pkg p).portmap.get 0 (pkgOf m.target)
    let n := way.toNat % 32
    let due := e + (m.flits - 1) + meshTime (routerOf src) (portRouter p n) + svcHop src
    let out : Event := .codeword p n { leg := .out, msgs := [(0, m)], src := (p, n), dst := (p, n) } true
    let answered (c : Nat) (i : Event) : Prop := s.send e src m = { s with agenda := agendaInsert (e + pathTime (routerOf src) c + 2) i s.agenda }
    (way.getLsbD 5 = true →
      (m.cls ≠ 2 → s.send e src m = { s with agenda := agendaInsert (due + 1 - m.flits) out s.agenda }) ∧
      (m.cls = 2 →
        let at_ := match (s.core src).tails.get? (2 ^ 24 + n) with
          | some last => max due (last + m.flits)
          | none => due
        let t := s.send e src m
        (t.core src).tails.get? (2 ^ 24 + n) = some at_ ∧ { t.core src with tails := (s.core src).tails } = s.core src ∧ OnCore s t src ∧
        s.Plans t [(at_ + 1 - m.flits, out)])) ∧
    (way.getLsbD 5 = false →
      (∀ x, m = .cont x → answered x.src (.continuationRefusal x.src x.sctx (some .fenced) 0)) ∧
      (∀ x, m = .send x → answered x.src (.sendRefusal x (some .fenced))) ∧
      (∀ x, m = .deleg x → answered x.src (.delegationRefusal x (some .fenced))) ∧
      (∀ x, m = .exitMsg x → answered x.src (.deferredFault (x.faultRec .fenced) .ctx 0 true)) ∧
      ∀ h r w, m = .req h r → r.who = [w] → answered w.core (.deferredFault (deferredRec w r .fenced) (r.retFor w) w.id true))) ∧
  ∀ (s : State) (e src : Nat) (m : NetMsg) (i : Event), pkgOf src = pkgOf m.target → m.event = some i →
    let way := if m.cls = 2 ∧ (s.core m.target).fenced then meshTime (routerOf src) (s.gate src m.target) + svcHop src else pathTime src m.target
    let due := match m with
      | .req _ _ => e + way
      | _ => e + (m.flits - 1) + way + 2
    let t := s.sendCounted e src m
    (m.cls ≠ 2 → s.send e src m = { s with agenda := agendaInsert due i s.agenda } ∧
      t.core src = { s.core src with sent := (s.core src).sent + 1 } ∧ OnCore s t src ∧ s.Plans t [(due, i)]) ∧
    (m.cls = 2 →
      let at_ := match (s.core src).tails.get? m.target with
        | some last => max due (last + m.flits)
        | none => due
      (t.core src).tails.get? m.target = some at_ ∧
      { t.core src with tails := (s.core src).tails } = { s.core src with sent := (s.core src).sent + 1 } ∧ OnCore s t src ∧ s.Plans t [(at_, i)])

/-- R33, R91, R95, R99, R100, R173, R329: the device registers whose writes take effect later: seinj and ebud are replaced, the tasks that the die's
cores hold back being looked at again, tom too, a tile whose owner it clears or changes becoming INVALID with its data kept, which spoils the
engine's operations that are to read it, and hbi, a timer at or beyond the new limit missing at once. R56, R312, R313: a starved block raises
BLKFMT; a block that is not starved goes on. At the end of its rotation each context of a core is charged to one class, rdh counts the contexts that
were ready, and what the rotation noted is cleared; in a gang stop nothing counts. The model's own readings here: log entries 15 and 31. -/
def Obligations.DelayedWritesAndRotationEnd : Prop :=
  (
    (∀ (s : State) (c : Nat) (v : W64), s.ev = .seinjWrite c v → s.Yields .seinjWrite fun t =>
      t.core c = { s.core c with seinj := v } ∧ OnCore s t c ∧ s.Plans t []) ∧
    (∀ (s : State) (d : Nat) (v : W32), s.ev = .ebudWrite d v → s.Yields .ebudWrite fun t =>
      t.die d = { s.die d with ebud := v } ∧ OnDie s t d ∧
      s.Plans t ((s.cores.filter fun e => dieOf e.1 == d && !e.2.spawnq.isEmpty).map fun e => (s.now, .taskAdmission e.1))) ∧
    (∀ (s : State) (c : Nat) (v : W64), s.ev = .tomWrite c v → s.Yields .tomWrite fun t =>
      let k := s.core c
      let loses (i : Nat) : Bool := k.tileOwner i != 0 && v.toNat / 16 ^ i % 16 != k.tileOwner i
      (t.core c).tom = v ∧ { t.core c with tom := k.tom, tiles := k.tiles, fifo := k.fifo } = k ∧
      (∀ i, i < 16 → let old := k.tiles.get {} i
        (t.core c).tiles.get {} i = if loses i then { old with st := .invalid } else old) ∧
      (t.core c).fifo = k.fifo.map (fun e => { e with badSrc := e.badSrc.or ((List.range 16).find? fun i => loses i && e.reads.contains i) }) ∧
      OnCore s t c ∧ s.Plans t []) ∧
    (∀ (s : State) (c : Nat) (v : W32), s.ev = .hbiWrite c v → s.Yields .hbiWrite fun t =>
      t.core c = { s.core c with hbi := v } ∧ OnCore s t c ∧
      let late := v ≠ 0 ∧ ∃ e ∈ (s.core c).ctxs, v.toNat * 256 ≤ e.2.hb
      (late → s.Plans t [(s.now, .heartbeatMiss c)]) ∧ (¬ late → s.Plans t []))) ∧
  (
    (∀ (s : State) (c x : Nat), s.ev = .blockStarved c x →
      exec .blockStarved s = .next (if s.starved c x then s.takeFault c x { code := .blkfmt } else s)) ∧
    (∀ s : State, s.ev = .rotationAccounting → s.cores.wf = true → s.Yields .rotationAccounting fun t =>
      (∀ e ∈ s.cores, s.slotNow e.1 ≠ 15 → t.core e.1 = s.core e.1) ∧
      (∀ e ∈ s.cores, s.slotNow e.1 = 15 → let c := e.1
        (∀ n, (t.core c).incs.get 0 n = (s.core c).incs.get 0 n + if s.stopped c && !s.switching c then 0 else
          (List.range 16).countP (fun x => slotCounter x (s.slotClass c x) == n) +
            if n = 0x150 + (List.range 16).countP fun x => (s.ctx c x).readyRot then 1 else 0) ∧
        { t.core c with ctxs := (s.core c).ctxs, incs := (s.core c).incs } = s.core c ∧
        ∀ x, t.ctx c x = { s.ctx c x with issued := 0, readyRot := false, memWait := false, msgWait := false, syncWait := false }) ∧
      (∀ d, d ∉ s.cores.map (·.1) → t.core d = s.core d) ∧ { t with cores := s.cores } = s))

/-- R37, R42, R55, R202, R204, R206, R304: the fetch of a context's next block. An address that a block cannot stand at, or a breakpoint, leaves in
the window a block that raises the fault in its first slot, and a breakpoint that stops the partition asks for the stop. A miss of the translation
begins its walk; a line that is missing is requested with the next of its page; a block that fails a check leaves one that raises the fault; one
that passes them all stands in the window. What the checks of the header and of the decoded instructions ask (R42, R92, R106, R172, R177, R346) is
said in full. The model's own readings here: log entries 11, 22, 32, 54, 72 and 75 (two calls in one block). -/
def Obligations.BlockFetch : Prop :=
  (∀ h : Nat, headerOk h = true ↔ h / 2 ^ 24 % 256 = 255 ∧ h / 16 % 16 = 0 ∧ (h / 8 % 2 = 1 ∨ h / 2 ^ 13 % 32 = 0) ∧ h / 2 ^ 8 % 32 ≤ 16) ∧
  (∀ (hdr x : Nat) (is : List Instr), is.length ≤ 64 →
    let flag (n : Nat) : Prop := hdr / 2 ^ n % 2 = 1
    let reads (i : Instr) : Prop := ∃ c r t u, i = .rd c r t u ∨ i = .rdt c r t u
    let written := is.filterMap fun i => match i with | .wr c r => some (c, r.toNat) | _ => none
    let produced := is.filterMap (·.dest?)
    let lsids := is.filterMap (·.lsid?)
    blockOk hdr x is = true ↔
      -- each target: a later slot's position that takes such a token, or a link queue in the communication context
      (∀ (k : Nat) (i : Instr), is[k]? = some i → (∀ (j : Nat) (t : BitVec 8), i.targets[j]? = some t → j < 2 → t ≠ 0 →
          let kind : Need := if i.targetVec j then .vec else .scal
          (t.toNat / 64 = 3 → t.toNat % 64 < 4 ∧ x = 1 ∧ i.targetVec j = false) ∧
          (t.toNat / 64 ≠ 3 → k < t.toNat % 64 ∧ ∃ o, is[t.toNat % 64]? = some o ∧ needAt o.needs (t.toNat / 64) = kind)) ∧
        ∀ t u, i.targets = [t, u] → t = 0 ∨ t ≠ u) ∧
      -- the read prologue, the producers of operands, the load and store numbers
      (∀ (k j : Nat) (i o : Instr), is[k]? = some i → is[j]? = some o → j < k → reads i → reads o) ∧
      (∀ (k : Nat) (i : Instr) (kind : Nat), is[k]? = some i → kind < 3 → needAt i.needs kind ≠ .none →
        ∃ o ∈ is, ∃ t ∈ o.targets, t ≠ 0 ∧ t.toNat = kind * 64 + k) ∧
      (if flag 3 then lsids = List.range (hdr / 2 ^ 13 % 32 + 1) else lsids = []) ∧
      -- the registers written, the vectors, the exit, the order, the windows, the calls, the tiles, the forks
      written.Nodup ∧ (∀ w ∈ written, w ∉ produced) ∧ (is.filter (·.vecOut)).length ≤ hdr / 2 ^ 8 % 32 ∧ (∃ i ∈ is, i.isExit = true) ∧
      (flag 2 ∨ ∀ i ∈ is, i.ordered = false) ∧
      (flag 1 ∨ ∀ pm cn, 0x010 ≤ cn.toNat ∧ cn.toNat ≤ 0x013 → Instr.wctl pm cn ∉ is ∧ Instr.sctl pm cn ∉ is ∧ Instr.cctl pm cn ∉ is) ∧
      ((RegFile.gr, 1) ∈ written ++ produced → ∀ i ∈ is, (∀ pm off, i ≠ .call pm off) ∧ ∀ pm, i ≠ .calli pm) ∧
      (is.filter (·.isTile)).length ≤ 8 ∧
      (is.filterMap fun i => match i with | .tckv .. | .trow .. => i.dest? | _ => none).Nodup ∧
      ((RegFile.ox, 7) ∈ written → ∀ i ∈ is, ∀ pm t, i ≠ .fork pm t)) ∧
  (∀ (s : State) (c x : Nat), s.ev = .blockFetch c x → ((s.ctx c x).fetch.all fun f => decide (s.now < f.begins)) = true →
    exec .blockFetch s = .next s) ∧
  ∀ (s : State) (c x : Nat) (f : Fetch), s.ev = .blockFetch c x → (s.ctx c x).fetch = some f → f.begins ≤ s.now →
    let u := s.ctx c x
    let a := f.addr
    let first := if f.waited then s.nextRot c else s.now
    let lines := (s.core c).bcache
    let fails (k : FaultCode) (va : Nat) (l : List (Nat × Event)) : Prop := s.Yields .blockFetch fun t =>
      t.ctx c x = { u with blk := some (badBlock a first { code := k, va := va }), fetch := none, serial := u.serial + 1, lvq := [] } ∧
      OnCtx s t c x ∧ s.Plans t l
    (∀ act, f.noBkpt = false → s.bkptMatch c x a = some act →
      (act ≠ 1 ∨ s.runOf c x = none → fails .bkpt 0 []) ∧
      ∀ r, act = 1 → s.runOf c x = some r → fails .bkpt 0 [(first, .gangStop (pkgOf c) r.rc.rect)]) ∧
    (f.noBkpt = true ∨ s.bkptMatch c x a = none →
      (a % 8 ≠ 0 → fails .align a []) ∧ (a % 8 = 0 → a < 0x60000 → fails .prot a []) ∧
      (a % 8 = 0 → 0x60000 ≤ a → a < 0x100000 → fails .lbound a []) ∧ (a % 8 = 0 → 2 ^ 48 ≤ a → fails .xlat a []) ∧
      ∀ l, a % 8 = 0 → 0x100000 ≤ a → a < 2 ^ 48 → s.leaf? c u.asid u.gen a = some l → l.cls ≠ .code ∨ l.isAlias = true → fails .prot a []) ∧
    (f.noBkpt = true ∨ s.bkptMatch c x a = none → a % 8 = 0 → 0x100000 ≤ a → a < 2 ^ 48 →
      (s.leaf? c u.asid u.gen a = none → ∃ v, v.ctx c x = { u with fetch := some { f with walking := true, waited := true } } ∧
        OnCtx s v c x ∧ v.agenda = s.agenda ∧ exec .blockFetch s = .next (v.startWalk c x u.serial u.asid u.gen a none)) ∧
      ∀ l, s.leaf? c u.asid u.gen a = some l → l.cls = .code → l.isAlias = false →
        -- the page's entry is the most recent, and beside that and the cache's order only the context differs
        let kept (t : State) : Prop := (t.core c).tlb = tlbPut (s.core c).tlb 64 ⟨u.asid, u.gen, vpageOf l.big a, l⟩ ∧
          { t.core c with ctxs := (s.core c).ctxs, tlb := (s.core c).tlb, bcache := lines } = s.core c ∧
          (∀ y, y ≠ x → t.ctx c y = s.ctx c y) ∧ OnCore s t c ∧ s.Plans t []
        let holds (t : State) (b : Block) : Prop := t.ctx c x = { u with blk := some b, fetch := none, serial := u.serial + 1, lvq := [] }
        let fails (k : FaultCode) : Prop := s.Yields .blockFetch fun t =>
          holds t (badBlock a first { code := k, va := 0 }) ∧ (t.core c).bcache = lines ∧ kept t
        let waits (b : Nat) : Prop :=
          (b ∈ f.lines → s.Yields .blockFetch fun t => t.ctx c x = u ∧ (t.core c).bcache = lines ∧ kept t) ∧
          (b ∉ f.lines → ∃ v ls, v.ctx c x = { u with fetch := some { f with walking := false, waited := true, lines := f.lines ++ ls } } ∧
            (∀ d ∈ ls, d ∉ f.lines ∧ ((cacheLine? lines u.asid u.gen d = none ∧ a / 64 * 64 ≤ d ∧ d < a / 64 * 64 + 320) ∨ d = b)) ∧
            -- a line of a block that padding makes longer than five lines is requested when the fetch comes to it
            (a / 64 * 64 + 320 ≤ b → b ∈ ls) ∧
            (v.core c).bcache = lines ∧ kept v ∧ exec .blockFetch s = .next (v.requestLines c x l (s.now + 2) ls))
        (lineBytes lines u.asid u.gen a 8 = none → waits (a / 64 * 64)) ∧
        ∀ h, lineBytes lines u.asid u.gen a 8 = some h → (headerOk (h % 2 ^ 32) = false → fails .blkfmt) ∧
          (headerOk (h % 2 ^ 32) = true →
            match parseBody lines u.asid u.gen a 16385 (a + 8) (h / 2 ^ 18 % 64 + 1) [] with
            | .wait b => waits b
            | .bad k => k = .illeg ∨ k = .blkfmt → fails k
            | .ok ks bytes =>
              let is := ks.filterMap Slot.instr?
              (blockOk (h % 2 ^ 32) x is = false → fails .blkfmt) ∧
              (blockOk (h % 2 ^ 32) x is = true → s.Yields .blockFetch fun t =>
                holds t ⟨a, bytes, h % 2 ^ 32, BitVec.ofNat 32 (h / 2 ^ 32), withFanIn is ks, first, none, [], [], [], none⟩ ∧
                (t.core c).bcache = cacheTouch lines u.asid u.gen a bytes ∧ kept t)))

/-- R57, R204 to R207, R249, R292, R369: a line that comes enters the cache and every fetch of its ASID that waits for it looks again; one that comes
to a fenced core is discarded. A walk that finds a leaf fills
both buffers, and what waited goes on; one that finds none raises XLAT, in the turn of its core where an instruction waited, but for a page inside a
freeze range and the checks of a copy command, which go on with what was found. -/
def Obligations.FillsAndWalks : Prop :=
  (∀ (s : State) (c va asid gen : Nat) (bs : List Byte), s.ev = .blockCacheFill c va asid gen bs → s.Yields .blockCacheFill fun t =>
    let k := s.core c
    let awaits (x : Nat) : Bool := decide (x < 16) && (s.ctx c x).asid == asid && (s.ctx c x).fetch.any fun f => f.lines.contains va
    (t.core c).received = k.received + 1 ∧ OnCore s t c ∧
    (k.fenced = true → { t.core c with received := k.received } = k ∧ s.Plans t []) ∧
    (k.fenced = false →
      (t.core c).bcache = cachePut k.bcache ⟨asid, gen, va, bs⟩ ∧
      { t.core c with ctxs := k.ctxs, received := k.received, bcache := k.bcache } = k ∧
      (∀ x, awaits x = true → t.ctx c x = { s.ctx c x with
        fetch := (s.ctx c x).fetch.map fun f => { f with lines := f.lines.filter (· != va) } }) ∧
      (∀ x, awaits x = false → t.ctx c x = s.ctx c x) ∧
      s.Plans t (((List.range 16).filter awaits).map fun x => (s.now, .blockFetch c x)))) ∧
  (∀ (s : State) (c x serial asid gen va : Nat) (slot : Option Nat) (l : Option Leaf),
    s.ev = .translationWalk c x serial asid gen va slot → x ≠ 16 →
    l = (tlbFind (s.die (dieOf c)).tlb asid gen va).or (s.walk (pkgOf c) asid va).2 →
    (∃ v : State,
      (match l with
        | none => v = s
        | some f =>
          let e : TlbEntry := ⟨asid, gen, vpageOf f.big va, f⟩
          v.core c = (if (s.core c).fenced then s.core c else { s.core c with tlb := tlbPut (s.core c).tlb 64 e }) ∧
          (∀ d, d ≠ c → v.core d = s.core d) ∧
          v.die (dieOf c) = { s.die (dieOf c) with tlb := tlbPut (s.die (dieOf c)).tlb 2048 e } ∧
          (∀ d, d ≠ dieOf c → v.die d = s.die d) ∧ { v with cores := s.cores, dies := s.dies } = s) ∧
      ((s.ctx c x).serial ≠ serial → exec .translationWalk s = .next v) ∧
      ((s.ctx c x).serial = serial → ∀ k, slot = some k → exec .translationWalk s = .next
        (if l.isSome ∨ s.probing c x k va then
          { v.modBlock c x fun b => { b with slots := b.slots.modify k fun q => q.answered va l } with replay := v.replay ++ [(c, x, serial, k)] }
        else v.doom c x k { code := .xlat, va := va })) ∧
      ((s.ctx c x).serial = serial → slot = none → s.Yields .translationWalk fun t =>
        if l.isSome then t = { v with agenda := agendaInsert s.now (.blockFetch c x) v.agenda }
        else OnCtx s t c x ∧ s.Plans t [] ∧ ∃ b, t.ctx c x = { s.ctx c x with blk := some b, fetch := none } ∧ b.addr = va ∧
          b.firstAt = s.nextRot c ∧ b.bad = some ({ code := .xlat, va := va }, 0)))) ∧
  (∀ (s : State) (c serial asid gen va : Nat) (slot : Option Nat), s.ev = .translationWalk c 16 serial asid gen va slot →
    let l := (tlbFind (s.die (dieOf c)).tlb asid gen va).or (s.walk (pkgOf c) asid va).2
    s.Yields .translationWalk fun t =>
      -- the walk of a run of the command `serial / 2`, or of its checks
      let run := serial % 2 = 1
      (t.core c).copying = (if run then (s.core c).copying.map (fun r =>
        if r.cmd.id = serial / 2 then { r with walking := false, noMap := if l.isSome then r.noMap else va :: r.noMap } else r)
        else (s.core c).copying) ∧
      (t.core c).copyq = (if run then (s.core c).copyq else (s.core c).copyq.map fun m =>
        if m.id = serial / 2 then { m with walking := false, pages := (va / 65536, l) :: m.pages } else m) ∧
      { t.core c with copying := (s.core c).copying, copyq := (s.core c).copyq, tlb := (s.core c).tlb } = s.core c ∧
      (l = none → (t.core c).tlb = (s.core c).tlb ∧ t.dies = s.dies) ∧ (∀ d, d ≠ c → t.core d = s.core d) ∧
      { t with cores := s.cores, dies := s.dies, agenda := s.agenda } = s ∧
      s.Plans t [(s.now, if run then .copyRun c else .copyCommandBegin c)])

/-- R50, R57, R194, R199, R218, R248, R380: a part of a load's bytes returns. The last part sends the token to the load's targets, present in this
cycle; a part that a fault answers ends the block in its core's turn, that of an exact read whose location cannot be read once every part is back. A
service core passes the bytes of a host read on. R82, R84, R231, R241, R250, R257, R381: a producer completes
its register, FULL with the value or INVALID, in both contexts of a pair. An acceptance lowers its context's count; what awaited it alone leaves the
core, unless its launch is being switched, and a thread that departs or exits is looked at again; a copy engine, a service core and the host count
theirs. The model's own readings here: log entries 16, 58 and 76. -/
def Obligations.ResponsesReachTheirContexts : Prop :=
  (
    (∀ (s : State) (c x serial slot part : Nat) (bs : List Byte) (err : Option Cause) (b : Block) (r : LoadRec),
      s.ev = .loadResult c x serial slot part bs err → isService c = false → x ≠ 16 → (s.ctx c x).blk = some b → (s.ctx c x).serial = serial →
      b.loads.find? (fun q => q.slot == slot) = some r →
      let u := s.ctx c x
      let errs := r.errs ++ (err.map fun k => (part, k)).toList
      let r' : LoadRec := { r with parts := r.parts - 1, got := r.got.put part bs, errs := errs }
      let waits : Bool := err.all (·.isExact)
      let got (t : State) : Prop := (t.core c).received = (s.core c).received + (if part = 0 then 0 else 1) ∧
        { t.core c with ctxs := (s.core c).ctxs, received := (s.core c).received, reserved := (s.core c).reserved } = s.core c ∧
        (∀ y, y ≠ x → t.ctx c y = s.ctx c y) ∧ OnCore s t c ∧ s.Plans t []
      let faults (k : Cause) : Prop := ∃ v, v.ctx c x = u ∧ got v ∧ exec .loadResult s = .next (v.doom c x slot k)
      (errs = [] → r.parts = 1 → s.Yields .loadResult fun t =>
        let k := r'.tok
        let f : Firing := { out := sameTok r.targets k }
        t.ctx c x = { u with
          lvq := if u.pair && x % 2 == 0 then u.lvq ++ [(slot, k)] else u.lvq
          blk := some { b with loads := b.loads.filter fun q => q.slot != slot
                               flights := b.flights ++ f.flights s.now
                               slots := b.slots.modify slot fun q => { q with push := f.pushes } } } ∧ got t) ∧
      (waits = true → 1 < r.parts → s.Yields .loadResult fun t =>
        t.ctx c x = { u with blk := some { b with loads := b.loads.map fun q => if q.slot = slot then r' else q } } ∧ got t) ∧
      (∀ k, err = some k → waits = false → faults k) ∧
      (∀ e ∈ errs, waits = true → r.parts = 1 → (∀ e' ∈ errs, e' = e ∨ e.1 < e'.1) → faults e.2)) ∧
    (∀ (s : State) (c x serial slot part : Nat) (bs : List Byte) (err : Option Cause),
      s.ev = .loadResult c x serial slot part bs err → isService c = true → s.Yields .loadResult fun t =>
        t.pkg (pkgOf c) = { s.pkg (pkgOf c) with out := (s.pkg (pkgOf c)).out ++ [.readData c serial bs] } ∧ OnPkg s t (pkgOf c) ∧ s.Plans t [])) ∧
  (
    (∀ (s : State) (c x : Nat) (f : RegFile) (r : Nat) (v : V1024) (ok : Bool) (id : Nat),
      s.ev = .producerCompletion c x f r v ok id → f = .gr ∨ f = .vr →
      let named (y : Nat) : Bool := (s.ctx c y).prods.any fun p => p.id == id
      let first := if (s.ctx c x).pair then leader x else x
      (named first = false → ((s.ctx c x).outs.any fun o => o.1 == id) = false → exec .producerCompletion s = .next s) ∧
      (named first = true → s.Yields .producerCompletion fun t =>
        (∀ y ∈ s.team c x,
          (ok = true → f = .gr → r ≠ 0 → (t.ctx c y).gReg r = ⟨.full, v.setWidth 64⟩) ∧
          (ok = true → f = .vr → (t.ctx c y).vReg r = ⟨.full, v⟩) ∧
          (ok = false → (f, r) ≠ (.gr, 0) → (t.ctx c y).regState f r = .invalid) ∧
          (∀ f' r', (f', r') ≠ (f, r) → (t.ctx c y).regState f' r' = (s.ctx c y).regState f' r' ∧
            (t.ctx c y).regTok f' r' = (s.ctx c y).regTok f' r') ∧
          (t.ctx c y).prods = (s.ctx c y).prods.filter (fun p => p.id != id) ∧ (t.ctx c y).st = (s.ctx c y).st ∧
          (t.ctx c y).blk = (s.ctx c y).blk) ∧
        (t.ctx c x).outs = (s.ctx c x).outs.filter (fun o => o.1 != id) ∧
        (∀ d y, d ≠ c ∨ y ∉ s.team c x → { t.ctx d y with delegs := (s.ctx d y).delegs } = s.ctx d y) ∧ t.mem = s.mem ∧ t.hostMem = s.hostMem)) ∧
    (∀ (s : State) (w : Who), s.ev = .acceptance w .ctx →
      let c := w.core
      let u := s.ctx c w.ctx
      s.Yields .acceptance fun t =>
        { t.ctx c w.ctx with delegs := u.delegs } = { u with outs := u.outs.filter fun o => o.1 != w.id } ∧
        (∀ d y, d ≠ c ∨ y ≠ w.ctx → { t.ctx d y with delegs := (s.ctx d y).delegs } = s.ctx d y) ∧ t.mem = s.mem ∧ t.hostMem = s.hostMem ∧
        (let answered := (s.core c).held.map fun h => { h with wait := h.wait.filter (· != w.id) }
        -- what is ready stays with a launch that is switched
        (t.core c).held = if s.away c then answered else answered.filter fun h => !h.wait.isEmpty) ∧
        (s.away c = false → ∀ h ∈ (s.core c).held, ∀ r, h.wait.all (· == w.id) = true → h.what = .req r → r.kind = .join ∨ r.kind = .fill →
          ∃ e, (e, .combineMerge (routerOf c) (homeOf r.pa) { r with held := true }) ∈ t.agenda ∧ (s.now ≤ h.notBefore → e = h.notBefore) ∧
            (h.notBefore < s.now → s.now ≤ e ∧ ∀ last, (s.core c).lastOut = some last → last < e)) ∧
        ((s.core c).held = [] → (t.ctx c w.ctx).delegs = u.delegs ∧ t.core c = { s.core c with received := (s.core c).received + 1, ctxs := (t.core c).ctxs } ∧ OnCore s t c ∧
          s.Plans t ((match u.depart with
              | some d => if d.sent || d.waiting then [] else [(s.now, .continuationDepart c (if u.pair then leader w.ctx else w.ctx))]
              | none => []) ++ if u.st = .exiting then [(s.now, .exitMessageDepart c w.ctx)] else []))) ∧
    (∀ (s : State) (w : Who) (k : Nat), s.ev = .acceptance w (.copyWrite k) → s.Yields .acceptance fun t =>
      let q := s.core w.core
      let begun : Bool := q.copying.any fun r => r.cmd.id == k
      t.core w.core = { q with
        received := q.received + 1
        copying := if begun then q.copying.map fun r => if r.cmd.id = k then { r with outw := r.outw - 1 } else r else q.copying
        copyEnded := if begun then q.copyEnded else
          q.copyEnded.filterMap fun e => if e.1.id ≠ k then some e else if e.2 ≤ 1 then none else some (e.1, e.2 - 1) } ∧
      OnCore s t w.core ∧ s.Plans t (if begun then [(s.now, .copyCommandComplete w.core)] else [])) ∧
    (∀ (s : State) (w : Who) (p : Nat), s.ev = .acceptance w (.service p) → s.Yields .acceptance fun t =>
      t.pkg p = { s.pkg p with runs := (s.pkg p).runs.map fun r =>
        if r.rc.lid = w.id ∧ r.st ≠ .ended then { r with frzOut := r.frzOut - 1 } else r } ∧ OnPkg s t p ∧ s.Plans t []) ∧
    (∀ (s : State) (w : Who) (off : Nat), s.ev = .acceptance w (.host off) →
      let p := pkgOf w.core
      (w.ctx = 0 → s.Yields .acceptance fun t =>
        s.Plans t [(s.now + 8, .acceptance { w with ctx := 1 } (.host off))] ∧ { t with agenda := s.agenda } = s) ∧
      (w.ctx ≠ 0 → s.Yields .acceptance fun t =>
        t.pkg p = { s.pkg p with out := (s.pkg p).out ++ [.writeDone w.core off] } ∧ OnPkg s t p ∧ s.Plans t [])))

/-- R84, R174, R198, R205, R242, R301: a deferred fault reaches its context: an ACTIVE one is to take it in its next slot, a latched one counts it,
one whose continuation has not left enters its latch, and the record of any other goes to the trap queue; the register of its producer becomes
INVALID. Uncorrectable data fences the smallest rectangle around the core; a fetch that waits for the line becomes a block that raises the fault.
The private store buffer releases its oldest entry, and an acknowledgement frees it. A fenced core discards what comes. The model's own readings here: log entries 26, 30, 45 and 62. -/
def Obligations.DeferredFaultsAndPrivateStores : Prop :=
  -- what comes to a fenced core is discarded
  (∀ (s : State) (r : TrapRec) (ret : Ret) (id : Nat) (message : Bool), s.ev = .deferredFault r ret id message → (s.core r.core).fenced = true →
    s.Yields .deferredFault fun t => OnCore s t r.core ∧ s.Plans t [] ∧
      t.core r.core = { s.core r.core with received := (s.core r.core).received + if message then 1 else 0 }) ∧
  (∀ (s : State) (r : TrapRec) (id : Nat), s.ev = .deferredFault r .ctx id true → r.cause ≠ .uecc → (s.core r.core).fenced = false →
    let c := r.core
    let x := r.ctx
    let u := s.ctx c x
    u.pair = false → (u.prods.any fun p => p.id == id) = false → (s.core c).held = [] →
    let named := r.gtid = 0 ∨ r.gtid = u.gtid
    let rec' : TrapRec := { r with dfr := true, tb := s.tbase (pkgOf c), gtid := u.gtid, pair := false }
    let outs := u.outs.filter fun o => o.1 != id
    (named → u.standing = .active → s.Yields .deferredFault fun t =>
      t.ctx c x = { u with outs := outs, pend := some (match u.pend with | some p => p.another | none => rec') } ∧
      (∀ y, y ≠ x → t.ctx c y = s.ctx c y) ∧ (t.core c).received = (s.core c).received + 1 ∧ OnCore s t c) ∧
    (named → u.standing = .latched → s.Yields .deferredFault fun t =>
      t.ctx c x = { u with outs := outs, latch := u.latch.map fun l => { l with trap := l.trap.another } } ∧
      -- the record that the trap queue has of this latch counts too
      (t.core c).trapq = (s.core c).trapq.map (fun q => if some q = u.latch.map (·.trap) then q.another else q) ∧
      (∀ y, y ≠ x → t.ctx c y = s.ctx c y) ∧ OnCore s t c) ∧
    (named → u.standing = .departing → ∀ d, u.depart = some d → d.sent = false → s.Yields .deferredFault fun t =>
      (t.ctx c x).st = .latched ∧ (t.ctx c x).depart = none ∧ (t.ctx c x).latch.map (·.trap) = some { rec' with blk := d.blk } ∧
      (∀ f q, (t.ctx c x).regState f q = u.regState f q ∧ (t.ctx c x).regTok f q = u.regTok f q) ∧
      (∀ y, y ≠ x → t.ctx c y = s.ctx c y) ∧ OnCore s t c) ∧
    ((¬ named ∨ (u.standing = .departing ∧ (u.depart.all fun d => d.sent) = true) ∨ u.standing = .vacant ∨ u.standing = .exiting) →
      s.Yields .deferredFault fun t =>
        (t.core c).trapWait = (s.core c).trapWait ++ [if named then rec' else { r with dfr := true, tb := s.tbase (pkgOf c) }] ∧
        t.ctx c x = { u with outs := outs } ∧ (∀ y, y ≠ x → t.ctx c y = s.ctx c y) ∧
        (s.now, .trapRecordQueued c x) ∈ t.agenda ∧ OnCore s t c)) ∧
  (∀ (s : State) (r : TrapRec) (id : Nat) (p : Producer), s.ev = .deferredFault r .ctx id true → r.cause ≠ .uecc → (s.core r.core).fenced = false →
    (s.ctx r.core r.ctx).pair = false → (s.ctx r.core r.ctx).prods.find? (fun p => p.id == id) = some p → p.file = .gr → p.reg ≠ 0 →
    s.Yields .deferredFault fun t => (t.ctx r.core r.ctx).gReg p.reg = {}) ∧
  (∀ (s : State) (r : TrapRec) (id : Nat), s.ev = .deferredFault r .ctx id true → r.cause = .uecc → (s.core r.core).fenced = false → s.Yields .deferredFault fun t =>
    t.core r.core = { s.core r.core with received := (s.core r.core).received + 1 } ∧ OnCore s t r.core ∧
    s.Plans t [(s.now, .fence (pkgOf r.core) (s.fenceRect r.core) .uecc)]) ∧
  -- a line's fault answers the fetch whose own request it was
  (∀ (s : State) (r : TrapRec) (id va : Nat), s.ev = .deferredFault r (.line va) id true → r.cause ≠ .uecc → (s.core r.core).fenced = false →
    s.Yields .deferredFault fun t =>
      (∀ x f, x < 16 → (s.ctx r.core x).fetch = some f → id ∈ f.reqs →
        (t.ctx r.core x).blk = some (badBlock f.addr (s.nextRot r.core) { code := r.cause, va := f.addr }) ∧ (t.ctx r.core x).fetch = none) ∧
      (∀ x, ((s.ctx r.core x).fetch.all fun f => decide (id ∉ f.reqs)) = true → t.ctx r.core x = s.ctx r.core x) ∧ OnCore s t r.core) ∧
  (∀ (s : State) (r : TrapRec) (id e : Nat), s.ev = .deferredFault r (.psb e) id true → r.cause ≠ .uecc → (s.core r.core).fenced = false →
    s.Yields .deferredFault fun t =>
    let k := s.core r.core
    t.core r.core = { k with received := k.received + 1, psb := k.psb.filter (fun q => q.id != e), trapWait := k.trapWait ++ [r] } ∧
    OnCore s t r.core ∧ s.Plans t (s.drainsOn r.core (k.psb.filter fun q => q.id != e) ++ [(s.now, .trapRecordQueued r.core r.ctx)])) ∧
  (∀ (s : State) (c : Nat), s.ev = .privStoreDrain c →
    let k := s.core c
    -- the buffer is the oldest 64 entries
    ((k.psb.take 64).all (·.draining) = true → exec .privStoreDrain s = .next s) ∧
    ∀ p, (k.psb.take 64).find? (fun e => !e.draining) = some p → ∃ v,
      v.core c = { k with psb := k.psb.map fun q => if q.id = p.id then { q with draining := true } else q } ∧ OnCore s v c ∧ v.agenda = s.agenda ∧
      let r : Req := { kind := .store, pa := p.pa, bytes := p.bytes, asid := p.asid, gen := p.gen, lid := p.lid, ret := .psb p.id
                       who := [⟨c, 0, p.id, 0, 0, 0, none⟩] }
      let w := v.sendCounted (s.now + 2) c (.req (homeOf p.pa) r)
      exec .privStoreDrain s = .next (if (k.psb.take 64).any fun q => !q.draining && q.id != p.id then w.wakeDrain c (s.now + 1) else w)) ∧
  (∀ (s : State) (c e : Nat), s.ev = .privStoreAck c e → s.Yields .privStoreAck fun t =>
    t.core c = { s.core c with received := (s.core c).received + 1, psb := (s.core c).psb.filter fun q => q.id != e } ∧
    OnCore s t c ∧ s.Plans t (s.drainsOn c ((s.core c).psb.filter fun q => q.id != e)))

/-- R242, R284, R356, R360, R362: a record enters the trap queue while it holds fewer than 16, those that wait first, then the latched contexts in
the order they latched. A head context between blocks enters the handler at tvec when a record is queued, else the oldest routine in delegated mode,
with ox0 to ox3 its arguments, else goes on with its own code. The model's own readings here: log entries 32 and 79 (the GTID of a routine). -/
def Obligations.TrapQueueAndHeadContext : Prop :=
  (∀ (s : State) (c x : Nat), s.ev = .trapRecordQueued c x →
    let k := s.core c
    let next : List (Nat × Event) := [(s.now, .trapRecordQueued c x), (s.now, .trapHandlerEntry c)]
    (16 ≤ k.trapq.length → exec .trapRecordQueued s = .next s) ∧
    (∀ r rest, k.trapq.length < 16 → k.trapWait = r :: rest → s.Yields .trapRecordQueued fun t =>
      t.core c = { k with trapWait := rest, trapq := k.trapq ++ [r] } ∧ OnCore s t c ∧ s.Plans t next) ∧
    (k.trapq.length < 16 → k.trapWait = [] → k.ctxs.wf = true →
      ((∀ y l, (k.ctx y).latch = some l → l.queued = true) → exec .trapRecordQueued s = .next s) ∧
      ∀ y l, (k.ctx y).latch = some l → l.queued = false →
        (∀ z m, z ≠ y → (k.ctx z).latch = some m → m.queued = true ∨ l.order < m.order) → s.Yields .trapRecordQueued fun t =>
          (t.core c).trapq = k.trapq ++ [l.trap] ∧ t.ctx c y = { k.ctx y with latch := some { l with queued := true } } ∧
          (∀ z, z ≠ y → t.ctx c z = s.ctx c z) ∧ { t.core c with ctxs := k.ctxs, trapq := k.trapq } = k ∧ OnCore s t c ∧ s.Plans t next)) ∧
  (∀ (s : State) (c : Nat) (i : Instr), (s.ev = .trapHandlerEntry c ∧ i = .trapHandlerEntry) ∨ (s.ev = .delegationBegin c ∧ i = .delegationBegin) →
    let k := s.core c
    let u := k.ctx 0
    let fetches (t : State) (a : Nat) : Prop :=
      (t.ctx c 0).st = .active ∧ (t.ctx c 0).blk = none ∧ (t.ctx c 0).fetch = some { addr := a, begins := s.nextRot c } ∧
      (∀ r, (t.ctx c 0).gReg r = u.gReg r ∧ (t.ctx c 0).pReg r = u.pReg r ∧ (t.ctx c 0).vReg r = u.vReg r) ∧
      (∀ y, y ≠ 0 → t.ctx c y = s.ctx c y) ∧ OnCore s t c ∧ s.Plans t [(s.nextRot c, .blockFetch c 0)]
    (s.headFree c = false ∨ s.stopped c = true → exec i s = .next s) ∧
    (s.headFree c = true → s.stopped c = false →
      let calls := k.tvec ≠ 0 ∧ k.trapq ≠ []
      (calls → s.Yields i fun t => fetches t k.tvec.toNat ∧ (∀ r, (t.ctx c 0).oxReg r = u.oxReg r) ∧
        { t.core c with ctxs := k.ctxs } = { k with head := { k.head with handler := true } } ∧
        (t.ctx c 0).gtid = u.gtid ∧ (t.ctx c 0).asid = u.asid ∧ (t.ctx c 0).gen = u.gen) ∧
      (¬ calls → ∀ m rest, k.delq = m :: rest → s.Yields i fun t => fetches t m.routine ∧
        (∀ r, (t.ctx c 0).oxReg r = if r < 4 then ⟨.full, m.args.getD r 0⟩ else u.oxReg r) ∧
        { t.core c with ctxs := k.ctxs } = { k with
          delq := rest
          head := { k.head with routine := some m, savedAsid := u.asid, savedGen := u.gen, savedGtid := u.gtid } } ∧
        (t.ctx c 0).gtid = m.gtid ∧ (t.ctx c 0).asid = m.asid ∧ (t.ctx c 0).gen = m.gen) ∧
      (¬ calls → k.delq = [] → (k.head.retBlk = none → exec i s = .next s) ∧
        ∀ a, k.head.retBlk = some a → s.Yields i fun t => fetches t a ∧ (∀ r, (t.ctx c 0).oxReg r = u.oxReg r) ∧
          { t.core c with ctxs := k.ctxs } = { k with head := { k.head with retBlk := none } } ∧
          (t.ctx c 0).gtid = u.gtid ∧ (t.ctx c 0).asid = u.asid ∧ (t.ctx c 0).gen = u.gen)))

/-- R33, R87, R261, R343, R345, R352, R369: a spawn entry enters the queue of 32 entries or is refused, and a refused one leaves again after 64
rotations; the boundary router of a fence answers FENCED. The oldest entry that fits the lowest context starts there when admission allows it: g3
its argument, g4 its ordinal word, every other register INVALID, its first block fetched in the next rotation. The model's own readings here: log
entries 29, 36 and 60. -/
def Obligations.SpawnsAndAdmission : Prop :=
  (∀ (s : State) (c : Nat) (sp : Spawn), s.ev = .spawnArrival c sp → ∃ v,
    v.core c = { s.core c with received := (s.core c).received + 1 } ∧ OnCore s v c ∧ v.agenda = s.agenda ∧
    exec .spawnArrival s = .next (
      if (s.core c).fenced then
        if isService sp.fromCore then v.logError (pkgOf c) c .fenced
        else (v.countSent c).send s.now (s.gate sp.fromCore c)
          (.fault { core := sp.fromCore, ctx := sp.fromCtx, dfr := true, cause := .fenced, rblk := sp.rblk, rslot := sp.rslot } .ctx 0)
      else if (s.core c).spawnq.length < 32 then
        { v with cores := v.cores.put c { v.core c with spawnq := (s.core c).spawnq ++ [sp] }
                 agenda := agendaInsert s.now (.taskAdmission c) s.agenda }
      else v.sendCounted (s.now + 2) c (.spawnRefused sp c))) ∧
  (∀ (s : State) (c : Nat) (sp : Spawn), s.ev = .spawnRefusal c sp → isService sp.fromCore = false → (s.core sp.fromCore).fenced = false → s.Yields .spawnRefusal fun t =>
    let u := s.ctx sp.fromCore sp.fromCtx
    t.ctx sp.fromCore sp.fromCtx = { u with spawns := (c, sp, true) :: u.spawns } ∧ (t.core sp.fromCore).received = (s.core sp.fromCore).received + 1 ∧
    (∀ y, y ≠ sp.fromCtx → t.ctx sp.fromCore y = s.ctx sp.fromCore y) ∧ OnCore s t sp.fromCore ∧
    s.Plans t [(s.now + 1024, .spawnResend c sp)]) ∧
  (∀ (s : State) (c : Nat) (sp : Spawn), s.ev = .spawnRefusal c sp → isService sp.fromCore = true → s.Yields .spawnRefusal fun t =>
    t.core c = { s.core c with received := (s.core c).received + 1 } ∧ OnCore s t c ∧ s.Plans t [(s.now + 1024, .spawnResend c sp)]) ∧
  (∀ (s : State) (c : Nat) (sp : Spawn), s.ev = .spawnResend c sp →
    let u := s.ctx sp.fromCore sp.fromCtx
    let again := { sp with gen := (s.pkg (pkgOf sp.fromCore)).genOf sp.asid }
    let mine (e : Nat × Spawn × Bool) : Bool := e.2.2 && e.2.1.gtid == sp.gtid
    (isService sp.fromCore = true → exec .spawnResend s = .next ((s.countSent c).send s.now sp.fromCore (.spawn c again))) ∧
    (isService sp.fromCore = false → u.spawns.any mine = false → exec .spawnResend s = .next s) ∧
    (isService sp.fromCore = false → u.spawns.any mine = true → ∃ v,
      v.ctx sp.fromCore sp.fromCtx = { u with spawns := u.spawns.eraseP mine } ∧
      (v.core sp.fromCore).lastOut = some (max (s.now + 2) (((s.core sp.fromCore).lastOut.map (· + 1)).getD 0)) ∧
      (∀ y, y ≠ sp.fromCtx → v.ctx sp.fromCore y = s.ctx sp.fromCore y) ∧ OnCore s v sp.fromCore ∧ v.agenda = s.agenda ∧
      exec .spawnResend s = .next ((v.sendCounted (((v.core sp.fromCore).lastOut).getD 0) sp.fromCore (.spawn c again)).freeSpawns
        sp.fromCore sp.fromCtx))) ∧
  (∀ (s : State) (c : Nat), s.ev = .taskAdmission c → s.stopped c = true ∨ (s.core c).fenced = true → exec .taskAdmission s = .next s) ∧
  (∀ (s : State) (c : Nat), s.ev = .taskAdmission c → s.stopped c = false → (s.core c).fenced = false → (s.core c).head.commReq = none →
    let k := s.core c
    let may (x : Nat) : Bool := k.spawnq.any (k.spawnFits x) && !k.contFits x
    let starts (t : State) (sp : Spawn) (y : Nat) : Prop :=
      let n := t.ctx c y
      n.st = .active ∧ n.gReg 3 = ⟨.full, sp.arg⟩ ∧ n.gReg 4 = ⟨.full, sp.ordw⟩ ∧ n.gtid = sp.gtid ∧ n.asid = sp.asid ∧ n.gen = sp.gen ∧
      n.pair = sp.pair ∧ n.mbox = [] ∧ n.blk = none ∧ n.fetch = some { addr := sp.entry, begins := s.nextRot c } ∧
      (∀ r, r ≠ 0 → (r ≠ 3 → r ≠ 4 → n.gReg r = {}) ∧ n.pReg r = {}) ∧ ∀ r, n.vReg r = {} ∧ n.oxReg r = {}
    ((∀ x, x < 16 → may x = false) → exec .taskAdmission s = .next s) ∧
    ∀ x sp, x < 16 → (∀ y, y < x → may y = false) → k.contFits x = false → k.spawnq.find? (k.spawnFits x) = some sp →
      (s.admits c = false → exec .taskAdmission s = .next s) ∧
      (s.admits c = true → s.Yields .taskAdmission fun t =>
        starts t sp x ∧ (sp.pair = true → starts t sp (x + 1)) ∧ (∀ y, y ≠ x → (sp.pair = true → y ≠ x + 1) → t.ctx c y = s.ctx c y) ∧
        (t.core c).spawnq = k.spawnq.erase sp ∧
        (∀ i, i < 16 → (t.core c).tileOwner i = k.tileOwner i ∨ (k.tileOwner i = 0 ∧ (t.core c).tileOwner i = x)) ∧
        { t.core c with ctxs := k.ctxs, spawnq := k.spawnq, tom := k.tom } = k ∧
        (∀ d, d ≠ c → t.core d = s.core d) ∧ { t with cores := s.cores, agenda := s.agenda, free := s.free } = s ∧
        s.Plans t ((if sp.pair then [x, x + 1] else [x]).map (fun y => (s.nextRot c, .blockFetch c y)) ++ [(s.now, .taskAdmission c)]))) ∧
  (∀ (s : State) (c : Nat) (q : Nat × Nat) (r : Run), s.ev = .taskAdmission c → s.stopped c = false → (s.core c).fenced = false →
    (s.core c).head.commReq = some q → (s.ctx c 1).st = .vacant → s.runOf c 0 = some r → r.rc.centry ≠ 0 → (s.core c).spawnq = [] →
    s.Yields .taskAdmission fun t =>
      let n := t.ctx c 1
      n.st = .active ∧ n.gReg 3 = ⟨.full, r.rc.args⟩ ∧ n.gReg 4 = ⟨.full, 0⟩ ∧
      n.gtid = BitVec.ofNat 64 (r.rc.lid * 2 ^ 48 + 255 * 2 ^ 40 + idxOf c) ∧ n.asid = r.asid ∧
      n.fetch = some { addr := r.rc.centry, begins := s.nextRot c } ∧ (∀ y, y ≠ 1 → t.ctx c y = s.ctx c y) ∧
      { t.core c with ctxs := (s.core c).ctxs } = { s.core c with head := { (s.core c).head with commReq := none } } ∧
      OnCore s t c ∧ s.Plans t [(s.nextRot c, .blockFetch c 1)])

/-- R242, R263, R271, R272, R278, R283, R285, R286: a SEND's word joins the mailbox of a thread of its launch, a delegation request its core's
queue, or is refused: FENCED, PROT, or for want of room or behind an earlier one of its context that was refused, and then tried again after 64
rotations, in the order of release, 16 refusals raising QFULL. A reply completes the register of its DCALL; a fault of a routine, or of a request,
reaches the requester as a deferred fault, with an INVALID register for DCALL. An answer for a fenced core is discarded (R369). The model's own readings here: log entries 36, 48, 60 and 61. -/
def Obligations.SendsAndDelegations : Prop :=
  (∀ (s : State) (m : SendMsg), s.ev = .sendArrival m → ∃ v,
    let u := s.ctx m.dst m.dctx
    v.core m.dst = { s.core m.dst with received := (s.core m.dst).received + 1 } ∧ OnCore s v m.dst ∧ v.agenda = s.agenda ∧
    let mark := (m.src, m.sctx, m.dctx, m.ord)
    let follows : Bool := (s.core m.dst).refused.any fun e => e.1 == m.src && e.2.1 == m.sctx && e.2.2.1 == m.dctx && decide (e.2.2.2 < m.ord)
    let no (k : Option FaultCode) : State := v.sendCounted (s.now + 2) m.dst (.sendRefused m k)
    ((s.core m.dst).fenced = true →
      exec .sendArrival s = .next ((v.countSent m.dst).send s.now (s.gate m.src m.dst) (.sendRefused m (some .fenced)))) ∧
    ((s.core m.dst).fenced = false → u.st = .vacant ∨ u.gtid.toNat / 2 ^ 48 ≠ m.lid → exec .sendArrival s = .next (no (some .prot))) ∧
    ((s.core m.dst).fenced = false → u.st ≠ .vacant → u.gtid.toNat / 2 ^ 48 = m.lid →
      (follows = true ∨ 8 ≤ u.mbox.length → exec .sendArrival s = .next ((no none).noteRefused m.dst mark true)) ∧
      (follows = false → u.mbox.length < 8 → s.Yields .sendArrival fun t =>
        t.ctx m.dst m.dctx = { u with mbox := u.mbox ++ [m.word] } ∧ (∀ y, y ≠ m.dctx → t.ctx m.dst y = s.ctx m.dst y) ∧
        { t.core m.dst with ctxs := (s.core m.dst).ctxs } = { v.core m.dst with refused := (s.core m.dst).refused.filter (· != mark) } ∧
        OnCore s t m.dst ∧ s.Plans t []))) ∧
  -- a fenced core takes no answer
  (∀ (s : State) (m : SendMsg) (d : DelegMsg) (sp : Spawn) (c : Nat) (k : Cause) (cause : Option FaultCode) (i : Instr) (src : Nat),
    (s.ev = .sendRefusal m cause ∧ i = .sendRefusal ∧ src = m.src) ∨ (s.ev = .delegationRefusal d cause ∧ i = .delegationRefusal ∧ src = d.src) ∨
      (s.ev = .routineFaultReply d k ∧ i = .routineFaultReply ∧ src = d.src ∧ d.call = false) ∨
      (s.ev = .spawnRefusal c sp ∧ i = .spawnRefusal ∧ src = sp.fromCore ∧ isService src = false) →
    (s.core src).fenced = true → s.Yields i fun t =>
      t.core src = { s.core src with received := (s.core src).received + 1 } ∧ OnCore s t src ∧ s.Plans t []) ∧
  (∀ (s : State) (m : SendMsg) (cause : Option FaultCode), s.ev = .sendRefusal m cause → (s.core m.src).fenced = false →
    let u := s.ctx m.src m.sctx
    (cause = none → m.tries < 15 → s.Yields .sendRefusal fun t =>
      let again := { m with tries := m.tries + 1 }
      t.ctx m.src m.sctx = { u with sends := insertOrd SendMsg.ord (again, true) u.sends } ∧ (∀ y, y ≠ m.sctx → t.ctx m.src y = s.ctx m.src y) ∧
      OnCore s t m.src ∧ s.Plans t [(s.now + 1024, .sendRetry again)]) ∧
    (∀ k, cause = some k ∨ (cause = none ∧ 15 ≤ m.tries ∧ k = .qfull) →
      u.pair = false → u.standing = .active → u.pend = none → u.gtid = m.gtid → (∀ e ∈ u.sends, e.1.dst ≠ m.dst) →
      s.Yields .sendRefusal fun t =>
        t.ctx m.src m.sctx = { u with pend := some { core := m.src, ctx := m.sctx, dfr := true, cause := k, gtid := m.gtid, rblk := m.rblk
                                                     rslot := m.rslot, tb := s.tbase (pkgOf m.src) } } ∧
        (∀ d y, d ≠ m.src ∨ y ≠ m.sctx → t.ctx d y = s.ctx d y) ∧
        (t.core m.dst).refused = (s.core m.dst).refused.filter (· != (m.src, m.sctx, m.dctx, m.ord)) ∧
        (∀ d, d ≠ m.src → { t.core d with refused := (s.core d).refused } = s.core d ∧ (d ≠ m.dst → t.core d = s.core d)) ∧
        { t with cores := s.cores, agenda := s.agenda } = s ∧ s.Plans t [])) ∧
  (∀ (s : State) (m : SendMsg), s.ev = .sendRetry m →
    let u := s.ctx m.src m.sctx
    let e := max (s.now + 2) (((s.core m.src).lastOut.map (· + 1)).getD 0)
    let first := u.sends.find? fun q => q.1.dst == m.dst && q.1.dctx == m.dctx
    (((m, true) ∉ u.sends) → exec .sendRetry s = .next s) ∧
    ((m, true) ∈ u.sends → first ≠ some (m, true) → s.Yields .sendRetry fun t =>
      t.ctx m.src m.sctx = { u with sends := u.sends.map fun q => if q = (m, true) then (m, false) else q } ∧ OnCtx s t m.src m.sctx ∧ s.Plans t []) ∧
    (first = some (m, true) → ∃ v, v.ctx m.src m.sctx = { u with sends := u.sends.erase (m, true) } ∧ (v.core m.src).lastOut = some e ∧
      (∀ y, y ≠ m.sctx → v.ctx m.src y = s.ctx m.src y) ∧ OnCore s v m.src ∧ v.agenda = s.agenda ∧
      exec .sendRetry s = .next ((v.sendCounted e m.src (.send m)).freeSends m))) ∧
  (∀ (s : State) (m : DelegMsg), s.ev = .delegationArrival m → ∃ v,
    v.core m.dst = { s.core m.dst with received := (s.core m.dst).received + 1 } ∧ OnCore s v m.dst ∧ v.agenda = s.agenda ∧
    let mark := (m.src, m.sctx, 16, m.ord)
    let follows : Bool := (s.core m.dst).refused.any fun e => e.1 == m.src && e.2.1 == m.sctx && e.2.2.1 == 16 && decide (e.2.2.2 < m.ord)
    let no (k : Option FaultCode) : State := v.sendCounted (s.now + 2) m.dst (.delegRefused m k)
    let known := ((s.pkg (pkgOf m.dst)).run? (m.gtid.toNat / 2 ^ 48)).isSome
    ((s.core m.dst).fenced = true →
      exec .delegationArrival s = .next ((v.countSent m.dst).send s.now (s.gate m.src m.dst) (.delegRefused m (some .fenced)))) ∧
    ((s.core m.dst).fenced = false → known = false → exec .delegationArrival s = .next (no (some .prot))) ∧
    ((s.core m.dst).fenced = false → known = true →
      (follows = true ∨ 16 ≤ (s.core m.dst).delq.length → exec .delegationArrival s = .next ((no none).noteRefused m.dst mark true)) ∧
      (follows = false → (s.core m.dst).delq.length < 16 → s.Yields .delegationArrival fun t =>
        t.core m.dst = { v.core m.dst with delq := (s.core m.dst).delq ++ [m], refused := (s.core m.dst).refused.filter (· != mark) } ∧
        OnCore s t m.dst ∧
        s.Plans t [(s.now, .delegationBegin m.dst)]))) ∧
  (∀ (s : State) (m : DelegMsg) (cause : Option FaultCode), s.ev = .delegationRefusal m cause → (s.core m.src).fenced = false →
    let u := s.ctx m.src m.sctx
    (cause = none → m.tries < 15 → s.Yields .delegationRefusal fun t =>
      let again := { m with tries := m.tries + 1 }
      t.ctx m.src m.sctx = { u with delegs := insertOrd DelegMsg.ord (again, true) u.delegs } ∧ (∀ y, y ≠ m.sctx → t.ctx m.src y = s.ctx m.src y) ∧
      OnCore s t m.src ∧ s.Plans t [(s.now + 1024, .delegationRetry again)]) ∧
    (∀ k, cause = some k ∨ (cause = none ∧ 15 ≤ m.tries ∧ k = .qfull) →
      u.pair = false → u.standing = .active → u.pend = none → u.gtid = m.gtid → (∀ e ∈ u.delegs, e.1.dst ≠ m.dst) →
      s.Yields .delegationRefusal fun t =>
        (t.ctx m.src m.sctx).pend = some { core := m.src, ctx := m.sctx, dfr := true, cause := k, gtid := m.gtid, va := m.addr.toNat, rblk := m.rblk
                                           rslot := m.rslot, tb := s.tbase (pkgOf m.src) } ∧
        (m.call = true → m.reg ≠ 0 → (∃ p ∈ u.prods, p.kind = .dcall ∧ p.file = .gr ∧ p.reg = m.reg) → (t.ctx m.src m.sctx).gReg m.reg = {}) ∧
        (∀ f r, m.call = false ∨ (f, r) ≠ (.gr, m.reg) → (t.ctx m.src m.sctx).regState f r = u.regState f r) ∧
        (∀ d y, d ≠ m.src ∨ y ≠ m.sctx → t.ctx d y = s.ctx d y) ∧
        (t.core m.dst).refused = (s.core m.dst).refused.filter (· != (m.src, m.sctx, 16, m.ord)) ∧
        (∀ d, d ≠ m.src → { t.core d with refused := (s.core d).refused } = s.core d ∧ (d ≠ m.dst → t.core d = s.core d)) ∧
        { t with cores := s.cores, agenda := s.agenda } = s)) ∧
  (∀ (s : State) (m : DelegMsg), s.ev = .delegationRetry m →
    let u := s.ctx m.src m.sctx
    let e := max (s.now + 2) (((s.core m.src).lastOut.map (· + 1)).getD 0)
    let first := u.delegs.find? fun q => q.1.dst == m.dst
    (((m, true) ∉ u.delegs) → exec .delegationRetry s = .next s) ∧
    ((m, true) ∈ u.delegs → first ≠ some (m, true) → s.Yields .delegationRetry fun t =>
      t.ctx m.src m.sctx = { u with delegs := u.delegs.map fun q => if q = (m, true) then (m, false) else q } ∧ OnCtx s t m.src m.sctx ∧
      s.Plans t []) ∧
    (first = some (m, true) → ∃ v, v.ctx m.src m.sctx = { u with delegs := u.delegs.erase (m, true) } ∧ (v.core m.src).lastOut = some e ∧
      (∀ y, y ≠ m.sctx → v.ctx m.src y = s.ctx m.src y) ∧ OnCore s v m.src ∧ v.agenda = s.agenda ∧
      exec .delegationRetry s = .next ((v.sendCounted e m.src (.deleg m)).freeDelegs m))) ∧
  (∀ (s : State) (c x r : Nat) (v : W64), s.ev = .dcallReply c x r v →
    let u := s.ctx c x
    let awaits (p : Producer) : Prop := p.kind = .dcall ∧ p.file = .gr ∧ p.reg = r
    ((∀ p ∈ u.prods, ¬ awaits p) → s.Yields .dcallReply fun t =>
      t.core c = { s.core c with received := (s.core c).received + 1 } ∧ OnCore s t c ∧ s.Plans t []) ∧
    ((∃ p ∈ u.prods, awaits p) → u.pair = false → r ≠ 0 → s.Yields .dcallReply fun t =>
      (t.ctx c x).gReg r = ⟨.full, v⟩ ∧ (∀ q, q ≠ r → (t.ctx c x).gReg q = u.gReg q) ∧ (t.ctx c x).blk = u.blk ∧
      (∀ y, y ≠ x → t.ctx c y = s.ctx c y) ∧ OnCore s t c)) ∧
  (∀ (s : State) (m : DelegMsg) (k : Cause), s.ev = .routineFaultReply m k → (s.core m.src).fenced = false →
    let u := s.ctx m.src m.sctx
    u.pair = false → u.standing = .active → u.pend = none → u.gtid = m.gtid → s.Yields .routineFaultReply fun t =>
      (t.ctx m.src m.sctx).pend = some { core := m.src, ctx := m.sctx, dlg := true, dfr := true, emp := k.emp, file := k.file, sub := k.sub
                                         cause := k.code, gtid := m.gtid, va := k.va, rblk := m.rblk, rslot := m.rslot
                                         cmb := k.cmb, more := k.more, tb := s.tbase (pkgOf m.src) } ∧
      (m.call = true → m.reg ≠ 0 → (∃ p ∈ u.prods, p.kind = .dcall ∧ p.file = .gr ∧ p.reg = m.reg) → (t.ctx m.src m.sctx).gReg m.reg = {}) ∧
      (∀ y, y ≠ m.sctx → t.ctx m.src y = s.ctx m.src y) ∧ OnCore s t m.src)

/-- R87, R197, R242, R261, R274 to R280, R354: a continuation leaves once no register is EMPTY and every request is accepted; its destination takes
it into the arrival queue of 8 or refuses it for the first cause of R278; it is placed in the lowest vacant worker context it fits with the
registers it carries and every other INVALID; a pair is placed in two contexts, its enrolment entries once, under the leading one. An acceptance vacates the origin; a refusal latches it with the block the continuation names, or is
followed, for want of room, by a retry after 64 rotations, 16 refusals raising MREF; a killed origin exits instead; a pair is refused as one. R198, R241, R272, R319, R349,
R350: with no request outstanding an exiting thread's message leaves, the thread drops from its barriers, and its context is vacant, its registers
INVALID and its mailbox empty; a message to another package goes to the port of the map (where it has none, the sender is answered as MessagesTravel says). The owner of the merge area takes the message in the cycle after its last flit: the exit value and the count enter
its private store buffer (a fenced one's is answered FENCED, R369), and a MERGE whose count is reached completes. The model's own readings here: log
entries 26, 29, 32, 33, 36, 60 and 77 (the enrolments of a pair). -/
def Obligations.ContinuationsAndExitMessages : Prop :=
  (
    (∀ (s : State) (c x : Nat), s.ev = .continuationDepart c x →
      let u := s.ctx c x
      (u.depart = none → exec .continuationDepart s = .next s) ∧
      ∀ d, u.depart = some d →
        (u.st ≠ .departing ∨ d.sent = true ∨ d.waiting = true ∨ ((s.team c x).all fun y => (s.ctx c y).settled) = false →
          exec .continuationDepart s = .next s) ∧
        (u.st = .departing → d.sent = false → d.waiting = false → ((s.team c x).all fun y => (s.ctx c y).settled) = true →
          (s.imagesAgree c x d = false → exec .continuationDepart s = .next (s.pairMismatch c x d.blk)) ∧
          (s.imagesAgree c x d = true → ∃ v,
            (∀ y, v.ctx c y = if y ∈ s.team c x then { s.ctx c y with depart := some { d with sent := true } } else s.ctx c y) ∧
            { v.core c with ctxs := (s.core c).ctxs, traceBuf := (s.core c).traceBuf, traceDrop := (s.core c).traceDrop } = s.core c ∧
            OnCore s v c ∧ v.agenda = s.agenda ∧
            exec .continuationDepart s = .next (v.sendCounted (s.now + 2) c (.cont (s.buildCont c x d)))))) ∧
    (∀ (s : State) (k : Cont), s.ev = .continuationArrival k → ∃ v,
      let q := s.core k.dst
      let p := s.pkg (pkgOf k.dst)
      v.core k.dst = { q with received := q.received + 1 } ∧ OnCore s v k.dst ∧ v.agenda = s.agenda ∧
      let no (f : Option FaultCode) (sub : Nat) : Prop :=
        exec .continuationArrival s = .next (v.sendCounted (s.now + 2) k.dst (.contRefused k.src k.sctx f sub))
      let known := (p.run? (k.gtid.toNat / 2 ^ 48)).isSome
      (q.fenced = true → exec .continuationArrival s = .next
        ((v.countSent k.dst).send s.now (s.gate k.src k.dst) (.contRefused k.src k.sctx (some .fenced) 0))) ∧
      (q.fenced = false → known = false → no (some .mref) 4) ∧
      (q.fenced = false → known = true → k.gen ≠ p.gens.get 0 k.asid → no (some .stalegen) 0) ∧
      (q.fenced = false → known = true → k.gen = p.gens.get 0 k.asid →
        (8 ≤ q.arrq.length → no none 0) ∧
        (q.arrq.length < 8 → ∃ w, w.core k.dst = { q with received := q.received + 1, arrq := q.arrq ++ [k] } ∧ OnCore s w k.dst ∧
          w.agenda = s.agenda ∧ exec .continuationArrival s = .next
            ((w.sendCounted (s.now + 2) k.dst (.contAccepted k.src k.sctx)).sched s.now (.continuationPlace k.dst))))) ∧
    (∀ (s : State) (c : Nat), s.ev = .continuationPlace c →
      let q := s.core c
      let again : Bool := s.agenda.any fun e => decide (e.1 ≤ s.now + 1) && e.2 == .continuationPlace c
      (s.stopped c = true ∨ again = true ∨ (∀ k ∈ q.arrq, q.placeFor k.pair = none) → exec .continuationPlace s = .next s) ∧
      ∀ k x, s.stopped c = false → again = false → q.arrq.find? (fun k => (q.placeFor k.pair).isSome) = some k → q.placeFor k.pair = some x →
        let mine (y : Nat) : Prop := y = x ∨ (k.pair = true ∧ y = x + 1)
        s.Yields .continuationPlace fun t =>
          (∀ y, mine y → let n := t.ctx c y
            n.st = .active ∧ n.gtid = k.gtid ∧ n.asid = k.asid ∧ n.gen = k.gen ∧ n.pair = k.pair ∧ n.retained = k.ret ∧ n.mbox = [] ∧
            n.fetch = some { addr := k.blk, begins := s.nextRot c } ∧ n.blk = none ∧ n.fpm = BitVec.ofNat 32 k.rnd ∧
            n.cwb0 = BitVec.ofNat 32 (k.cwb0 * 8) ∧ n.cwl0 = BitVec.ofNat 32 (k.cwl0 * 8) ∧ n.cwb1 = BitVec.ofNat 32 (k.cwb1 * 8) ∧
            n.cwl1 = BitVec.ofNat 32 (k.cwl1 * 8) ∧ n.strm = 0 ∧
            (∀ r, r ≠ 0 → n.gReg r = ((k.gs.get? r).map fun v => (⟨.full, v⟩ : Reg 64)).getD {} ∧
              n.pReg r = ((k.ps.get? r).map fun v => (⟨.full, v⟩ : Reg 32)).getD {}) ∧
            ∀ r, n.vReg r = {} ∧ n.oxReg r = ((k.oxs.get? r).map fun v => (⟨.full, v⟩ : Reg 64)).getD {}) ∧
          (∀ y, ¬ mine y → t.ctx c y = s.ctx c y) ∧ (t.core c).arrq = q.arrq.erase k ∧
          (∀ e, e ∈ (t.core c).enrol ↔ (e ∈ q.enrol ∧ ¬ mine e.ctx) ∨ ∃ w ∈ k.enr, e = ⟨w.bar, x, w.dropped, w.next⟩) ∧
          { t.core c with ctxs := q.ctxs, arrq := q.arrq, enrol := q.enrol, traceBuf := q.traceBuf, traceDrop := q.traceDrop } = q ∧ OnCore s t c ∧
          s.Plans t ((if k.pair then [x, x + 1] else [x]).map (fun y => (s.nextRot c, .blockFetch c y)) ++ [(s.now + 1, .continuationPlace c)])) ∧
    (∀ (s : State) (c x : Nat), s.ev = .continuationAccept c x →
      ((s.ctx c x).st ≠ .departing → s.Yields .continuationAccept fun t =>
        t.core c = { s.core c with received := (s.core c).received + 1 } ∧ OnCore s t c ∧ s.Plans t []) ∧
      ((s.ctx c x).st = .departing → s.Yields .continuationAccept fun t =>
        (∀ y ∈ s.team c x, let n := t.ctx c y
          n.st = .vacant ∧ n.gtid = 0 ∧ n.mbox = [] ∧ n.blk = none ∧ n.depart = none ∧
          ∀ f r, n.regState f r = if (f = .gr ∨ f = .pr) ∧ r = 0 then .full else .invalid) ∧
        (∀ y, y ∉ s.team c x → t.ctx c y = s.ctx c y) ∧ (t.core c).enrol = (s.core c).enrol.filter (fun e => decide (e.ctx ∉ s.team c x)) ∧
        OnCore s t c ∧ s.Plans t ((s.team c x).flatMap fun _ => [(s.now, .continuationPlace c), (s.now, .taskAdmission c)]))) ∧
    (∀ (s : State) (c x : Nat) (cause : Option FaultCode) (sub : Nat), s.ev = .continuationRefusal c x cause sub →
      let u := s.ctx c x
      (u.depart = none → s.Yields .continuationRefusal fun t =>
        t.core c = { s.core c with received := (s.core c).received + 1 } ∧ OnCore s t c ∧ s.Plans t []) ∧
      ∀ d, u.depart = some d →
        (u.kill = true → s.Yields .continuationRefusal fun t =>
          (∀ y ∈ s.team c x, t.ctx c y =
            { s.ctx c y with st := .exiting, depart := none, kill := false, retained := false, exitKill := true, exitAt := s.now }) ∧
          (∀ y, y ∉ s.team c x → t.ctx c y = s.ctx c y) ∧ OnCore s t c ∧
          s.Plans t ((s.team c x).map fun y => (s.now, .exitMessageDepart c y))) ∧
        (u.kill = false → cause = none → d.tries < 15 → s.Yields .continuationRefusal fun t =>
          (∀ y ∈ s.team c x, t.ctx c y =
            { s.ctx c y with depart := some { d with sent := false, waiting := true, tries := d.tries + 1 } }) ∧
          (∀ y, y ∉ s.team c x → t.ctx c y = s.ctx c y) ∧ OnCore s t c ∧ s.Plans t [(s.now + 1024, .continuationRetry c x)]) ∧
        (∀ k n, u.kill = false → (cause = some k ∧ n = sub) ∨ (cause = none ∧ 15 ≤ d.tries ∧ k = .mref ∧ n = 3) →
          s.Yields .continuationRefusal fun t =>
            let one : TrapRec := { s.trapRec c x { code := k, sub := n } with blk := d.blk }
            let rec_ : TrapRec := if u.pair then { one with ctx := x / 2 * 2, pair := true } else one
            (∀ y ∈ s.team c x, (t.ctx c y).st = .latched ∧ (t.ctx c y).depart = none ∧ (t.ctx c y).latch.map (·.trap) = some rec_ ∧
              ∀ f q, (t.ctx c y).regState f q = (s.ctx c y).regState f q ∧ (t.ctx c y).regTok f q = (s.ctx c y).regTok f q) ∧
            (∀ y, y ∉ s.team c x → t.ctx c y = s.ctx c y) ∧ OnCore s t c ∧ s.Plans t [(s.now, .trapRecordQueued c rec_.ctx)])) ∧
    (∀ (s : State) (c x : Nat), s.ev = .continuationRetry c x →
      let u := s.ctx c x
      ((u.depart.all fun d => !d.waiting) = true ∨ u.st ≠ .departing → exec .continuationRetry s = .next s) ∧
      ∀ d, u.depart = some d → d.waiting = true → u.st = .departing → ∃ v,
        (∀ y, v.ctx c y = if y ∈ s.team c x then { s.ctx c y with depart := some { d with sent := true, waiting := false } } else s.ctx c y) ∧
        { v.core c with ctxs := (s.core c).ctxs } = s.core c ∧ OnCore s v c ∧ v.agenda = s.agenda ∧
        exec .continuationRetry s = .next (v.sendCounted (s.now + 2) c (.cont (s.buildCont c x d))))) ∧
  (
    (∀ (s : State) (c x : Nat), s.ev = .exitMessageDepart c x →
      let u := s.ctx c x
      (u.st ≠ .exiting ∨ u.outs ≠ [] ∨ s.now < u.exitAt → exec .exitMessageDepart s = .next s) ∧
      (u.st = .exiting → u.outs = [] → u.exitAt ≤ s.now → s.Yields .exitMessageDepart fun t =>
        (∀ y ∈ s.team c x, let n := t.ctx c y
          n.st = .vacant ∧ n.gtid = 0 ∧ n.mbox = [] ∧ n.blk = none ∧ n.fetch = none ∧ n.prods = [] ∧ n.retained = false ∧
          (∀ f r, n.regState f r = if (f = .gr ∨ f = .pr) ∧ r = 0 then .full else .invalid) ∧
          n.sends = (s.ctx c y).sends ∧ n.delegs = (s.ctx c y).delegs ∧ n.spawns = (s.ctx c y).spawns) ∧
        (∀ y, y ∉ s.team c x → t.ctx c y = s.ctx c y) ∧ (t.core c).enrol = (s.core c).enrol.filter (fun e => decide (e.ctx ∉ s.team c x)) ∧
        (∀ e ∈ (s.core c).enrol, e.ctx ∈ s.team c x → e.dropped = false →
          (s.now, .barrierArrivalDepart (barKey c e.bar) c [] [(e.next, 1)] (if u.exitKill then 4 else 2)) ∈ t.agenda) ∧
        (s.now, .taskAdmission c) ∈ t.agenda ∧ (s.now, .continuationPlace c) ∈ t.agenda ∧
        (u.exitMsg = none → OnCore s t c ∧ (t.core c).sent = (s.core c).sent) ∧
        (∀ m, u.exitMsg = some m → pkgOf m.dst = pkgOf c → OnCore s t c ∧ (t.core c).sent = (s.core c).sent + 1 ∧
          let due := s.now + 5 + if (s.core m.dst).fenced then meshTime (routerOf c) (s.gate c m.dst) + svcHop c else pathTime c m.dst
          let at_ := match (s.core c).tails.get? m.dst with
            | some last => max due (last + 2)
            | none => due
          (at_, .exitMessageApply m) ∈ t.agenda) ∧
        -- to another package, through the port that the map names (R386)
        (∀ m, u.exitMsg = some m → pkgOf m.dst ≠ pkgOf c → ((s.pkg (pkgOf c)).portmap.get 0 (pkgOf m.dst)).getLsbD 5 = true →
          let n := ((s.pkg (pkgOf c)).portmap.get 0 (pkgOf m.dst)).toNat % 32
          let due := s.now + 3 + meshTime (routerOf c) (portRouter (pkgOf c) n) + svcHop c
          let at_ := match (s.core c).tails.get? (2 ^ 24 + n) with
            | some last => max due (last + 2)
            | none => due
          OnCore s t c ∧ (t.core c).sent = (s.core c).sent + 1 ∧
          (at_ - 1, .codeword (pkgOf c) n { leg := .out, msgs := [(0, .exitMsg m)], src := (pkgOf c, n), dst := (pkgOf c, n) } true) ∈ t.agenda))) ∧
    (∀ (s : State) (m : ExitMsg), s.ev = .exitMessageApply m → (s.core m.dst).fenced = true →
      (m.taken = true → exec .exitMessageApply s = .next s) ∧
      (m.taken = false → ∃ v, v.core m.dst = { s.core m.dst with received := (s.core m.dst).received + 1 } ∧ OnCore s v m.dst ∧ v.agenda = s.agenda ∧
        exec .exitMessageApply s = .next ((v.countSent m.dst).send s.now (s.gate m.src m.dst)
          (.fault { core := m.src, ctx := m.sctx, dfr := true, cause := .fenced, gtid := m.gtid, va := m.slotPa } .ctx 0)))) ∧
    (∀ (s : State) (m : ExitMsg), s.ev = .exitMessageApply m → (s.core m.dst).fenced = false → m.taken = false → s.Yields .exitMessageApply fun t =>
      t.core m.dst = { s.core m.dst with received := (s.core m.dst).received + 1 } ∧ OnCore s t m.dst ∧
      t.agenda = s.agenda.filter (fun e => e.1 < s.now + 1) ++ (s.now + 1, .exitMessageApply { m with taken := true }) ::
        s.agenda.filter (fun e => s.now + 1 ≤ e.1)) ∧
    (∀ (s : State) (m : ExitMsg), s.ev = .exitMessageApply m → (s.core m.dst).fenced = false → m.taken = true →
      let c := m.dst
      let put (s : State) (pa v : Nat) : State :=
        s.privStoresAs c m.asid m.gen m.lid s.now (((List.range 8).map (pa + ·)).zip (leBytes v 8))
      let one := put s m.slotPa m.value.toNat
      exec .exitMessageApply s = .next ((put one m.countPa ((leValue (one.privBytes c m.countPa 8) + 1) % 2 ^ 64)).checkMerges c) ∧
      -- with an empty store buffer and no pair on the core
      (m.slotPa % 8 = 0 → m.countPa % 8 = 0 → m.slotPa ≠ m.countPa → (s.core c).psb = [] → (∀ y, (s.ctx c y).pair = false) →
        let count := (s.readN m.countPa 8 + 1) % 2 ^ 64
        s.Yields .exitMessageApply fun t =>
          leValue (t.privBytes c m.slotPa 8) = m.value.toNat ∧ leValue (t.privBytes c m.countPa 8) = count ∧
          (∀ pa, (pa < m.slotPa ∨ m.slotPa + 8 ≤ pa) → (pa < m.countPa ∨ m.countPa + 8 ≤ pa) → (t.core c).psbByte pa = none) ∧
          (∀ d, d ≠ c → t.core d = s.core d) ∧ { t with cores := s.cores, agenda := s.agenda, nextId := s.nextId } = s ∧
          (∀ x, (s.ctx c x).merges = [] → t.ctx c x = s.ctx c x) ∧
          ∀ x q p, x < 16 → (s.ctx c x).merges = [q] → (s.ctx c x).prods = [p] → q.pa = m.countPa → p.id = q.id → p.reg ≠ 0 →
            (q.n ≤ count → (t.ctx c x).gReg p.reg = ⟨.full, BitVec.ofNat 64 q.n⟩ ∧ (t.ctx c x).merges = []) ∧
            (count < q.n → t.ctx c x = s.ctx c x))))

/-- R205, R210, R212, R217, R227, R246, R297: what a home does with a join and a FILL write. A request of another generation, or for a frame of
other attributes, changes nothing and is answered STALEGEN. A join leaves the location at x ⊔ y; one that would change a frozen location is answered
WAFRZ; a ONCE word that meets another value, and a FILL unit that does, end in conflict with FILLC. No other byte changes. R214, R215, R221: a change
evaluates the waits for the location, or for the FILL tiles, that it changes. The model's own readings here: log entries 23, 66 and 71. -/
def Obligations.JoinsAndFills : Prop :=
  -- what is rejected
  (∀ (s : State) (h : Nat) (r : Req), (∀ off, r.ret ≠ .host off) →
    let stale := r.gen ≠ (s.pkg (h / 2048)).gens.get 0 r.asid
    let differs (a : LatAttr) : Prop := a.ty ≠ r.lat.ty ∨ a.width ≠ r.lat.width ∨ a.sgn ≠ r.lat.sgn
    (stale → (∀ e, r.ret ≠ .psb e) → s.rejects h r = some .stalegen) ∧
    (r.code = false → r.kind ∈ [.join, .fill, .wait, .exact] →
      ((s.frame r.pa).lat = none → s.rejects h r = some .stalegen) ∧
      ∀ a, (s.frame r.pa).lat = some a → differs a → s.rejects h r = some .stalegen) ∧
    (r.code = false → r.kind = .freeze → ∀ a, (s.frame r.pa).lat = some a → differs a → s.rejects h r = some .stalegen) ∧
    (¬ stale → (r.code = true ∨ r.kind ∈ [.faddb, .incw, .read, .store] ∨ (r.kind = .freeze ∧ (s.frame r.pa).lat = none) ∨
      ∃ a, (s.frame r.pa).lat = some a ∧ ¬ differs a) → s.rejects h r = none)) ∧
  -- a request of the frame's type, width and sign acts with the frame's tile size
  (∀ (s : State) (h : Nat) (r : Req) (a : LatAttr) (i : Instr), s.Served h r → (s.frame r.pa).lat = some a → r.code = false → r.lat.ty = a.ty →
    r.lat.width = a.width → r.lat.sgn = a.sgn → (r.kind = .join ∧ i = .joinApply) ∨ (r.kind = .fill ∧ i = .fillApply) ∨
      (r.kind = .wait ∧ i = .waitServe) ∨ (r.kind = .exact ∧ i = .exactReadServe) → s.ev = reqEvent h r →
    ∃ t, exec i s = .next t ∧
      exec i { s with ev := reqEvent h { r with lat := a } } = .next { t with ev := reqEvent h { r with lat := a } }) ∧
  (∀ (s : State) (h : Nat) (r : Req) (k : FaultCode), s.Served h r → s.rejects h r = some k →
    (s.ev = .joinApply h r → r.kind = .join → s.Yields .joinApply fun t => t.mem = s.mem ∧ t.once = s.once ∧ t.frames = s.frames ∧ t.xtals = s.xtals ∧
      AtHome s t ∧ s.Answers t h r 0 fun w => .deferredFault (deferredRec w r k) (r.retFor w) w.id true) ∧
    (s.ev = .fillApply h r → r.kind = .fill → s.Yields .fillApply fun t => t.mem = s.mem ∧ t.arrived = s.arrived ∧ t.tconf = s.tconf ∧
      t.frames = s.frames ∧ AtHome s t ∧ s.Answers t h r 0 fun w => .deferredFault (deferredRec w r k) (r.retFor w) w.id true)) ∧
  (∀ (s : State) (h : Nat) (r : Req), s.ev = .joinApply h r → s.Served h r → s.rejects h r = none → r.ret = .ctx → r.lat.width < 4 →
    (s.frame r.pa).lat = some r.lat →
    let a := r.lat
    let w := 2 ^ a.width
    let n := 8 * w
    let x := s.readN r.pa w
    let y := r.val
    y < 2 ^ n →
    let key (v : Nat) : Int := if a.sgn then (BitVec.ofNat n v).toInt else v
    let wakes (t : State) : Prop := s.Wakes t h (frameKey r.pa) (· == r.pa)
    let gives (new : Nat) : Prop := s.Yields .joinApply fun t => AtHome s t ∧ t.frames = s.frames ∧ t.once = s.once ∧
      if new ≠ x ∧ (s.frame r.pa).frozen = true then
        t.mem = s.mem ∧ t.xtals = s.xtals ∧ s.Answers t h r 0 fun w => .deferredFault (deferredRec w r .wafrz) (r.retFor w) w.id true
      else t.readN r.pa w = new ∧ s.KeepsOutside t r.pa w ∧ (if new = x then t.xtals = s.xtals else wakes t) ∧
        s.Answers t h r 0 fun w => .acceptance w (r.retFor w)
    (a.ty = .max → gives (if key x < key y then y else x)) ∧ (a.ty = .min → gives (if key y < key x then y else x)) ∧
    (a.ty = .or → gives (x ||| y)) ∧ (a.ty = .cnt → gives (min (x + y) (2 ^ n - 1))) ∧
    (a.ty = .sum → a.width = 3 → gives ((x + y) % 2 ^ 64)) ∧
    (a.ty = .once → s.Yields .joinApply fun t => AtHome s t ∧ t.frames = s.frames ∧ s.KeepsOutside t r.pa w ∧
      (∀ q, q ≠ r.pa → t.once.get 0 q = s.once.get 0 q) ∧
      let accepted := s.Answers t h r 0 fun w => .acceptance w (r.retFor w)
      let fault (k : FaultCode) := s.Answers t h r 0 fun w => .deferredFault (deferredRec w r k) (r.retFor w) w.id true
      let same := t.mem = s.mem ∧ t.once = s.once ∧ t.xtals = s.xtals
      if s.once.get 0 r.pa = 0 then
        if (s.frame r.pa).frozen then same ∧ fault .wafrz else t.readN r.pa w = y ∧ t.once.get 0 r.pa = 1 ∧ accepted ∧ wakes t
      else if y = x then same ∧ accepted
      else if s.once.get 0 r.pa = 1 then
        if (s.frame r.pa).frozen then same ∧ fault .wafrz else t.mem = s.mem ∧ t.once.get 0 r.pa = 2 ∧ fault .fillc ∧ wakes t
      else same ∧ fault .fillc)) ∧
  (∀ (s : State) (h : Nat) (r : Req), s.ev = .fillApply h r → s.Served h r → s.rejects h r = none → r.ret = .ctx → r.pa % 4 = 0 →
    r.bytes.length % 4 = 0 → r.kind = .fill → (s.frame r.pa).lat = some r.lat →
    let us := r.units
    let differs := us.filter fun u => s.unitHere u.1 && s.readMem u.1 4 != u.2
    let base (u : Nat × List Byte) : Nat := r.lat.tileBase u.1
    let frozen := (s.frame r.pa).frozen = true
    let fault (t : State) (k : FaultCode) := s.Answers t h r 0 fun w => .deferredFault (deferredRec w r k) (r.retFor w) w.id true
    s.Yields .fillApply fun t => AtHome s t ∧ t.frames = s.frames ∧ t.once = s.once ∧
      (differs = [] → (¬ frozen ∨ ∀ u ∈ us, s.unitHere u.1 = true) →
        (∀ u ∈ us, t.unitHere u.1 = true ∧ t.readMem u.1 4 = u.2) ∧ t.tconf = s.tconf ∧
        (∀ q, (∀ u ∈ us, q < u.1 ∨ u.1 + 4 ≤ q) → t.readByte q = s.readByte q ∧ t.unitHere q = s.unitHere q) ∧
        (if ∀ u ∈ us, s.unitHere u.1 = true then t.xtals = s.xtals
          else s.Wakes t h (frameKey r.pa) fun pa => us.any fun u => !s.unitHere u.1 && base u == r.lat.tileBase pa) ∧
        s.Answers t h r 0 fun w => .acceptance w (r.retFor w)) ∧
      (differs = [] → frozen → (∃ u ∈ us, s.unitHere u.1 = false) →
        t.mem = s.mem ∧ t.arrived = s.arrived ∧ t.tconf = s.tconf ∧ t.xtals = s.xtals ∧ fault t .wafrz) ∧
      (differs ≠ [] → t.mem = s.mem ∧ t.arrived = s.arrived ∧
        ((∀ u ∈ differs, s.tileConf (base u) = true) → t.tconf = s.tconf ∧ t.xtals = s.xtals ∧ fault t .fillc) ∧
        ((∃ u ∈ differs, s.tileConf (base u) = false) → frozen → t.tconf = s.tconf ∧ t.xtals = s.xtals ∧ fault t .wafrz) ∧
        ((∃ u ∈ differs, s.tileConf (base u) = false) → ¬ frozen → fault t .fillc ∧
          s.Wakes t h (frameKey r.pa) (fun pa => differs.any fun u => !s.tileConf (base u) && base u == r.lat.tileBase pa) ∧
          ∀ b, t.tileConf b = (s.tileConf b || differs.any fun u => base u == b))))

/-- R205, R213 to R216, R218, R220, R248, R251, R297: what a home does with a wait, a freeze, an exact read and a scheduling request. A wait that
its location's state passes, or never will, completes with its index, and any other takes a place in the waiter table, or a record of the channel's
overflow area, which stands in device memory; a freeze freezes its LAT frame and evaluates every wait for it; an exact read returns the bytes where they can no longer change, and
the fault of the first that can; FADDB and INCW store their new value and return the old one. The model's own readings here: log entries 5, 23, 46,
66 and 71. -/
def Obligations.WaitsFreezesAndCounters : Prop :=
  (∀ (s : State) (h : Nat) (r : Req), s.ev = .waitServe h r → s.Served h r → s.rejects h r = none → r.ret = .ctx →
    (s.frame r.pa).lat = some r.lat →
    let completes (i : Nat) : Prop := s.Yields .waitServe fun t => AtHome s t ∧ t.mem = s.mem ∧ t.xtals = s.xtals ∧ t.frames = s.frames ∧
      s.Answers t h r 0 fun w => .producerCompletion w.core w.ctx .gr r.dst (BitVec.ofNat 1024 i) true w.id
    let k := s.xtal h
    let stays : Prop := s.Yields .waitServe fun t => AtHome s t ∧ (k.waiters.length < 4096 ∨ 262144 ≤ k.overflow.length → t.mem = s.mem) ∧
      (k.waiters.length < 4096 → ∃ i, (∀ w ∈ k.waiters, w.idx ≠ i) ∧ (∀ j, j < i → ∃ w ∈ k.waiters, w.idx = j) ∧
        t.xtal h = { k with waiters := k.waiters ++ [⟨i, r⟩] } ∧ OnXtal s t h ∧ s.Plans t []) ∧
      (4096 ≤ k.waiters.length → k.overflow.length < 262144 →
        ∃ i, (∀ w ∈ k.overflow, w.idx ≠ i) ∧ (∀ j, j < i → ∃ w ∈ k.overflow, w.idx = j) ∧
          t.xtal h = { k with overflow := k.overflow ++ [⟨i, r⟩] } ∧ t.readMem (overflowPa h i) 64 = Waiter.record ⟨i, r⟩ ∧
          s.KeepsOutside t (overflowPa h i) 64 ∧ OnXtal s { t with mem := s.mem } h ∧ s.Plans t []) ∧
      (4096 ≤ k.waiters.length → 262144 ≤ k.overflow.length → t.xtals = s.xtals ∧
        s.Answers t h r 0 fun w => .deferredFault (deferredRec w r .qfull) (r.retFor w) w.id true)
    let a := r.lat
    let n := 8 * 2 ^ a.width
    let x := s.readN r.pa (2 ^ a.width)
    let key (v : Nat) : Int := if a.sgn then (BitVec.ofNat n v).toInt else v
    let frozen := (s.frame r.pa).frozen = true
    let decides (p : Prop) : Prop := (p → completes 0) ∧ (¬ p → frozen → completes 4) ∧ (¬ p → ¬ frozen → stays)
    (∀ m, r.trig = some [m] → m < 2 ^ n → x < 2 ^ n →
      (a.ty = .max → decides (key m ≤ key x)) ∧ (a.ty = .min → decides (key x ≤ key m)) ∧ (a.ty = .or → decides (x &&& m = m)) ∧
      (a.ty = .cnt → decides (m ≤ x))) ∧
    (a.ty = .once →
      (s.once.get 0 r.pa = 0 → (frozen → completes 4) ∧ (¬ frozen → stays)) ∧
      (s.once.get 0 r.pa = 1 → (r.trig = none → completes 0) ∧ ∀ ms, r.trig = some ms →
        (x ∉ ms → completes 4) ∧ ∀ i, ms.Nodup → ms.length ≤ 4 → ms[i]? = some x → completes i) ∧
      (2 ≤ s.once.get 0 r.pa → completes 4)) ∧
    (a.ty = .fill → let b := a.tileBase r.pa
      (s.tileConf b = true → completes 4) ∧
      (s.tileConf b = false → decides (∀ i, i < a.tileSize / 4 → s.unitHere (b + 4 * i) = true)))) ∧
  (∀ (s : State) (h : Nat) (r : Req), s.ev = .freezeApply h r → s.Served h r → s.rejects h r = none → r.ret = .ctx → s.Yields .freezeApply fun t =>
    let f := s.frame r.pa
    AtHome s t ∧ t.mem = s.mem ∧ t.once = s.once ∧ t.arrived = s.arrived ∧ (s.Answers t h r 0 fun w => .acceptance w (r.retFor w)) ∧
    (t.frame r.pa = if f.lat.isSome then { f with frozen := true } else f) ∧
    (if f.lat.isSome ∧ f.frozen = false then s.Wakes t h (frameKey r.pa) fun _ => true else t.xtals = s.xtals) ∧
    ∀ q, frameKey q ≠ frameKey r.pa → t.frame q = s.frame q) ∧
  (∀ (s : State) (h serial slot part : Nat) (r : Req), s.ev = .exactReadServe h r → s.Served h r → s.rejects h r = none →
    r.ret = .load serial slot part → (∀ w ∈ r.who, w.copy = none) → r.code = true ∨ (s.frame r.pa).lat = some r.lat →
    let wants (i : Nat) : Prop := i < r.n ∧ (r.bytes.getD i none).isSome = true
    (r.code = true ∨ (∀ i, wants i → s.unreadable r.lat (r.pa + i) = none) → s.Yields .exactReadServe fun t =>
      AtHome s t ∧ t.mem = s.mem ∧ t.xtals = s.xtals ∧ t.frames = s.frames ∧
      s.Answers t h r 8 fun w => .loadResult w.core w.ctx serial slot part (s.readMem r.pa r.n) none) ∧
    (∀ i k, r.code = false → wants i → s.unreadable r.lat (r.pa + i) = some k → (∀ j, j < i → wants j → s.unreadable r.lat (r.pa + j) = none) →
      s.Yields .exactReadServe fun t => AtHome s t ∧ t.mem = s.mem ∧ t.xtals = s.xtals ∧ t.frames = s.frames ∧
        s.Answers t h r 8 fun w => .deferredFault (deferredRec w r k) (r.retFor w) w.id true)) ∧
  (∀ (s : State) (a : LatAttr) (pa : Nat),
    (a.ty = .once → let st := s.once.get 0 (pa / 2 ^ a.width * 2 ^ a.width)
      s.unreadable a pa = if st = 0 then some .xnf else if st = 1 then none else some .fillc) ∧
    (a.ty = .fill → s.unreadable a pa = if s.tileConf (a.tileBase pa) then some .fillc
      else if ((List.range (a.tileSize / 4)).all fun i => s.unitHere (a.tileBase pa + 4 * i)) then none else some .xnf) ∧
    (a.ty ≠ .once → a.ty ≠ .fill → s.unreadable a pa = if (s.frame pa).frozen then none else some .xnf)) ∧
  (∀ (s : State) (h : Nat) (r : Req), s.ev = .schedApply h r → s.Served h r → s.rejects h r = none → r.ret = .ctx →
    let old := s.readN r.pa 8
    let gives (new : Nat) : Prop := s.Yields .schedApply fun t => AtHome s t ∧ t.frames = s.frames ∧ t.xtals = s.xtals ∧
      t.readN r.pa 8 = new ∧ s.KeepsOutside t r.pa 8 ∧
      s.Answers t h r 0 fun w => .producerCompletion w.core w.ctx .gr r.dst (BitVec.ofNat 1024 old) true w.id
    (r.kind = .faddb → r.bound < 2 ^ 64 → gives (if r.bound ≤ old then old else min (old + r.val) r.bound)) ∧
    (r.kind = .incw → r.bound < 2 ^ 64 → gives (if r.bound = 0 then (old + 1) % 2 ^ 64 else if r.bound ≤ old + 1 then 0 else old + 1)))

/-- R198, R199, R236, R380, R381: a home answers a read of a PRIV, SCHED or CODE page with its bytes, eight cycles after its service, and writes the
bytes of a drained store or of a copy engine and acknowledges them; a service core reads and writes host memory for HOSTM pages, after a time that
the host takes. A host read of a running launch's PRIV page is answered with poison, and a host write of one discarded with PROT; one that is
applied to a page of a launch that stands on its partition sets that launch's escaped bit. One to a LAT frame is a join of each location, or a FILL
write of each unit, that it covers, or changes nothing. R235: a service core's host writes are applied in the order in which it received them. The
model's own readings here: log entries 12, 41, 68 and 69. -/
def Obligations.ReadsAndStoresAtTheirHomes : Prop :=
  (∀ (s : State) (h : Nat) (r : Req), s.ev = .readServe h r → s.Served h r → s.rejects h r = none →
    let reads (e : Who → Event) : Prop := s.Yields .readServe fun t => AtHome s t ∧ t.mem = s.mem ∧ t.xtals = s.xtals ∧ t.frames = s.frames ∧
      s.Answers t h r 8 e
    let bs := s.readMem r.pa r.n
    (∀ serial slot part, r.ret = .load serial slot part → reads fun w => .loadResult w.core w.ctx serial slot part bs none) ∧
    (∀ cmd run, r.ret = .copyRead cmd run → reads fun w => .loadResult w.core 16 cmd 1 run bs none) ∧
    (∀ va, r.gen < 65536 → r.ret = .line va → reads fun w => .blockCacheFill w.core va r.asid r.gen bs) ∧
    (∀ off, r.ret = .host off → s.hostTurn r = true → let poison := (s.frame r.pa).lat = none ∧ s.privMark r.pa = true
      (¬ poison → reads fun w => .loadResult w.core 16 off 2 0 bs none) ∧
      (poison → reads fun w => .deferredFault (deferredRec w r .prot) (.host off) w.id true))) ∧
  (∀ (s : State) (h : Nat) (r : Req), s.ev = .privStoreApply h r → s.Served h r → s.rejects h r = none →
    let writes (e : Who → Event) : Prop := s.Yields .privStoreApply fun t => AtHome s t ∧ t.xtals = s.xtals ∧ t.frames = s.frames ∧
      (∀ i v, r.bytes[i]? = some (some v) → t.readByte (r.pa + i) = v) ∧
      (∀ a, (∀ i v, r.bytes[i]? = some (some v) → a ≠ r.pa + i) → t.readByte a = s.readByte a) ∧ s.Answers t h r 0 e
    (∀ e, r.ret = .psb e → (∀ w ∈ r.who, w.copy = none) → writes fun w => .privStoreAck w.core e) ∧
    (∀ cmd, r.ret = .copyWrite cmd → (∀ w ∈ r.who, w.copy = none) → writes fun w => .acceptance w (.copyWrite cmd)) ∧
    (∀ off w, r.ret = .host off → s.hostTurn r = true → r.who = [w] → s.Yields .privStoreApply fun t =>
      (t.pkg (pkgOf w.core)).hostq.get [] w.core = ((s.pkg (pkgOf w.core)).hostq.get [] w.core).filter (· != w.id)) ∧
    (∀ off, r.ret = .host off → s.hostTurn r = true → (∀ w ∈ r.who, w.copy = none) → (s.frame r.pa).lat = none →
      (s.privMark r.pa = false → (writes fun w => .acceptance w (.host off)) ∧ s.Yields .privStoreApply fun t =>
        ∀ p, (t.pkg p).runs = (s.pkg p).runs.map fun q =>
          if q.stands && inFrames (t.framesOf p q.asid fun l => l.cls != .hostm) (frameKey r.pa) then { q with escaped := true } else q) ∧
      (s.privMark r.pa = true → s.Yields .privStoreApply fun t => AtHome s t ∧ t.mem = s.mem ∧ t.frames = s.frames ∧
        s.Answers t h r 0 fun w => .deferredFault (deferredRec w r .prot) (.host off) w.id true)) ∧
    -- a host write to a LAT frame: each location, or FILL unit, that it covers is joined, or nothing changes
    (∀ off a, r.ret = .host off → s.hostTurn r = true → (∀ w ∈ r.who, w.copy = none) → (s.frame r.pa).lat = some a → a.width < 4 →
        (a.ty = .sum → a.width = 3) →
      let w := if a.ty = .fill then 4 else 2 ^ a.width
      r.bytes.length % w = 0 →
      let given (i : Nat) : List (Option Byte) := (r.bytes.drop (w * i)).take w
      let covers (i : Nat) : Prop := i < r.bytes.length / w ∧ (given i).all Option.isSome = true
      let pa (i : Nat) : Nat := r.pa + w * i
      let bs (i : Nat) : List Byte := (given i).filterMap id
      let old (i : Nat) : Nat := s.readN (pa i) w
      let new (i : Nat) : Nat := leValue (bs i)
      let frozen := (s.frame r.pa).frozen = true
      let refused (k : FaultCode) : Prop := s.Yields .privStoreApply fun t => AtHome s t ∧ t.mem = s.mem ∧ t.once = s.once ∧
        t.arrived = s.arrived ∧ t.tconf = s.tconf ∧ t.xtals = s.xtals ∧
        s.Answers t h r 0 fun w => .deferredFault (deferredRec w r k) (.host off) w.id true
      let accepted (p : State → Prop) : Prop := s.Yields .privStoreApply fun t => AtHome s t ∧ p t ∧ t.frames = s.frames ∧
        (∀ q, (∀ i, covers i → q < pa i ∨ pa i + w ≤ q) → t.readByte q = s.readByte q) ∧ s.Answers t h r 0 fun w => .acceptance w (.host off)
      let whole := ∀ i, i < r.bytes.length / w → (given i).all Option.isSome = true ∨ (given i).all Option.isNone = true
      (¬ whole → refused .ltype) ∧
      (whole → a.ty ∉ [.once, .fill] →
        ((¬ frozen ∨ ∀ i, covers i → a.join (old i) (new i) = old i) →
          accepted fun t => ∀ i, covers i → t.readN (pa i) w = a.join (old i) (new i)) ∧
        (frozen → (∃ i, covers i ∧ a.join (old i) (new i) ≠ old i) → refused .wafrz)) ∧
      (whole → a.ty = .once →
        let unset (i : Nat) : Prop := s.once.get 0 (pa i) = 0
        ((∀ i, covers i → (unset i ∧ ¬ frozen) ∨ (¬ unset i ∧ new i = old i)) →
          accepted fun t => ∀ i, covers i → t.readN (pa i) w = new i ∧ (unset i → t.once.get 0 (pa i) = 1)) ∧
        (¬ frozen → (∃ i, covers i ∧ ¬ unset i ∧ new i ≠ old i) → refused .fillc)) ∧
      (whole → a.ty = .fill → r.pa % 4 = 0 →
        let here (i : Nat) : Prop := s.unitHere (pa i) = true
        ((∀ i, covers i → (¬ here i ∧ ¬ frozen) ∨ (here i ∧ bs i = s.readMem (pa i) 4)) →
          accepted fun t => ∀ i, covers i → t.unitHere (pa i) = true ∧ t.readMem (pa i) 4 = bs i) ∧
        (¬ frozen → (∃ i, covers i ∧ here i ∧ bs i ≠ s.readMem (pa i) 4) → refused .fillc)))) ∧
  -- the host's writes through one service core are applied in the order in which it received them
  (∀ (s : State) (h : Nat) (r : Req) (i : Instr), (s.ev = .readServe h r ∧ i = .readServe ∧ r.kind = .read) ∨
      (s.ev = .privStoreApply h r ∧ i = .privStoreApply ∧ r.kind = .store) → s.Served h r → ∀ off, r.ret = .host off →
    (s.hostTurn r = true ↔ ∀ w ∈ r.who, ∀ n ∈ (s.pkg (pkgOf w.core)).hostq.get [] w.core, w.id ≤ n) ∧
    (s.hostTurn r = false → s.Yields i fun t => t = { s with agenda := agendaInsert (s.now + 1) (reqEvent h r) s.agenda })) ∧
  (∀ (s : State) (svc : Nat) (r : Req) (w : Who), isService svc = true → r.who = [w] → w.copy = none → pkgOf w.core = pkgOf svc →
    let delay := 16 + Config.hostTime s.free
    let at_ := s.now + delay + pathTime svc w.core + 2
    (∀ serial slot part, s.ev = .readServe (2 ^ 24 + svc) r → r.ret = .load serial slot part → s.Yields .readServe fun t =>
      t = { s with free := s.free + 1
                   agenda := agendaInsert at_ (.loadResult w.core w.ctx serial slot part (s.readHost r.pa r.n) none) s.agenda }) ∧
    (∀ e, s.ev = .privStoreApply (2 ^ 24 + svc) r → r.ret = .psb e → s.Yields .privStoreApply fun t =>
      (∀ i v, r.bytes[i]? = some (some v) → t.readHost (r.pa + i) 1 = [v]) ∧
      (∀ a, (∀ i v, r.bytes[i]? = some (some v) → a ≠ r.pa + i) → t.readHost a 1 = s.readHost a 1) ∧
      { t with hostMem := s.hostMem } = { s with free := s.free + 1, agenda := agendaInsert at_ (.privStoreAck w.core e) s.agenda }))

/-- R199, R219 to R223, R226, R227, R305, R389: on its way a join or FILL write is held for 16 cycles in the combining buffer of its source router,
of 16 entries, and merges with a like one, with at most 8 issuers; a home's port begins one service a cycle, which ends 4 cycles later, or first
brings the line from DRAM into the slice of 24,576 lines; a line that cannot be read parks its oldest request, the others waiting behind it, or
answers them with UECC; a corrected error is counted in its row's history; a parked request is served again, once, after the repair; a full fault
queue keeps later requests waiting at the port; the wakes of overflow records leave one a cycle. The model's own readings here: log entries 5 and
47. -/
def Obligations.RoutersAndPorts : Prop :=
  (∀ e r : Req, mergeable e r = true ↔ e.kind = .join ∧ r.kind = .join ∧ e.pa = r.pa ∧ e.lat.ty = r.lat.ty ∧ e.lat.width = r.lat.width ∧
    e.lat.sgn = r.lat.sgn ∧ e.asid = r.asid ∧ e.gen = r.gen ∧ e.lid = r.lid ∧ (e.lat.ty = .once → e.val = r.val) ∧
    e.who.length + r.who.length ≤ 8) ∧
  (∀ (s : State) (router h : Nat) (r : Req), s.ev = .combineMerge router h r →
    let k := s.core router
    (∀ e, k.comb.find? (fun e => mergeable e.req r) = some e → s.Yields .combineMerge fun t =>
      t.core router = { k with comb := k.comb.map fun f =>
        if f.id = e.id then { f with req := { f.req with val := f.req.lat.join f.req.val r.val, who := f.req.who ++ r.who } } else f } ∧
      OnCore s t router ∧ s.Plans t []) ∧
    ((∀ e ∈ k.comb, mergeable e.req r = false) → r.held = false → exec .combineMerge s = .next (s.forwardReq router h r)) ∧
    ((∀ e ∈ k.comb, mergeable e.req r = false) → r.held = true →
      let entry : CombEntry := ⟨s.nextId, s.now + 16, h, { r with held := false }⟩
      let s' : State := { s with nextId := s.nextId + 1 }
      (k.comb.length < 16 → s.Yields .combineMerge fun t => t.core router = { k with comb := k.comb ++ [entry] } ∧ OnCore s' t router ∧
        s.Plans t [(s.now + 16, .combineHoldEnd router s.nextId)]) ∧
      ∀ e ∈ k.comb, 16 ≤ k.comb.length → (∀ d ∈ k.comb, d = e ∨ e.until_ < d.until_) → ∃ v,
        v.core router = { k with comb := k.comb.filter fun d => d.id != e.id } ∧ OnCore s' v router ∧ v.agenda = s.agenda ∧
        exec .combineMerge s = .next (((v.forwardReq router e.home e.req).modCore router fun q => { q with comb := q.comb ++ [entry] }).sched
          (s.now + 16) (.combineHoldEnd router s.nextId)))) ∧
  (∀ (s : State) (router id : Nat), s.ev = .combineHoldEnd router id →
    let k := s.core router
    ((∀ e ∈ k.comb, e.id ≠ id) → exec .combineHoldEnd s = .next s) ∧
    ∀ e, k.comb.find? (fun e => e.id == id) = some e → ∃ v,
      v.core router = { k with comb := k.comb.filter fun d => d.id != id } ∧ OnCore s v router ∧ v.agenda = s.agenda ∧
      exec .combineHoldEnd s = .next (v.forwardReq router e.home e.req)) ∧
  (∀ (s : State) (router h : Nat) (r : Req), pkgOf router = h / 2048 →
    s.forwardReq router h r = if router = xtalRouter h then { s with agenda := agendaInsert s.now (reqEvent h r) s.agenda }
      else { s with agenda := agendaInsert (s.now + (nextHop router (xtalRouter h)).2) (.combineMerge (nextHop router (xtalRouter h)).1 h r) s.agenda }) ∧
  -- a request alone in its cycle at a port
  (∀ (s : State) (h : Nat) (r : Req), s.ev = reqEvent h r → h < 2 ^ 24 → r.serving = false →
    (∀ e ∈ s.agenda, e.1 ≤ s.now → ∀ q, e.2.arriving ≠ some (h, q)) →
    let k := s.xtal h
    let b := max s.now k.nextBegin
    let line := r.pa / 64
    let served : Event := reqEvent h { r with serving := true }
    (64 ≤ k.faultq.length ∨ k.portq ≠ [] → s.Yields s.ev.instr fun t =>
      t.xtal h = { k with portq := k.portq ++ [r] } ∧ OnXtal s t h ∧ s.Plans t []) ∧
    (k.faultq.length < 64 → k.portq = [] → r.kind = .freeze → s.Yields s.ev.instr fun t =>
      t.xtal h = { k with nextBegin := b + 1 } ∧ OnXtal s t h ∧ s.Plans t [(b + 4, served)]) ∧
    (k.faultq.length < 64 → k.portq = [] → r.kind ≠ .freeze →
      (∀ q, k.lineWait.get? line = some q → s.Yields s.ev.instr fun t =>
        t.xtal h = { k with nextBegin := b + 1, lineWait := k.lineWait.put line (q ++ [r]) } ∧ OnXtal s t h ∧ s.Plans t []) ∧
      (k.lineWait.get? line = none →
        let found := Config.lineCase s.free % 3
        let extra := if found = 0 then 96 else if found = 1 then 160 else 160 + Config.refreshWait s.free % 281
        let at_ := match k.lineBusy.get? line with | some u => if b + 4 ≤ u then u + 1 else b + 4 | none => b + 4
        let waits (t : State) : Prop := t.xtal h = { k with nextBegin := b + 1, lineWait := k.lineWait.put line [r] }
        (line ∈ k.slice → s.Yields s.ev.instr fun t =>
          { t.xtal h with lineBusy := k.lineBusy } = { k with nextBegin := b + 1 } ∧ (t.xtal h).lineBusy.get? line = some at_ ∧
          OnXtal s t h ∧ s.Plans t [(at_, served)]) ∧
        (line ∉ k.slice → (∃ e ∈ s.agenda, e.2 = .dramLineFill h line) → s.Yields s.ev.instr fun t =>
          waits t ∧ OnXtal s t h ∧ s.Plans t []) ∧
        (line ∉ k.slice → (∀ e ∈ s.agenda, e.2 ≠ .dramLineFill h line) → s.Yields s.ev.instr fun t =>
          waits t ∧ OnXtal { s with free := s.free + 1 } t h ∧ s.Plans t [(b + extra, .dramLineFill h line)])))) ∧
  (∀ (s : State) (h line : Nat), s.ev = .dramLineFill h line →
    let k := s.xtal h
    let o := Config.lineOutcome s.free
    (k.lineWait.get [] line = [] → s.Yields .dramLineFill fun t =>
      t.xtal h = ({ k with lineWait := k.lineWait.drop line } : Xtal).holding line s.free ∧
      OnXtal { s with free := s.free + k.evictions line } t h ∧ s.Plans t []) ∧
    ∀ r rest, k.lineWait.get [] line = r :: rest →
      (o ≠ 1 → o ≠ 2 → o ≠ 3 → (∀ q ∈ r :: rest, q.pa / 64 = line) → (k.lineBusy.get? line).all (fun u => decide (u < s.now + 4)) = true →
        s.Yields .dramLineFill fun t =>
          { t.xtal h with lineBusy := k.lineBusy } = ({ k with lineWait := k.lineWait.drop line } : Xtal).holding line (s.free + 1) ∧
          OnXtal { s with free := s.free + 1 + k.evictions line } t h ∧ s.Plans t (services h (s.now + 4) (r :: rest))) ∧
      (o = 1 ∨ o = 3 → 64 ≤ k.faultq.length → s.Yields .dramLineFill fun t =>
        t = { s with free := s.free + 1, agenda := agendaInsert (s.now + 1) s.ev s.agenda }) ∧
      (o = 1 ∨ o = 3 → k.faultq.length < 64 → s.Yields .dramLineFill fun t =>
        let place := Config.dramPlace line
        let k' := if o = 1 then k.corrected place.1 place.2 else k
        t.xtal h = { k' with faultq := k.faultq ++ [r], lineWait := k.lineWait.put line rest } ∧ OnXtal { s with free := s.free + 2 } t h ∧
        s.Plans t [(s.now + 1 + Config.repairTime (s.free + 1), .faultQueueRepair h)]) ∧
      (o = 2 → h < 2 ^ 19 → h % 2048 < 1536 → s.Yields .dramLineFill fun t => t.xtal h = { k with lineWait := k.lineWait.drop line } ∧
        t.mem = s.mem ∧ AtHome s t ∧
        ∀ q ∈ r :: rest, s.Answers t h q 0 fun w => .deferredFault (deferredRec w q .uecc) (q.retFor w) w.id true)) ∧
  (∀ (s : State) (h : Nat), s.ev = .faultQueueRepair h →
    let k := s.xtal h
    let b := max s.now k.nextBegin
    (k.faultq = [] → exec .faultQueueRepair s = .next s) ∧
    ∀ r rest, k.faultq = r :: rest →
      let line := r.pa / 64
      let behind := k.lineWait.get [] line
      (∀ q ∈ behind, q.pa / 64 = line) → (k.lineBusy.get? line).all (fun u => decide (u < b + 4)) = true → ∃ v : State,
        exec .faultQueueRepair s = .next (k.portq.foldl (fun u q => u.letIn h q) v) ∧
        { v.xtal h with lineBusy := k.lineBusy } = ({ k with faultq := rest, portq := [], lineWait := k.lineWait.drop line
                                                             nextBegin := b + 1 + behind.length } : Xtal).holding line s.free ∧
        OnXtal { s with free := s.free + k.evictions line } v h ∧ s.Plans v (services h (b + 4) (r :: behind))) ∧
  (∀ (s : State) (h pa : Nat) (ws : List Waiter), s.ev = .overflowChainRead h pa ws → h < 2 ^ 19 → h % 2048 < 1536 →
    s.Yields .overflowChainRead fun t => t.mem = s.mem ∧ t.xtals = s.xtals ∧ AtHome s t ∧
      ∀ i w, ws[i]? = some w → s.Answers t h w.req i fun p =>
        .producerCompletion p.core p.ctx .gr w.req.dst ((BitVec.ofNat 64 w.req.val).setWidth 1024) true p.id)

/-- R205, R212, R237, R288 to R305, R370: a table write changes its entry alone; a frame that is given a new state holds its bottom everywhere, with
clear fill state, and its waiters are answered STALEGEN; a corrected row is counted in the correction history; GENB drains the buffers, gives every
home, core and spawn entry the next generation, and awaits the acknowledgements; a head context goes on when its operations are complete. The
model's own readings here: log entries 5, 44 and 50. -/
def Obligations.TablesAndGenerations : Prop :=
  (∀ (s : State) (c idx : Nat) (ws : List W64),
    let p := pkgOf c
    let k := s.pkg p
    let w (i : Nat) : Nat := (ws.getD i 0).toNat
    (s.writeTable c 0 idx ws).readN idx 16 = w 0 + 2 ^ 64 * w 1 ∧ s.KeepsOutside (s.writeTable c 0 idx ws) idx 16 ∧
    { s.writeTable c 0 idx ws with mem := s.mem } = s ∧
    (s.writeTable c 1 idx ws).pkg p = { k with roots := k.roots.put idx (BitVec.ofNat 128 (w 0 + 2 ^ 64 * w 1)) } ∧
    OnPkg s (s.writeTable c 1 idx ws) p ∧
    (let r : Rect := ⟨w 0 / 4 % 256, w 0 / 2 ^ 10 % 256, w 0 / 2 ^ 18 % 256, w 0 / 2 ^ 26 % 256⟩
     (s.writeTable c 3 idx ws).pkg p = { k with rects := k.rects.put idx ⟨w 0 % 2 = 1, false, r⟩ } ∧
     ((k.rects.get {} idx).fenced = false → OnPkg s (s.writeTable c 3 idx ws) p) ∧
     ((k.rects.get {} idx).fenced = true → let t := s.writeTable c 3 idx ws
      t.core c = { s.core c with sysops := (s.core c).sysops ++ [(s.now + 256, false, .unfence (k.rects.get {} idx).rect)] } ∧
      s.Plans t [(s.now + 256, .systemOpComplete c)])) ∧
  -- the fence is lifted from the cores that no other fenced entry holds
  (∀ (s : State) (c : Nat) (rect : Rect), let p := pkgOf c
    let t := s.applySysOp c (.unfence rect)
    (∀ d, t.core d = if pkgOf d = p ∧ rect.has d = true ∧ (∀ q ∈ (s.pkg p).rects, q.2.v = true → q.2.fenced = true → q.2.rect.has d = false)
      then { s.core d with fenced := false } else s.core d) ∧
    t.pkg p = { s.pkg p with fences := (s.pkg p).fences.filter fun r =>
      !(rect.col0 ≤ r.col0 && rect.row0 ≤ r.row0 && r.col1 ≤ rect.col1 && r.row1 ≤ rect.row1) } ∧
    { t with cores := s.cores, agenda := s.agenda } = { s with pkgs := t.pkgs } ∧ (∀ q, q ≠ p → t.pkg q = s.pkg q) ∧ s.Plans t []) ∧
    (s.writeTable c 4 idx ws).pkg p = { k with windows := k.windows.put idx (windowOf ws) } ∧ OnPkg s (s.writeTable c 4 idx ws) p ∧
    (s.writeTable c 5 idx ws).pkg p = { k with bkpts := k.bkpts.put idx (bkptOf ws) } ∧ OnPkg s (s.writeTable c 5 idx ws) p ∧
    (let h := p * 2048 + idx / 4096
     ((s.writeTable c 6 idx ws).xtal h).history.get? (idx % 4096) = none ∧ OnXtal s (s.writeTable c 6 idx ws) h) ∧
    (let t := s.writeTable c 7 idx ws
     OnXtal s t (homeOf idx) ∧ (t.xtal (homeOf idx)).frameBusy.get 0 (frameKey idx) = s.now + 1024 ∧
     s.Plans t [(s.now + 1024, .frameReassign (homeOf idx) (frameKey idx) ((frameAttrOf (ws.getD 0 0).toNat).getD none))])) ∧
  (∀ (s : State) (h frame : Nat) (attr : Option LatAttr), s.ev = .frameReassign h frame attr → h < 2 ^ 19 → h % 2048 < 1536 →
    s.Yields .frameReassign fun t => AtHome s t ∧
      (∀ pa, frameKey pa = frame → t.readByte pa = (match attr with | some a => bottomByte a pa | none => 0) ∧ t.once.get 0 pa = 0 ∧
        t.unitHere pa = false ∧ t.tileConf pa = false ∧ t.frame pa = ⟨attr, false⟩) ∧
      (∀ pa, frameKey pa ≠ frame → t.readByte pa = s.readByte pa ∧ t.once.get 0 pa = s.once.get 0 pa ∧ t.unitHere pa = s.unitHere pa ∧
        t.tileConf pa = s.tileConf pa ∧ t.frame pa = s.frame pa) ∧
      (let k := s.xtal h
       t.xtal h = { k with waiters := k.waiters.filter (fun w => frameKey w.req.pa != frame)
                           overflow := k.overflow.filter fun w => frameKey w.req.pa != frame } ∧
       ∀ w ∈ k.waiters ++ k.overflow, frameKey w.req.pa = frame →
         s.Answers t h w.req 0 fun i => .deferredFault (deferredRec i w.req .stalegen) (w.req.retFor i) i.id true)) ∧
  (∀ (s : State) (h bank row : Nat), (s.ev = .scrub h bank row false → exec .scrub s = .next s) ∧
    (s.ev = .scrub h bank row true →
      let k := (s.xtal h).history
      let key := row % 2 ^ 18 * 64 + bank % 64
      let entry (n : Nat) : BitVec 64 := BitVec.ofNat 64 (n * 2 ^ 25 + key * 2 + 1)
      s.Yields .scrub fun t => OnXtal s t h ∧ s.Plans t [] ∧ { t.xtal h with history := k } = s.xtal h ∧
        (∀ e, k.find? (fun e => e.2.getLsbD 0 && e.2.toNat / 2 % 2 ^ 24 == key) = some e →
          (t.xtal h).history = k.put e.1 (entry (min 255 (e.2.toNat / 2 ^ 25 % 256 + 1)))) ∧
        (k.find? (fun e => e.2.getLsbD 0 && e.2.toNat / 2 % 2 ^ 24 == key) = none →
          ∀ i, i < 4096 → (k.get 0 i).getLsbD 0 = false → (∀ j, j < i → (k.get 0 j).getLsbD 0 = true) →
            (t.xtal h).history = k.put i (entry 1)))) ∧
  (∀ (s : State) (p asid : Nat), s.ev = .genbApply p asid →
    let here (g : Genb) : Bool := g.asid == asid && g.next == s.now
    let k := s.pkg p
    let becomes (t : State) (g g' : Genb) : Prop := t.pkg p = { k with genbs := k.genbs.map fun q => if q = g then g' else q } ∧ OnPkg s t p ∧
      s.Plans t [(g'.next, .genbApply p asid)]
    (k.genbs.find? here = none → exec .genbApply s = .next s) ∧
    ∀ g, k.genbs.find? here = some g →
      let left := (g.waiting.getD (s.psbCores p asid)).filter (s.psbCores p asid).contains
      (g.phase = 0 → left = [] → s.Yields .genbApply fun t => becomes t g { g with phase := 1, next := s.now + 512, waiting := some [] }) ∧
      (g.phase = 0 → left ≠ [] → s.Yields .genbApply fun t => becomes t g { g with next := s.now + 1, waiting := some left }) ∧
      (g.phase = 1 →
        let new := (k.gens.get 0 asid + 1) % 2 ^ 16
        s.Yields .genbApply fun t => (t.pkg p).gens.get 0 asid = new ∧ (∀ a, a ≠ asid → (t.pkg p).gens.get 0 a = k.gens.get 0 a) ∧
          (∀ q a, q ≠ p → (t.pkg q).gens.get 0 a = (s.pkg q).gens.get 0 a) ∧
          (∀ c x, (s.ctx c x).st ≠ .vacant → let u := t.ctx c x
            u.gen = (if pkgOf c = p ∧ (s.ctx c x).asid = asid then new else (s.ctx c x).gen) ∧ u.st = (s.ctx c x).st ∧ u.blk = (s.ctx c x).blk ∧
            ∀ f r, u.regState f r = (s.ctx c x).regState f r ∧ u.regTok f r = (s.ctx c x).regTok f r) ∧
          (∀ c, pkgOf c = p → (t.core c).spawnq = (s.core c).spawnq.map (fun e => if e.asid = asid then { e with gen := new } else e) ∧
            (t.core c).bcache = (s.core c).bcache.filter (fun l => !(l.asid == asid && l.gen == new)) ∧
            (t.core c).tlb = (s.core c).tlb.filter (fun l => !(l.asid == asid && l.gen == new)) ∧
            (t.core c).head = (if (s.core c).head.savedAsid = asid then { (s.core c).head with savedGen := new } else (s.core c).head)) ∧
          (∀ c, pkgOf c ≠ p → t.core c = s.core c) ∧
          (∀ h, h / 2048 = p → (t.xtal h).waiters = (s.xtal h).waiters.filter (fun w => w.req.asid != asid)) ∧
          t.mem = s.mem ∧ t.hostMem = s.hostMem ∧ (s.now + 256, .genbApply p asid) ∈ t.agenda) ∧
      (2 ≤ g.phase → s.Yields .genbApply fun t => t.pkg p = { k with genbs := k.genbs.erase g } ∧ OnPkg s t p ∧
        s.Plans t (match g.core with | some c => [(s.now, .systemOpComplete c)] | none => []))) ∧
  (∀ (s : State) (c : Nat), s.ev = .systemOpComplete c →
    let lower := ∃ e ∈ s.agenda, e.1 ≤ s.now ∧ ∃ d, e.2 = .systemOpComplete d ∧ d < c
    let due := (s.core c).sysops.filter fun o => decide (o.1 ≤ s.now)
    let rest := (s.core c).sysops.filter fun o => decide (s.now < o.1)
    let stream (o : SysOp) : Prop := ∃ idx ws, o = .tblw 2 idx ws
    let complete := ¬ lower ∧ (∀ o ∈ due, o.2.1 = true) ∧ rest = [] ∧ ∀ g ∈ (s.pkg (pkgOf c)).genbs, g.core ≠ some c
    (lower ∨ ((∃ o ∈ due, o.2.1 = false ∧ stream o.2.2) ∧ ∃ e ∈ s.agenda, e.1 ≤ s.now ∧ ∀ d, e.2 ≠ .systemOpComplete d) →
      s.Yields .systemOpComplete fun t => t = { s with agenda := agendaInsert s.now (.systemOpComplete c) s.agenda }) ∧
    (complete → isService c = false → .sys ∈ (s.ctx c 0).after →
      s.Yields .systemOpComplete fun t => t.ctx c 0 = { s.ctx c 0 with after := (s.ctx c 0).after.filter (· != .sys) } ∧
        { t.core c with ctxs := (s.core c).ctxs } = { s.core c with sysops := [] } ∧ (∀ y, y ≠ 0 → t.ctx c y = s.ctx c y) ∧ OnCore s t c ∧
        s.Plans t [(s.now, .trapHandlerEntry c)]) ∧
    (∀ q, complete → isService c = true → (s.pkg (pkgOf c)).cmds.get? c = some q → s.Yields .systemOpComplete fun t =>
      let k := s.pkg (pkgOf c)
      t.pkg (pkgOf c) = { k with cmds := k.cmds.drop c, out := k.out ++ [.success c []] } ∧ t.core c = { s.core c with sysops := [] } ∧
      t.agenda = s.agenda.filter (fun e => e.1 < s.now) ++ q.map (fun i => (s.now, i)) ++ s.agenda.filter (fun e => s.now ≤ e.1)) ∧
    (∀ n o, ¬ lower → due = [(n, false, o)] → ¬ stream o → rest ≠ [] → ∃ v,
      v.core c = { s.core c with sysops := rest } ∧ OnCore s v c ∧ v.agenda = s.agenda ∧ exec .systemOpComplete s = .next (v.applySysOp c o)) ∧
    (∀ n scope asid va, ¬ lower → due = [(n, false, .tlbi scope asid va)] → rest ≠ [] → s.Yields .systemOpComplete fun t =>
      let stays (e : TlbEntry) : Bool := !(if scope = 0 then e.asid == asid
        else if scope = 1 then e.asid == asid && e.vpage == (if e.leaf.big then va / 2 ^ 28 else va / 2 ^ 16) else true)
      (t.core c).sysops = rest ∧ t.mem = s.mem ∧ t.pkgs = s.pkgs ∧ s.Plans t [] ∧
      (∀ d, (t.core d).tlb = if pkgOf d = pkgOf c then (s.core d).tlb.filter stays else (s.core d).tlb) ∧
      (∀ d x, t.ctx d x = s.ctx d x) ∧
      ∀ d, (t.die d).tlb = if d / 32 = pkgOf c then (s.die d).tlb.filter stays else (s.die d).tlb)) ∧
  (∀ (s : State) (c e : Nat) (o : SysOp), let t := s.releaseSysOp c e o
    let steps (a b : Nat) : Prop := t.ctx c 0 = { s.ctx c 0 with after := .sys :: (s.ctx c 0).after.filter (· != .sys) } ∧
      (∀ y, y ≠ 0 → t.ctx c y = s.ctx c y) ∧
      { t.core c with ctxs := (s.core c).ctxs } = { s.core c with sysops := (s.core c).sysops ++ [(a, false, o), (b, true, o)] } ∧ OnCore s t c ∧
      s.Plans t [(a, .systemOpComplete c), (b, .systemOpComplete c)]
    (∀ scope asid va, o = .tlbi scope asid va → steps (e + 256) (e + 512)) ∧
    ∀ code idx ws, o = .tblw code idx ws →
      (code = 1 ∨ code = 3 ∨ code = 4 ∨ code = 5 → steps (e + 256) (e + 512)) ∧ (code = 2 → steps e e) ∧
      (∀ m, code = 0 → s.homePath c idx = some m → steps (e + m + 4) (e + 2 * m + 6)) ∧
      (code = 6 → let m := meshTime (routerOf c) (xtalRouter (pkgOf c * 2048 + idx / 4096))
        steps (e + m + 4) (e + 2 * m + 6)) ∧
      (∀ m, code = 7 → s.homePath c idx = some m → steps (e + m) (e + 2 * m + 1026)))

/-- R89, R99, R140, R172 to R176, R178, R180, R187 to R190: the matrix engine begins the operation at the head of its FIFO when it is free and the
core is not stopped, and ends it after its duration: its destination is FULL with the result, its events are counted, and the next may begin. One
that its shapes or an INVALID source stop makes its destination INVALID and faults its context. By element: products of integers and of
floating-point numbers, of a sparse A and with the checksum extension; sums, conversions, transposition; rows read and inserted; and the residue
that TCKV names. The model's own readings here: log entries 17, 19, 45, 55 and 73 (seinj keeps its other bits). -/
def Obligations.MatrixEngine : Prop :=
  (∀ (s : State) (c : Nat), s.ev = .tileOpBegin c →
    let k := s.core c
    (k.engine.isSome = true ∨ k.fifo = [] ∨ s.stopped c = true → exec .tileOpBegin s = .next s) ∧
    ∀ e rest t₀ ts, k.engine = none → k.fifo = e :: rest → k.fifoAt = t₀ :: ts → s.stopped c = false →
      (s.now < t₀ → exec .tileOpBegin s = .next s) ∧
      (∀ f tile, t₀ ≤ s.now → k.tileCheck e = .error (f, tile) → exec .tileOpBegin s = .next (s.engineFault c e f tile)) ∧
      (∀ o, t₀ ≤ s.now → k.tileCheck e = .ok o → s.Yields .tileOpBegin fun t =>
        let bytes (i : Nat) : List Byte := (k.tiles.get {} i).bytes
        let moves := e.op = .tld ∨ e.op = .tst
        let run : EngineRun := { start := s.now, ends := s.now + e.duration, groups := if moves then (e.image.imageSize + 31) / 32 else 0
                                 srcA := bytes e.ta, srcB := bytes e.tb, srcD := bytes e.td }
        t.core c = { k with engine := some run } ∧ OnCore s t c ∧ s.Plans t (if moves then [] else [(s.now + e.duration, .tileOpComplete c)]))) ∧
  (∀ (s : State) (c : Nat) (e : TileEntry) (f : FaultCode) (tile : Nat), (s.core c).fifo = [e] → (s.core c).fifoAt.length = 1 →
    e.op.writesTile = true → (s.ctx c e.ctx).pair = false → (s.ctx c e.ctx).standing = .active → (s.ctx c e.ctx).pend = none →
    let t := s.engineFault c e f tile
    ((t.core c).tiles.get {} e.td).st = .invalid ∧ (∀ i, i ≠ e.td → (t.core c).tiles.get {} i = (s.core c).tiles.get {} i) ∧
    (t.core c).fifo = [] ∧ (t.core c).engine = none ∧ (t.core c).lmem = (s.core c).lmem ∧ t.mem = s.mem ∧
    ∃ r, (t.ctx c e.ctx).pend = some r ∧ r.cause = f ∧ r.sub = tile ∧ r.dfr = true ∧ r.rblk = e.rblk ∧ r.rslot = e.rslot) ∧
  (∀ (s : State) (c : Nat), s.ev = .tileOpComplete c →
    let k := s.core c
    (k.engine = none ∨ k.fifo = [] ∨ (k.engine.all fun r => r.ends != s.now || r.group != r.groups) = true →
      exec .tileOpComplete s = .next s) ∧
    ∀ e rest r, k.engine = some r → k.fifo = e :: rest → r.ends = s.now → r.group = r.groups →
      let next : List (Nat × Event) := [(s.now, .tileOpBegin c)]
      let popped (k : Core) : Core := { k with fifo := rest, fifoAt := k.fifoAt.drop 1, engine := none }
      let events (t : State) (ev : List (Nat × Nat)) : Prop := ∀ n, (t.core c).incs.get 0 n =
        k.incs.get 0 n + ((ev.filter fun x => 0x030 + x.1 == n).map (·.2)).sum
      (e.op = .tst → s.Yields .tileOpComplete fun t => t.core c = popped k ∧ OnCore s t c ∧ s.Plans t next) ∧
      (e.op = .tld → s.Yields .tileOpComplete fun t =>
        t.core c = popped { k with tiles := k.tiles.put e.td ⟨.full, tileOfImage e.image r.srcD⟩ } ∧ OnCore s t c ∧ s.Plans t next) ∧
      (∀ o, e.op ≠ .tst → e.op ≠ .tld → e.compute r.srcD r.srcA r.srcB = some o →
        (∀ bs, o.tile = some bs →
          let armed := k.seinj.getLsbD 0 = true ∧ k.seinj.toNat / 2 % 16 = e.td ∧ e.op ∈ [.tmma, .tmmas, .tmmac, .tadd, .tcvt]
          (¬ armed → s.Yields .tileOpComplete fun t =>
            { t.core c with incs := k.incs } = popped { k with tiles := k.tiles.put e.td ⟨.full, bs⟩ } ∧ events t o.ev ∧ OnCore s t c ∧ s.Plans t next) ∧
          (armed → s.Yields .tileOpComplete fun t =>
            let at_ := k.seinj.toNat / 2 ^ 5 % 2 ^ 12
            let tile := (t.core c).tiles.get {} e.td
            tile.st = .full ∧ (∀ i, i < 4608 → (fullTile tile.bytes).getD i 0 =
              (fullTile bs).getD i 0 ^^^ if i = at_ then BitVec.ofNat 8 (2 ^ (k.seinj.toNat / 2 ^ 17 % 8)) else 0) ∧
            (t.core c).seinj = k.seinj &&& ~~~ 1 ∧ events t o.ev ∧ OnCore s t c)) ∧
        (∀ v, o.tile = none → o.reg = some v → s.Yields .tileOpComplete fun t =>
          { t.core c with incs := k.incs } = popped k ∧ events t o.ev ∧ OnCore s t c ∧
          s.Plans t ((s.now, .producerCompletion c e.ctx (if e.op = .tckv then .gr else .vr) e.reg v true e.id) :: next)))) ∧
  -- what operations on integer tiles deliver
  (∀ (acc : Nat) (d a b : Shape) (dB aB bB : List Byte), mulShapes false false d a b = true → a.code = 6 → acc < 3 →
    ∃ bs, multiply false false acc d a b dB aB bB = some { tile := some bs } ∧ ∀ i j, i < d.rows → j < d.cols →
      let x := (List.range a.cols).foldl (fun t k => t + (tileElem a 8 aB i k).toInt * (tileElem b 8 bB k j).toInt) 0
      let o := (tileElem d 32 dB i j).toInt
      tileElem d 32 bs i j = BitVec.ofInt 32 (if acc = 0 then x else if acc = 1 then o + x else o - x)) ∧
  (∀ (d a b : Shape) (aB bB : List Byte) (o : TileOut), addTiles d a b aB bB = some o → d.code = 4 → ∃ bs, o.tile = some bs ∧
    ∀ i j, i < d.rows → j < d.cols → tileElem d 32 bs i j = tileElem a 32 aB i j + tileElem b 32 bB i j) ∧
  (∀ (d a : Shape) (aB : List Byte) (o : TileOut), transposeTile d a aB = some o → a.code = 4 → ∃ bs, o.tile = some bs ∧
    ∀ i j, i < d.rows → j < d.cols → tileElem d 32 bs i j = tileElem a 32 aB j i) ∧
  (∀ (a : Shape) (aB : List Byte) (i : W64) (r half : Nat), rowSegment a i = some (r, half) → ∃ v, rowOut a aB i = some { reg := some v } ∧
    ∀ k, k < 128 → lane v 8 k = if 128 * half + k < a.rowBytes then (fullTile aB).getD (r * a.rowBytes + 128 * half + k) 0 else 0) ∧
  (∀ (h : Shape) (i : W64), let r := i.toNat % 64
    let half := i.toNat / 64 % 2
    rowSegment h i = if h.valid = true ∧ i.toNat < 128 ∧ r < h.rows ∧ (half = 1 → 128 < h.rowBytes) then some (r, half) else none) ∧
  (∀ (d : Shape) (dB : List Byte) (i : W64) (x : V1024) (m : W32) (r half : Nat), rowSegment d i = some (r, half) →
    ∃ bs, rowIn d dB i x m = some { tile := some bs } ∧ ∀ k, k < 4608 →
      let first := r * d.rowBytes + 128 * half
      bs.getD k 0 = if first ≤ k ∧ k < (r + 1) * d.rowBytes ∧ k < first + 128 ∧ m.getLsbD ((k - first) / 4) = true then lane x 8 (k - first)
        else (fullTile dB).getD k 0) ∧
  -- a sparse A: an unmarked position is a zero, a malformed metadata word no tile
  (∀ (acc : Nat) (d a b : Shape) (dB aB bB : List Byte), mulShapes true false d a b = true → a.code = 6 → acc < 3 →
    let word (i g : Nat) : Nat := sideByte aB (2 * (i * (a.cols / 6) + g)) + 256 * sideByte aB (2 * (i * (a.cols / 6) + g) + 1)
    let marked (i q : Nat) : Bool := (word i (q / 12)).testBit (q % 12)
    let sound (i g : Nat) : Prop := word i g < 2 ^ 12 ∧ (List.range 12).countP (fun q => (word i g).testBit q) = 6
    ((∃ i g, i < a.rows ∧ g < a.cols / 6 ∧ ¬ sound i g) → multiply true false acc d a b dB aB bB = none) ∧
    ((∀ i g, i < a.rows → g < a.cols / 6 → sound i g) → ∃ bs, multiply true false acc d a b dB aB bB = some { tile := some bs } ∧
      ∀ i j, i < d.rows → j < d.cols →
        let stored (q : Nat) : Nat := 6 * (q / 12) + (List.range (q % 12)).countP fun p => (word i (q / 12)).testBit p
        let x := (List.range (2 * a.cols)).foldl (fun t q =>
          t + (if marked i q then (tileElem a 8 aB i (stored q)).toInt else 0) * (tileElem b 8 bB q j).toInt) 0
        let o := (tileElem d 32 dB i j).toInt
        tileElem d 32 bs i j = BitVec.ofInt 32 (if acc = 0 then x else if acc = 1 then o + x else o - x))) ∧
  -- the checksum extension of integers
  (∀ (acc : Nat) (d a b : Shape) (dB aB bB : List Byte), mulShapes false true d a b = true → a.code = 6 → acc < 3 →
    let x (i q : Nat) : Int := (tileElem a 8 aB i q).toInt
    let y (q j : Nat) : Int := (tileElem b 8 bB q j).toInt
    let sum (n : Nat) (f : Nat → Int) : Int := (List.range n).foldl (fun t k => t + f k) 0
    let gives (k : Nat) (bs : List Byte) (v : Int) : Prop :=
      let o := (tileSum dB k).toInt
      tileSum bs k = BitVec.ofInt 32 (if acc = 0 then v else if acc = 1 then o + v else o - v)
    ∃ bs, multiply false true acc d a b dB aB bB = some { tile := some bs } ∧
      (∀ i, i < d.rows → gives i bs (sum a.cols fun q => x i q * sum b.cols fun j => y q j)) ∧
      (∀ j, j < d.cols → gives (64 + j) bs (sum a.cols fun q => (sum a.rows fun i => x i q) * y q j)) ∧
      ∀ i j, i < d.rows → j < d.cols → ∃ c, multiply false false acc d a b dB aB bB = some { tile := some c } ∧
        tileElem d 32 bs i j = tileElem d 32 c i j) ∧
  -- floating-point products: each element is the chain of its groups of 32 exact products
  (∀ (ext : Bool) (acc : Nat) (d a b : Shape) (dB aB bB : List Byte), mulShapes false ext d a b = true → a.code ≠ 6 → acc < 3 →
    ∃ bs ev, multiply false ext acc d a b dB aB bB = some { tile := some bs, ev := ev } ∧ ∀ i j, i < d.rows → j < d.cols →
      let ps := (List.range a.cols).map fun q => (product (tileVal a aB i q) (tileVal b bB q j)).v
      tileBits d bs i j = bits32 (chain ps (if acc = 0 then none else some (tileVal d dB i j)) (acc == 2)).v) ∧
  -- the same of a sparse A, and the checksum extension
  (∀ (acc : Nat) (d a b : Shape) (dB aB bB : List Byte), mulShapes true false d a b = true → a.code ≠ 6 → acc < 3 →
    let at_ (i g : Nat) : Nat := 2 * (i * (a.cols / 6) + g) + if a.bfx then a.rows * a.cols / 16 else 0
    let word (i g : Nat) : Nat := sideByte aB (at_ i g) + 256 * sideByte aB (at_ i g + 1)
    let sound (i g : Nat) : Prop := word i g < 2 ^ 12 ∧ (List.range 12).countP (fun q => (word i g).testBit q) = 6
    ((∃ i g, i < a.rows ∧ g < a.cols / 6 ∧ ¬ sound i g) → multiply true false acc d a b dB aB bB = none) ∧
    ((∀ i g, i < a.rows → g < a.cols / 6 → sound i g) → ∃ bs ev, multiply true false acc d a b dB aB bB = some { tile := some bs, ev := ev } ∧
      ∀ i j, i < d.rows → j < d.cols →
        let stored (q : Nat) : Nat := 6 * (q / 12) + (List.range (q % 12)).countP fun p => (word i (q / 12)).testBit p
        let x (q : Nat) : FVal := if (word i (q / 12)).testBit (q % 12) then tileVal a aB i (stored q) else .fin false 0 0
        let ps := (List.range (2 * a.cols)).map fun q => (product (x q) (tileVal b bB q j)).v
        tileBits d bs i j = bits32 (chain ps (if acc = 0 then none else some (tileVal d dB i j)) (acc == 2)).v)) ∧
  (∀ (acc : Nat) (d a b : Shape) (dB aB bB : List Byte), mulShapes false true d a b = true → a.code ≠ 6 → acc < 3 →
    let sum (n : Nat) (f : Nat → FVal) : FVal := (chain ((List.range n).map f) none false).v
    let dot (n : Nat) (f g : Nat → FVal) : FVal := sum n fun q => (product (f q) (g q)).v
    let gives (k : Nat) (bs : List Byte) (v : FVal) : Prop := (tileSum bs k).toNat = if acc = 0 then bits32 v else
      (finish .f32 0 (addExact (unpack .f32 (tileSum dB k).toNat) (if acc = 1 then v else v.flip))).1
    ∃ bs ev, multiply false true acc d a b dB aB bB = some { tile := some bs, ev := ev } ∧
      (∀ i, i < d.rows → gives i bs (dot a.cols (fun q => tileVal a aB i q) fun q => sum b.cols fun j => tileVal b bB q j)) ∧
      ∀ j, j < d.cols → gives (64 + j) bs (dot a.cols (fun q => sum a.rows fun i => tileVal a aB i q) fun q => tileVal b bB q j)) ∧
  (∀ x y : FVal, (x.isNan = true ∨ y.isNan = true → (product x y).v.isNan = true) ∧
    ∀ n m k e l g, x = .fin n k e → y = .fin m l g → (product x y).v = .fin (n != m) (k * l) (e + g)) ∧
  (∀ (ps g : List FVal) (c : FVal) (c0 : Option FVal) (sub : Bool), (chain [] (some c) sub).v = c ∧
    (g ≠ [] → g.length ≤ 32 → (chain g none sub).v = (groupSum g).v ∧
      (ps.length % 32 = 0 → c0 ≠ none ∨ ps ≠ [] → (chain (ps ++ g) c0 sub).v =
        unpack .f32 (round .f32 0 (addExact (chain ps c0 sub).v (if sub then (groupSum g).v.flip else (groupSum g).v)).1).1))) ∧
  (∀ ps : List FVal,
    ((∃ p ∈ ps, p.isNan = true) ∨ (.inf true ∈ ps ∧ .inf false ∈ ps) → (groupSum ps).v.isNan = true) ∧
    (∀ n, (∀ p ∈ ps, p.isNan = false ∧ p ≠ .inf (!n)) → .inf n ∈ ps → (groupSum ps).v = .inf n) ∧
    ((∀ p ∈ ps, ∃ n m e, p = .fin n m e) → ∃ n m e, (groupSum ps).v = unpack .f32 (round .f32 0 (.fin n m e false)).1 ∧
      ∀ lo, lo ≤ e → (∀ p ∈ ps, p.above lo) → let sum := (ps.map (FVal.inUnits lo)).sum
        inUnits n m e lo = sum ∧ (sum = 0 → (n = true ↔ ∀ p ∈ ps, p.neg = true ∧ p.isZero = true)))) ∧
  (∀ (x y : List FVal) (c0 : Option FVal) (sub : Bool), x ≠ [] → y ≠ [] → let r := mulElem x y c0 sub
    ((5, 1) ∈ r.2 ↔ (unpack .f32 r.1).isNan = true) ∧
    ((9, 1) ∈ r.2 ↔ ∃ n m e, unpack .f32 r.1 = .fin n m e ∧ 0 < m ∧ m < 2 ^ 23)) ∧
  -- sums and conversions of floating-point tiles
  (∀ (d a b : Shape) (aB bB : List Byte) (o : TileOut), addTiles d a b aB bB = some o → ∃ bs, o.tile = some bs ∧
    ∀ i j, i < d.rows → j < d.cols → tileBits d bs i j = if d.fmt.isFloat = true then
        (finish d.fmt 0 (addExact (unpack d.fmt (tileBits a aB i j)) (unpack d.fmt (tileBits b bB i j)))).1
      else (tileBits a aB i j + tileBits b bB i j) % 2 ^ d.fmt.width) ∧
  (∀ (d a : Shape) (aB : List Byte) (m : Nat) (o : TileOut), convertTile d a aB m = some o → ∃ bs, o.tile = some bs ∧
    (a.code = d.code → ∀ i j, i < d.rows → j < d.cols → tileBits d bs i j = tileBits a aB i j ∧
      (a.bfx = true → tileVal d bs i j = tileVal a aB i j)) ∧
    (a.code ≠ d.code → d.bfx = false → ∀ i j, i < d.rows → j < d.cols → tileBits d bs i j =
      if a.bfx = true then (finish d.fmt m ((tileVal a aB i j).exact, [])).1 else (convert d.fmt a.fmt (tileBits a aB i j) 0 m).1) ∧
    (a.code ≠ d.code → d.bfx = true → ∀ i k, i < d.rows → k < d.cols / 32 →
      let q := quantise (d.code == 7) ((List.range 32).map fun j => tileVal a aB i (32 * k + j))
      let o := 2 * (i * (d.cols / 32) + k)
      sideByte bs o = q.2.1 ∧ sideByte bs (o + 1) = q.2.2.1 ∧ ∀ j, j < 32 → tileBits d bs i (32 * k + j) = q.1.getD j 0)) ∧
  -- TCKV: the row and the column of the largest residue over the tolerance
  (∀ (a : Shape) (aB : List Byte) (tau : Nat), a.valid = true → a.ck = true →
    let exactly (v : Int) : FVal := .fin (decide (v < 0)) v.natAbs 0
    let tol := if a.code = 4 then exactly (BitVec.ofNat 32 tau).toInt else unpack .f32 (tau % 2 ^ 32)
    let excess (n : Nat) (at_ : Nat → Nat × Nat) (k : Nat) : FVal :=
      if a.code = 4 then
        let x := (List.range n).foldl (fun t j => t + (tileElem a 32 aB (at_ j).1 (at_ j).2).toInt) 0
        .fin false (BitVec.ofInt 32 (x - (tileSum aB k).toInt)).toInt.natAbs 0
      else residue (chain ((List.range n).map fun j => tileVal a aB (at_ j).1 (at_ j).2) none false).v (unpack .f32 (tileSum aB k).toNat)
    let row := worst tol ((List.range a.rows).map fun i => excess a.cols (fun j => (i, j)) i)
    let col := worst tol ((List.range a.cols).map fun j => excess a.rows (fun i => (i, j)) (64 + j))
    checkTile a aB tau = some (col * 2 ^ 32 + row, decide (row ≠ 2 ^ 32 - 1 ∨ col ≠ 2 ^ 32 - 1))) ∧
  (∀ (tol : FVal) (rs : List FVal),
    let above (r : FVal) : Prop := r.isNan = true ∨ tol.isNan = true ∨ (tol.below r = true ∧ tol.eqv r = false)
    let greater (r q : FVal) : Prop := q.isNan = false ∧ (r.isNan = true ∨ (q.below r = true ∧ q.eqv r = false))
    ((∀ r ∈ rs, ¬ above r) → worst tol rs = 2 ^ 32 - 1) ∧
    ((∃ r ∈ rs, above r) → ∃ r, rs[worst tol rs]? = some r ∧ above r ∧
      ∀ j q, rs[j]? = some q → above q → ¬ greater q r ∧ (j < worst tol rs → greater r q))) ∧
  (∀ (n m : Bool) (k l : Nat) (e g : Int),
    (residue (.inf n) (.inf m)) = (if n = m then .nan false else .inf false) ∧ residue (.inf n) (.fin m k e) = .inf false ∧
    residue (.fin n k e) (.inf m) = .inf false ∧ ∃ u h, residue (.fin n k e) (.fin m l g) = .fin false u h ∧
      ∀ lo, lo ≤ e → lo ≤ g → lo ≤ h ∧ u * 2 ^ (h - lo).toNat = (inUnits n k e lo - inUnits m l g lo).natAbs)

/-- R252 to R258: the elements and runs of a copy command; the checks when it is received, after the walks they need; it begins in queue order and
reads one run a cycle, each as long as it can be; what the checks of a descriptor, of a completion location and of each side of a run answer (R255,
R256, R258); a run's bytes go on when they are there, but not before those of an earlier run that writes some of the same bytes; when all is written
and the completion join accepted, gN holds the byte count. A fault stops it and makes gN INVALID. The model's own readings here: log entries 24 (the
order of the checks within a run, what a fault drops, the address that a TSHAPE names), 57 and 59. -/
def Obligations.CopyEngine : Prop :=
  (∀ (m : CopyCmd) (k : Nat),
    let i0 := k % m.sx 0
    let i1 := k / m.sx 0 % m.sx 1
    let i2 := k / (m.sx 0 * m.sx 1)
    let j0 := k % m.dx 0
    let j1 := k / m.dx 0 % m.dx 1
    let j2 := k / (m.dx 0 * m.dx 1)
    BitVec.ofNat 64 (m.src k) = BitVec.ofInt 64 (m.word 0 + i2 * m.ss 2 + i1 * m.ss 1 + i0 * m.ss 0) ∧
    BitVec.ofNat 64 (m.dst k) = BitVec.ofInt 64 (if m.swap then m.word 1 + i2 * m.ds 2 + i0 * m.ds 1 + i1 * m.ds 0
      else m.word 1 + j2 * m.ds 2 + j1 * m.ds 1 + j0 * m.ds 0)) ∧
  (∀ (m : CopyCmd) (fuel k n : Nat), m.runFrom fuel k = n → 1 ≤ n ∧ n ≤ fuel + 1 ∧ ∀ i, 0 < i → i < n → k + i < m.count ∧
    m.src (k + i) = m.src k + i * m.size ∧ m.dst (k + i) = m.dst k + i * m.size ∧ m.src (k + i) / 32 = m.src k / 32 ∧
    m.dst (k + i) / 32 = m.dst k / 32) ∧
  (∀ (m : CopyCmd) (fuel k n : Nat), m.runFrom fuel k = n → n ≤ fuel → ¬ (k + n < m.count ∧ m.src (k + n) = m.src (k + n - 1) + m.size ∧
    m.dst (k + n) = m.dst (k + n - 1) + m.size ∧ m.src (k + n) / 32 = m.src k / 32 ∧ m.dst (k + n) / 32 = m.dst k / 32)) ∧
  -- what the checks of a descriptor answer, the translations that they need at hand
  (∀ (s : State) (c : Nat) (m : CopyCmd),
    let undef (i : Nat) : Prop := i ≤ 7 ∧ (i = 7 → m.cmode ≠ 0) ∧ (m.ox.getD i {}).st ≠ .full
    let shape (va : Nat) : Prop := s.checkCopy c m = .ok (some { code := .tshape, va := va })
    let known (va : Nat) : Prop := (s.copyPage c m va).isSome = true
    let ranges := bitsOf (m.word 2) 58 6 = 0 ∧ bitsOf (m.word 3) 48 16 = 0 ∧ m.esz < 6 ∧ m.cmode < 3 ∧ (m.windowed = false → m.win = 0) ∧
      if m.swap then m.dx 0 = m.sx 1 ∧ m.dx 1 = m.sx 0 ∧ m.dx 2 = m.sx 2 else m.dx 0 * m.dx 1 * m.dx 2 = m.count
    let runs := ∀ j, j < m.count / 32 → m.runFrom 31 (32 * j) = 16 ∧ m.runFrom 31 (32 * j + 16) = 16
    -- the offset of an address in the window, its page being an alias page in the range
    let off (va : Nat) : Option Nat := (s.copyLeaf c m va).bind fun l =>
      let w := (s.pkg (paPkg (l.pa va))).windows.get {} m.win
      if w.v = true ∧ l.isAlias = true ∧ w.abase * 65536 ≤ l.pa va ∧ l.pa va < w.abase * 65536 + 64 * w.nblk then
        some (l.pa va - w.abase * 65536) else none
    let side (x0 : Nat) (s0 : Int) (at_ : Nat → Nat) : Prop := m.esz = 1 ∧ s0 = 2 ∧ x0 % 32 = 0 ∧ runs ∧
      ∀ j, j < m.count / 32 → ∃ o, off (at_ (32 * j)) = some o ∧ o % 64 = 0
    let paired : Prop := ∀ w, (∃ l, s.copyLeaf c m (m.word 1) = some l ∧ w = (s.pkg (paPkg (l.pa (m.word 1)))).windows.get {} m.win) →
      w.sfill = true → pairsWhole ((List.range (m.count / 32)).map fun j => (off (m.dst (32 * j))).getD 0 / 64) = true
    let reads := (off (m.word 0)).isSome = true ∧ off (m.word 1) = none ∧ side (m.sx 0) (m.ss 0) m.src
    let writes := off (m.word 0) = none ∧ (off (m.word 1)).isSome = true ∧ side (m.dx 0) (m.ds 0) m.dst ∧ paired
    let a := m.word 7
    let cloc (k : FaultCode) : Prop := s.checkCopy c m = .ok (some { code := k, va := a })
    (∀ i, undef i → (∀ j, j < i → ¬ undef j) → s.checkCopy c m = .ok (some (vundef .ox i (m.ox.getD i {}).st))) ∧
    ((∀ i, ¬ undef i) → (¬ ranges → shape 0) ∧ (ranges → m.windowed = true → known (m.word 0) → known (m.word 1) →
      (∀ j, j < m.count / 32 → known (m.src (32 * j)) ∧ known (m.dst (32 * j))) → ¬ reads → ¬ writes → shape (m.word 1)) ∧
      (ranges → (m.windowed = false ∨ (known (m.word 0) ∧ known (m.word 1) ∧
          (∀ j, j < m.count / 32 → known (m.src (32 * j)) ∧ known (m.dst (32 * j))) ∧ (reads ∨ writes))) →
        (m.cmode = 0 → s.checkCopy c m = .ok none) ∧
        (m.cmode ≠ 0 → known a →
          let v : W64 := BitVec.ofNat 64 (if m.cmode = 1 then m.count * m.size else 1)
          (0x60000 ≤ a ∧ a < 0x100000 → cloc .lbound) ∧ (a < 0x60000 → cloc .prot) ∧ (2 ^ 48 ≤ a → cloc .xlat) ∧
          (0x100000 ≤ a ∧ a < 2 ^ 48 → (s.copyLeaf c m a = none → cloc .xlat) ∧ ∀ l, s.copyLeaf c m a = some l →
            let page := l.isAlias = false ∧ l.cls = .lat ∧ l.wr = true
            let loc := l.lat.ty = .cnt ∧ l.lat.fits v = true
            (¬ page → cloc .prot) ∧ (page → ¬ loc → cloc .ltype) ∧ (page → loc → a % 2 ^ l.lat.width ≠ 0 → cloc .align) ∧
            (page → loc → a % 2 ^ l.lat.width = 0 → s.checkCopy c m = .ok none)))))) ∧
  (∀ (s : State) (c : Nat) (m : CopyCmd) (vas : List Nat), OnCore s (s.touchAll c m vas) c ∧ (s.touchAll c m vas).agenda = s.agenda ∧
    ∀ va l, s.leaf? c m.asid m.gen va = some l → 0x100000 ≤ va ∧ va < 2 ^ 48 →
      s.touchAll c m (va :: vas) = (s.modCore c fun k => { k with tlb := tlbPut k.tlb 64 ⟨m.asid, m.gen, vpageOf l.big va, l⟩ }).touchAll c m vas) ∧
  -- what the check of one side of a run of n bytes at the address a answers
  (∀ (s : State) (c : Nat) (r : CopyRun) (a n : Nat) (dst : Bool),
    let m := r.cmd
    let is (x : Side) : Prop := s.copySide c r a n dst = x
    let thru := if dst then m.dstAlias else m.srcAlias
    (a < 0x60000 → is (if a + n ≤ 0x60000 then .local else .fault .lbound)) ∧ (0x60000 ≤ a ∧ a < 0x100000 → is (.fault .lbound)) ∧
    (2 ^ 48 ≤ a → is (.fault .xlat)) ∧
    (0x100000 ≤ a ∧ a < 2 ^ 48 →
      (s.leaf? c m.asid m.gen a = none → is (if a ∈ r.noMap then .fault .xlat else .walk)) ∧
      ∀ l, s.leaf? c m.asid m.gen a = some l →
        (thru = true → is (if dst = true ∧ l.wr = false then .fault .prot
          else if ((s.runWin c r).offset? l a).isSome then .page l else .fault .tshape)) ∧
        (thru = false → l.isAlias = true ∨ (dst = true ∧ l.wr = false) → is (.fault .prot)) ∧
        (thru = false → l.isAlias = false → (dst = true → l.wr = true) →
          (l.cls = .sched → is (.fault .prot)) ∧ (l.cls = .code → is (.page l)) ∧
          (l.cls = .priv → is (if l.owner ≠ c then .fault .prot
            else if dst = false ∧ (∃ e ∈ (s.core c).psb, frameKey e.pa = frameKey (l.pa a)) then .wait else .page l)) ∧
          (l.cls = .hostm →
            let run := (if m.ctx = 0 then (s.core c).lid else some m.lid).bind fun i => (s.pkg (pkgOf c)).runAt? i c
            is (if ∃ q, run = some q ∧ q.rc.strict = true then .fault .escape else .page l)) ∧
          (l.cls = .lat → dst = true → is (if l.lat.ty ≠ .fill then .fault .prot else if a % 4 ≠ 0 ∨ n % 4 ≠ 0 then .fault .align else .page l)) ∧
          (l.cls = .lat → dst = false → is (if l.lat.ty ≠ .fill ∧ l.lat.width ≠ m.esz then .fault .ltype else .page l))))) ∧
  (∀ (s : State) (c : Nat) (m : CopyCmd) (rest : List CopyCmd), s.ev = .copyCommandBegin c → (s.core c).copyq = m :: rest →
    (∀ q ∈ rest, q.id ≠ m.id ∧ (s.now < q.ready ∨ q.checked = true ∨ q.walking = true)) →
    let k := s.core c
    let fresh := m.ready ≤ s.now ∧ m.checked = false ∧ m.walking = false
    let held := (∃ r ∈ k.copying, r.readDone = false) ∨ s.stopped c = true ∨ s.now < k.copyNext
    let begins (q : CopyCmd) (tlb : List TlbEntry) : Prop := s.Yields .copyCommandBegin fun t =>
        t.core c = { k with copying := k.copying ++ [{ cmd := q, readDone := decide (m.count = 0) }], copyq := rest, tlb := tlb
                            copyNext := if m.count = 0 then s.now + 1 else k.copyNext } ∧ OnCore s t c ∧
        s.Plans t (if m.count = 0 then [(s.now, .copyCommandComplete c), (s.now + 1, .copyCommandBegin c)] else [(s.now, .copyRun c)])
    (∀ f, fresh → s.checkCopy c m = .ok (some f) → rest = [] → exec .copyCommandBegin s = .next (s.copyFault c m f)) ∧
    (∀ va, fresh → s.checkCopy c m = .error va → exec .copyCommandBegin s = .next
      ((s.modCmd c m.id fun q => { q with walking := true }).startWalk c 16 (2 * m.id) m.asid m.gen va none)) ∧
    (∀ sides, fresh → s.checkCopy c m = .ok none → s.windowSides c m = .ok (some sides) →
      let m' : CopyCmd := { m with checked := true, cleaf := s.copyLeaf c m (m.word 7), srcAlias := sides.1, dstAlias := sides.2
                                   wpkg := s.aliasPkg c m (m.word (if sides.2 then 1 else 0)) }
      -- the translations that the checks use become the most recently used ones (R204)
      let tlb := ((s.touchAll c m (m.lookups sides)).core c).tlb
      (held → s.Yields .copyCommandBegin fun t =>
        t.core c = { k with copyq := m' :: rest, tlb := tlb } ∧ OnCore s t c ∧ s.Plans t []) ∧ (¬ held → begins m' tlb)) ∧
    (m.checked = true → (held → exec .copyCommandBegin s = .next s) ∧ (¬ held → begins m k.tlb)) ∧
    (¬ fresh → m.checked = false → exec .copyCommandBegin s = .next s)) ∧
  (∀ (s : State) (c : Nat) (m : CopyCmd) (f : Cause) (p : Producer), (s.core c).copyq = [m] → (s.core c).copying = [] → m.g ≠ 0 →
    (s.ctx c m.ctx).pair = false → (s.ctx c m.ctx).gtid = m.gtid → (s.ctx c m.ctx).standing = .active → (s.ctx c m.ctx).pend = none →
    p ∈ (s.ctx c m.ctx).prods → p.id = m.id →
    let t := s.copyFault c m f
    (t.ctx c m.ctx).gReg m.g = {} ∧ (t.core c).copyq = [] ∧ t.mem = s.mem ∧ (t.core c).lmem = (s.core c).lmem ∧
    (s.now + 1, .copyCommandBegin c) ∈ t.agenda ∧
    ∃ r, (t.ctx c m.ctx).pend = some r ∧ r.cause = f.code ∧ r.sub = f.sub ∧ r.va = f.va ∧ r.dfr = true ∧ r.rblk = m.rblk ∧ r.rslot = m.rslot) ∧
  (∀ (s : State) (c : Nat), s.ev = .copyRun c →
    let k := s.core c
    ((∀ r ∈ k.copying, r.readDone = true) → exec .copyRun s = .next s) ∧
    ∀ r, k.copying.find? (fun r => !r.readDone) = some r → (∀ q ∈ k.copying, q.cmd.id = r.cmd.id → q = r) →
      let m := r.cmd
      let len := m.runFrom 31 r.k
      let n := len * m.size
      let a := m.src r.k
      let d := m.dst r.k
      let faults (f : FaultCode) (va : Nat) : Prop := exec .copyRun s = .next (s.copyFault c m { code := f, va := va })
      let use (b : List TlbEntry) (x : Side) (va : Nat) : List TlbEntry := match x with
        | .page l => tlbPut b 64 ⟨m.asid, m.gen, vpageOf l.big va, l⟩
        | _ => b
      (r.walking = true ∨ s.now < k.copyNext → exec .copyRun s = .next s) ∧
      (r.walking = false → k.copyNext ≤ s.now →
        (a % m.size ≠ 0 → faults .align a) ∧ (a % m.size = 0 → d % m.size ≠ 0 → faults .align d) ∧
        (a % m.size = 0 → d % m.size = 0 →
          let src := s.copySide c r a n false
          let dst := s.copySide c r d n true
          (∀ f, src = .fault f → faults f a) ∧
          (∀ f, src = .local ∨ (∃ l, src = .page l) → dst = .fault f → faults f d) ∧
          (src = .wait → s.Yields .copyRun fun t => t = { s with agenda := agendaInsert (s.now + 1) (.copyRun c) s.agenda }) ∧
          (∀ va, (src = .walk ∧ va = a) ∨ ((src = .local ∨ ∃ l, src = .page l) ∧ dst = .walk ∧ va = d) → exec .copyRun s = .next
            ((s.modCopy c m.id fun q => { q with walking := true }).startWalk c 16 (2 * m.id + 1) m.asid m.gen va none)) ∧
          -- a run read from local memory, its banks free
          (∀ l, src = .local → dst = .local ∨ (dst = .page l ∧ l.cls ≠ .hostm) →
            (∀ w ∈ wordsOf ((List.range n).map (a + ·)), w % 192 ∉ heldBanks s.now k.banks) → k.engine = none → s.Yields .copyRun fun t =>
              let last := m.count ≤ r.k + len
              let w := s.runWin c r
              let p : CopyPend := { run := r.run, k := r.k, len := len, dst := d, parts := if m.srcAlias then 2 else 1, win := w
                                    leaf := if dst = .local then none else some l
                                    off := if m.dstAlias = true ∧ dst ≠ .local then (w.offset? l d).getD 0 else 0 }
              ∃ r', r' = { r with k := r.k + len, run := r.run + 1, readDone := decide last, pend := r.pend ++ [p]
                                  bwin := some (r.k / 32, w), partners := r'.partners } ∧
                -- a block of a window with scales on FILL frames, and the one that shares its unit, see one entry of the window
                (m.dstAlias = false ∨ w.sfill = false ∨ r.bwin.map (·.1) = some (r.k / 32) → r'.partners = r.partners) ∧
                (m.dstAlias = true → w.sfill = true → r.bwin.map (·.1) ≠ some (r.k / 32) → (p.off / 64, w) ∉ r.partners →
                  r'.partners = r.partners ++ [(if p.off / 64 % 2 = 0 then p.off / 64 + 1 else p.off / 64 - 1, w)]) ∧
                t.core c = { k with copying := k.copying.map fun q => if q.cmd.id = m.id then r' else q
                                    tlb := use k.tlb dst d, copyNext := s.now + 1
                                    copyBanks := (wordsOf ((List.range n).map (a + ·))).map (· % 192) } ∧ OnCore s t c ∧
                s.Plans t [(s.now, .loadResult c 16 m.id 0 (2 * r.run) (k.readLocal a n) none),
                  (s.now + 1, if last then .copyCommandBegin c else .copyRun c)]) ∧
          -- a run read from a page of plain data
          (∀ l, src = .page l → l.cls = .priv ∨ l.cls = .code → m.srcAlias = false → m.dstAlias = false → dst = .local → ∃ v,
            let last := m.count ≤ r.k + len
            let q : Req := { kind := .read, pa := l.pa a, va := a, asid := m.asid, gen := m.gen, lid := m.lid, rblk := m.rblk, rslot := m.rslot
                             who := [⟨c, m.ctx, s.nextId, a, m.rblk, m.rslot, none⟩], code := decide (l.cls = .code), n := n
                             bytes := List.replicate n (some 0), ret := .copyRead m.id (2 * r.run) }
            let w := s.runWin c r
            let p : CopyPend := { run := r.run, k := r.k, len := len, dst := d, parts := 1, win := w }
            let r' : CopyRun := { r with k := r.k + len, run := r.run + 1, readDone := decide last, pend := r.pend ++ [p], bwin := some (r.k / 32, w) }
            v.core c = { k with copying := k.copying.map (fun q => if q.cmd.id = m.id then r' else q), tlb := use k.tlb src a
                                copyNext := s.now + 1 } ∧ OnCore { s with nextId := s.nextId + 1 } v c ∧
            v.agenda = s.agenda ∧
            exec .copyRun s = .next ((v.sendCounted (s.now + 2) c (.req (homeOf (l.pa a)) q)).sched (s.now + 1)
              (if last then .copyCommandBegin c else .copyRun c)))))) ∧
  -- a run's bytes arrive, and it is written unless an earlier run that writes some of the same bytes is not
  (∀ (s : State) (c slot tag : Nat) (bs : List Byte) (r : CopyRun) (p : CopyPend), s.ev = .loadResult c 16 r.cmd.id slot tag bs none →
    slot < 2 → isService c = false → (s.core c).copying = [r] → r.pend.find? (fun p => p.run == tag / 2) = some p → tag % 2 = 0 →
    p.parts = 1 → (∀ q ∈ r.pend, q = p ∨ (q.run ≠ p.run ∧ q.parts ≠ 0)) → r.cmd.srcAlias = false → r.cmd.dstAlias = false → p.dst < 0x60000 →
    let k := s.core c
    let earlier := ∃ q ∈ r.pend, q.run < p.run ∧ overlap (p.dst, p.len * r.cmd.size) (q.dst, q.len * r.cmd.size) = true
    (¬ earlier → s.Yields .loadResult fun t => t.core c = { k with received := k.received + slot, copying := [{ r with
        pend := r.pend.filter fun q => q.run != p.run
        localW := r.localW ++ [(if r.cmd.src p.k < 0x60000 then s.now + 4 else s.now + 1, p.dst, bs)] }] } ∧ OnCore s t c ∧ s.Plans t []) ∧
    (earlier → s.Yields .loadResult fun t => t.core c = { k with received := k.received + slot, copying := [{ r with
        pend := r.pend.map fun q => if q.run = p.run then { p with parts := 0, got := p.got.put 0 bs } else q }] } ∧ OnCore s t c ∧
      s.Plans t [])) ∧
  (∀ (s : State) (c : Nat) (r : CopyRun), s.ev = .copyCommandComplete c → (s.core c).copying = [r] →
    let m := r.cmd
    (r.moved = false → exec .copyCommandComplete s = .next s) ∧
    (r.moved = true → m.cmode = 0 ∨ r.joinSent = true → s.Yields .copyCommandComplete fun t =>
      (t.core c).copying = [] ∧ (∀ d, d ≠ c → t.core d = s.core d) ∧ t.mem = s.mem ∧
      (∀ n, (t.core c).incs.get 0 n = (s.core c).incs.get 0 n + ((r.ev.filter fun x => 0x030 + x.1 == n).map (·.2)).sum) ∧
      (m.g = 0 → ∀ x, t.ctx c x = s.ctx c x) ∧
      (m.g ≠ 0 → (s.ctx c m.ctx).pair = false → (∃ p ∈ (s.ctx c m.ctx).prods, p.id = m.id) →
        (t.ctx c m.ctx).gReg m.g = ⟨.full, BitVec.ofNat 64 (m.count * m.size)⟩)) ∧
    (∀ l, r.moved = true → m.cmode ≠ 0 → r.joinSent = false → m.cleaf = some l → ∃ v,
      let q : Req := { kind := .join, pa := l.pa (m.word 7), va := m.word 7, lat := l.lat, val := if m.cmode = 1 then m.count * m.size else 1
                       asid := m.asid, gen := m.gen, lid := m.lid
                       who := [⟨c, m.ctx, s.nextId, m.word 7, m.rblk, m.rslot, some m.id⟩] }
      v.core c = { s.core c with copying := [{ r with joinSent := true, outw := 1 }] } ∧ OnCore { s with nextId := s.nextId + 1 } v c ∧
      v.agenda = s.agenda ∧
      exec .copyCommandComplete s = .next ((v.countSent c).sched (s.now + 1) (.combineMerge (routerOf c) (homeOf q.pa) { q with held := true }))))

/-- R265, R266, R299, R300, R330, R374: stream flits. One that leaves an output queue reaches the neighbour; one that is ejected enters its input
queue of 8 flits, a debug marker setting or ending the hold; one that reaches a router waits for its entry, is copied through the output mask of a
forward set, or completes the flits that a combine set or a marker step needs. A combine set sends one join of a flit from each port 4 cycles later;
a marker step sends one marker on and makes the next set current. -/
def Obligations.StreamRouters : Prop :=
  (∀ (s : State) (router port n : Nat) (f : Flit), s.ev = .streamFlitForward router port f → 16 ≤ port →
    let d := dirOf (port - 16)
    let k := s.core router
    (neighbour router d = some n → s.Yields .streamFlitForward fun t =>
      t.core router = { k with linkOut := k.linkOut.put d.num ((k.linkOut.get [] d.num).drop 1) } ∧ OnCore s t router ∧
      s.Plans t [(s.now + meshTime router n, .streamFlitForward n d.opp.num f)]) ∧
    (neighbour router d = none → exec .streamFlitForward s = .next s)) ∧
  (∀ (s : State) (c q : Nat) (f : Flit), s.ev = .streamFlitForward c (8 + q) f → q < 8 →
    let k := s.core c
    let full := 8 ≤ (k.linkIn.get [] q).length ∨ k.streamIn.get [] (512 + q) ≠ []
    let k' : Core := if full then
        { k with received := k.received + 1, streamIn := k.streamIn.put (512 + q) (k.streamIn.get [] (512 + q) ++ [f]) }
      else { k with received := k.received + 1, linkIn := k.linkIn.put q (k.linkIn.get [] q ++ [f]) }
    let kind := f.word.toNat / 16 % 4
    (f.marker = false ∨ (kind ≠ 1 ∧ kind ≠ 2) → s.Yields .streamFlitForward fun t => t.core c = k' ∧ OnCore s t c ∧ s.Plans t []) ∧
    (f.marker = true → kind = 1 → s.Yields .streamFlitForward fun t => t.core c = { k' with hold := true } ∧ OnCore s t c ∧ s.Plans t []) ∧
    (f.marker = true → kind = 2 → ∀ r, s.runOf c 0 = some r → s.Yields .streamFlitForward fun t =>
      (∀ d, let before := if d = c then k' else s.core d
        t.core d = if pkgOf d = pkgOf c ∧ r.rc.rect.has d = true then { before with hold := false } else before) ∧
      { t with cores := s.cores } = s)) ∧
  -- a flit that is alone of its stream in its cycle
  (∀ (s : State) (router port : Nat) (f : Flit), s.ev = .streamFlitForward router port f → port < 8 →
    (∀ e ∈ s.agenda, e.1 ≤ s.now → ∀ p g, e.2 = .streamFlitForward router p g → p < 8 → g.strm ≠ f.strm) →
    let k := s.core router
    let e := k.streams.get {} f.strm
    let q := e.sets.getD e.cur {}
    let at_ (p : Nat) : List Flit := s.waitingAt router f.strm p
    let joins (t : State) (l : List (Nat × Event)) : Prop :=
      t.core router = { k with streamIn := k.streamIn.put (f.strm * 8 + port) (at_ port ++ [f]) } ∧ OnCore s t router ∧ s.Plans t l
    let head (p : Nat) : Option Flit := (at_ p ++ if p = port then [f] else []).head?
    (e.v = false → s.Yields .streamFlitForward fun t => joins t []) ∧
    (e.v = true → port ∈ q.ins → (∀ p ∈ q.ins, ∃ g, head p = some g ∧ g.isStep = true) →
      s.Yields .streamFlitForward fun t => joins t [(s.now, .markerStep router f.strm)]) ∧
    (e.v = true → port ∈ q.ins → s.entryWriteDue router f.strm = false →
      ((∃ p ∈ q.ins, head p = none) → q.op ≠ 0 → (∀ p ∈ q.ins, ∀ g, head p = some g → g.marker = false ∨ g.isStep = true) →
        s.Yields .streamFlitForward fun t => joins t []) ∧
      (q.op ≠ 0 → (∀ p ∈ q.ins, ∃ g, head p = some g ∧ g.marker = false) →
        s.Yields .streamFlitForward fun t => joins t [(s.now, .streamCombine router f.strm)]) ∧
      (q.op = 0 → q.meshOnly router → (∀ p ∈ q.ins, at_ p = []) → f.isStep = false → s.Yields .streamFlitForward fun t =>
        let out := s.streamCopies router q.out (queueOfPort router (if f.marker then q.ins.headD 0 else port)) 0 f
        { t.core router with streamIn := k.streamIn } = { k with received := k.received + 1, sent := k.sent + out.length } ∧
        (∀ i, (t.core router).streamIn.get [] i = k.streamIn.get [] i) ∧ OnCore s t router ∧ s.Plans t out))) ∧
  -- one flit from every port of a set, and nothing else of the stream waits
  (∀ (s : State) (router strm : Nat) (w : Nat → W64),
    let k := s.core router
    let e := k.streams.get {} strm
    let q := e.sets.getD e.cur {}
    let first := queueOfPort router (q.ins.headD 0)
    e.v = true → q.ins ≠ [] → q.meshOnly router →
    (s.ev = .streamCombine router strm → q.op ≠ 0 → (∀ p ∈ q.ins, s.waitingAt router strm p = [⟨false, strm, w p⟩]) →
      s.Yields .streamCombine fun t =>
        let out := s.streamCopies router q.out first 4 ⟨false, strm, combineWords q (q.ins.map w)⟩
        { t.core router with streamIn := k.streamIn } = { k with received := k.received + q.ins.length, sent := k.sent + out.length } ∧
        (∀ p, p < 8 → t.waitingAt router strm p = if p ∈ q.ins then [] else s.waitingAt router strm p) ∧ OnCore s t router ∧ s.Plans t out) ∧
    (s.ev = .markerStep router strm → (∀ p ∈ q.ins, s.waitingAt router strm p = [⟨true, strm, w p⟩] ∧ (w p).toNat / 16 % 4 = 0) →
      (∀ p, p < 8 → p ∉ q.ins → s.waitingAt router strm p = []) → s.Yields .markerStep fun t =>
        let out := s.streamCopies router q.out first 0 ⟨true, strm, w (q.ins.headD 0)⟩
        { t.core router with streamIn := k.streamIn } = { k with
          received := k.received + q.ins.length
          sent := k.sent + out.length
          streams := k.streams.put strm { e with cur := (e.cur + 1) % (e.nset + 1) } } ∧
        (∀ p, p < 8 → t.waitingAt router strm p = []) ∧ OnCore s t router ∧ s.Plans t out)) ∧
  (∀ (s : State) (router strm : Nat), let e := (s.core router).streams.get {} strm
    let q := e.sets.getD e.cur {}
    (s.ev = .streamCombine router strm → (∃ p ∈ q.ins, s.waitingAt router strm p = []) → exec .streamCombine s = .next s) ∧
    (s.ev = .markerStep router strm → (∃ p ∈ q.ins, s.waitingAt router strm p = []) → exec .markerStep s = .next s)) ∧
  (∀ a b : W64, let words (op : Nat) (sgn : Bool) : W64 := combineWords { op := op, width := 3, sgn := sgn } [a, b]
    words 8 false = (if a < b then b else a) ∧ words 8 true = (if a.slt b then b else a) ∧ words 9 false = (if b < a then b else a) ∧
    words 9 true = (if b.slt a then b else a) ∧ words 10 false = a ||| b ∧
    words 11 false = BitVec.ofNat 64 (min (a.toNat + b.toNat) (2 ^ 64 - 1)) ∧ words 12 false = a + b)

/-- R314 to R326: barrier objects. BINIT starts an object afresh and ends the wait of the thread that issued it; an arrival enters its thread and
may raise its core's lead counter, travels, as a drop does, to the root and counts there in its phase, one above the expected count or for a
complete phase raising BOVR; a phase whose arrivals equal its expected count, which is not 0, completes, once, and its completion reaches the
members, lowering their lead counters and waking those that wait for it; ECOMB words are added by word in the oldest phase that is not complete, or
that of their sender. The model's own readings here: log entries 28 and 47 (link messages of pod barriers). -/
def Obligations.BarrierObjects : Prop :=
  (∀ (s : State) (obj lid count c x : Nat), s.ev = .binitTakeEffect obj lid count c x →
    -- no other thread waits on the object, or holds an arrival to it
    (∀ d, barHas obj d = true → ∀ e ∈ (s.core d).ctxs, (∀ q, .bwt obj q ∉ e.2.after) ∧ ∀ b, e.2.blk = some b → b.complete = false) →
    s.Yields .binitTakeEffect fun t =>
      t.bar obj = { init := true, lid := lid, e := count, kInit := true, kLid := lid, kE := count, pkg := pkgOf c } ∧ (∀ o, o ≠ obj → t.bar o = s.bar o) ∧
      (∀ d, (t.core d).enrol = if barHas obj d then (s.core d).enrol.filter (fun e => e.bar != barId obj) else (s.core d).enrol) ∧
      (∀ d y, t.ctx d y = if d = c ∧ y ∈ s.team c x then { s.ctx d y with after := (s.ctx d y).after.erase .binit } else s.ctx d y) ∧
      (∀ d, { t.core d with ctxs := (s.core d).ctxs, enrol := (s.core d).enrol } = s.core d) ∧
      { t with cores := s.cores, bars := s.bars } = s) ∧
  (∀ (s : State) (obj c how : Nat) (counts drops : List (Nat × Nat)), s.ev = .barrierArrivalDepart obj c counts drops how →
    let o := s.bar obj
    let u := s.barTime obj
    let exp (p : Nat) : Int := o.e - ((o.reds.filter fun r => decide (r.1 ≤ p)).map fun r => (r.2 : Int)).sum
    let only (t : State) (l : List (Nat × Event)) : Prop := { t with bars := s.bars, agenda := s.agenda } = s ∧
      (∀ b, b ≠ obj → t.bar b = s.bar b) ∧ s.Plans t l
    -- the link messages of a pod barrier take a place in a descriptor on their way (R384)
    (how < 8 → exec .barrierArrivalDepart s = .next ((if barScope obj = 5 then s.barrierHop (pkgOf c) (s.podRoot obj) else s).sched (s.now + u)
      (.barrierArrivalDepart obj c counts drops (how + 8)))) ∧
    (∀ p x, 8 ≤ how → counts = [(p, x)] → drops = [] →
      (p < o.p ∨ exp p < o.counts.get 0 p + 1 → s.Yields .barrierArrivalDepart fun t => (t.bar obj).counts = o.counts ∧
        only t [(s.now + u, .deferredFault { core := c, ctx := x, cause := .bovr } .ctx 0 false), (s.now, .phaseComplete obj)]) ∧
      (o.p ≤ p → o.counts.get 0 p + 1 ≤ exp p → s.Yields .barrierArrivalDepart fun t =>
        (t.bar obj).counts.get 0 p = o.counts.get 0 p + 1 ∧ (∀ q, q ≠ p → (t.bar obj).counts.get 0 q = o.counts.get 0 q) ∧
        { t.bar obj with counts := o.counts, how := o.how } = o ∧
        (∀ q, (t.bar obj).how.get 0 q = if q = p then o.how.get 0 q ||| how % 8 else o.how.get 0 q) ∧
        only t [(s.now, .phaseComplete obj)])) ∧
    (∀ p n, 8 ≤ how → counts = [] → drops = [(p, n)] → s.Yields .barrierArrivalDepart fun t =>
      (t.bar obj).e = (if p ≤ o.p then o.e - n else o.e) ∧
      (∀ q, (t.bar obj).reds.get 0 q = if q = p ∧ o.p < p then o.reds.get 0 q + n else o.reds.get 0 q) ∧
      (∀ q, (t.bar obj).how.get 0 q = if q = p then o.how.get 0 q ||| how % 8 else o.how.get 0 q) ∧
      { t.bar obj with e := o.e, reds := o.reds, how := o.how } = o ∧ only t [(s.now, .phaseComplete obj)])) ∧
  (∀ (s : State) (obj : Nat), s.ev = .phaseComplete obj →
    let o := s.bar obj
    (o.init = false ∨ o.e ≤ 0 ∨ (o.counts.get 0 o.p : Int) ≠ o.e → exec .phaseComplete s = .next s) ∧
    (o.init = true → 0 < o.e → (o.counts.get 0 o.p : Int) = o.e → ∃ t : State,
      let e := o.e - ((o.reds.filter fun r => decide (r.1 ≤ o.p + 1)).map fun r => (r.2 : Int)).sum
      let b := t.bar obj
      b.p = o.p + 1 ∧ b.e = e ∧ (∀ q, b.reds.get 0 q = if q = o.p + 1 then 0 else o.reds.get 0 q) ∧
      (∀ q, b.counts.get 0 q = if q = o.p then 0 else o.counts.get 0 q) ∧
      b.news.get? o.p = some (e, o.how.get 0 o.p, o.recs.get (List.replicate 16 0) o.p) ∧
      (b.init, b.lid, b.kInit, b.kLid, b.kE, b.kP, b.kStat, b.kRec) = (o.init, o.lid, o.kInit, o.kLid, o.kE, o.kP, o.kStat, o.kRec) ∧
      (b.leads, b.pkg) = (o.leads, o.pkg) ∧
      { t with bars := s.bars } = s ∧ (∀ q, q ≠ obj → t.bar q = s.bar q) ∧
      let told := if barScope obj = 5 then (s.barPackages obj).foldl (fun u q => u.barrierHop (s.podRoot obj) q) t else t
      exec .phaseComplete s = .next ((told.sched (s.now + s.barTime obj) (.phaseCompletionArrive obj o.p)).sched s.now (.phaseComplete obj)))) ∧
  (∀ (s : State) (obj p : Nat), s.ev = .phaseCompletionArrive obj p →
    let o := s.bar obj
    (o.news.get? p = none → exec .phaseCompletionArrive s = .next s) ∧
    ∀ e how rec, o.news.get? p = some (e, how, rec) → s.Yields .phaseCompletionArrive fun t =>
      let woken (here : Bool) (u : Ctx) : Ctx :=
        if here then { u with after := u.after.filter fun w => match w with | .bwt b q => b != obj || decide (p < q) | _ => true } else u
      t.bar obj = { o with kP := p + 1, kE := e, kStat := how, kRec := rec, news := o.news.drop p
                           leads := o.leads.map fun l => (l.1, l.2 - (p + 1 - o.kP)) } ∧ (∀ b, b ≠ obj → t.bar b = s.bar b) ∧
      (∀ d y, t.ctx d y = woken (barHas obj d && !s.stopped d) (s.ctx d y)) ∧ (∀ d, { t.core d with ctxs := (s.core d).ctxs } = s.core d) ∧
      (∀ key lid k, s.images.get? key = some (lid, k) → ∃ k', t.images.get? key = some (lid, k') ∧ { k' with ctxs := k.ctxs } = k ∧
        ∀ y, k'.ctx y = woken (barHas obj (key / 65536) && o.kLid == lid) (k.ctx y)) ∧
      { t with bars := s.bars, cores := s.cores, images := s.images } = s) ∧
  (∀ (s : State) (obj phase : Nat) (vals : List Nat), s.ev = .ecombAdd obj phase vals → s.Yields .ecombAdd fun t =>
    let o := s.bar obj
    let q := max phase o.p
    let old := o.recs.get (List.replicate 16 0) q
    { t.bar obj with recs := o.recs } = o ∧ (∀ r, r ≠ q → (t.bar obj).recs.get? r = o.recs.get? r) ∧
    (old.length = 16 → vals.length = 16 → ∀ i, i < 16 →
      ((t.bar obj).recs.get [] q).getD i 0 = (old.getD i 0 + vals.getD i 0) % 2 ^ 64) ∧
    (∀ b, b ≠ obj → t.bar b = s.bar b) ∧ { t with bars := s.bars } = s) ∧
  -- a committed arrival
  (∀ (s : State) (c x b c0 : Nat) (drop : Bool), let t := s.releaseArrive c x b drop c0
    let old := (s.core c).enrolOf x b
    let q := s.nextPhase c x b
    (t.core c).enrolOf x b = some ⟨b, x, drop || old.any (·.dropped), q + 1⟩ ∧
    t.lead c b = max (s.lead c b) (q - (s.bar (barKey c b)).kP))

/-- R327, R329, R330, R332, R362: what runs on the clock. A heartbeat miss is recorded at each mesh neighbour, and the core is fenced alone. A
watchdog tells the host of each of its stages: it asks for a gang switch, kills every thread of the launch on the package, or fences the partition
and ends the launch. An energy window starts with the budget; an epoch takes the metered energy, which is free. A digest sum of a die's 64
crystallisers is ready 256 cycles after it is taken. The model's own readings here: log entries 5, 35 and 37 (the fence ends the launch on all its
packages). -/
def Obligations.ClockEvents : Prop :=
  (∀ (s : State) (c : Nat), s.ev = .heartbeatMiss c →
    let ns := [Dir.north, .east, .south, .west].filterMap (neighbour c)
    let p := posOf c
    ((s.core c).fenced = true → exec .heartbeatMiss s = .next s) ∧
    ((s.core c).fenced = false → s.Yields .heartbeatMiss fun t =>
      (∀ d, t.core d = if d ∈ ns then
          { s.core d with trapWait := (s.core d).trapWait ++
              [{ core := d, cause := .hbmiss, aux := BitVec.ofNat 64 (c / 32768 * 2 ^ 19 + c % 32768 * 16), tb := s.tbase (pkgOf c) }] }
        else s.core d) ∧
      { t with cores := s.cores, agenda := s.agenda } = s ∧
      s.Plans t (ns.map (fun n => (s.now, .trapRecordQueued n 0)) ++ [(s.now, .fence (pkgOf c) ⟨p.1, p.2, p.1, p.2⟩ .hbmiss)]))) ∧
  (∀ (s : State) (p lid : Nat),
    let told (st : WdogState) : Package := { (s.pkg p).editRun lid (fun r => { r with wst := st }) with out := (s.pkg p).out ++ [.wdog lid] }
    (s.ev = .watchdogPreempt p lid → s.Yields .watchdogPreempt fun t =>
      t.pkg p = told .preempt ∧ OnPkg s t p ∧ s.Plans t [(s.now, .gangSwitchRequest p lid)]) ∧
    (s.ev = .watchdogKill p lid → s.Yields .watchdogKill fun t =>
      t.pkg p = told .kill ∧ s.Killed t p lid ∧ (∀ c, pkgOf c ≠ p → t.core c = s.core c) ∧ (∀ q, q ≠ p → t.pkg q = s.pkg q) ∧
      t.mem = s.mem ∧ t.xtals = s.xtals) ∧
    (s.ev = .watchdogFence p lid → ((s.pkg p).runsOf lid = [] → exec .watchdogFence s = .next s) ∧
      ∀ r rest, (s.pkg p).runsOf lid = r :: rest → s.Yields .watchdogFence fun t =>
        t.pkg p = told .fence ∧ OnPkg s t p ∧ s.Plans t ((r :: rest).map (fun q => (s.now, .fence p q.rc.rect .wdog)) ++
          (r.rc.packages p).map fun q => (s.now, .launchEnd q lid (some .wdog))))) ∧
  (∀ (s : State) (d : Nat), s.ev = .energyWindowStart d → s.Yields .energyWindowStart fun t =>
    t.die d = { s.die d with erem := (s.die d).ebud.toNat, ewin := ((s.die d).ewin + 1) % 2 ^ 32 } ∧ OnDie s t d ∧
    s.Plans t ((s.cores.filter fun e => dieOf e.1 == d && !e.2.spawnq.isEmpty).map fun e => (s.now, .taskAdmission e.1))) ∧
  (∀ (s : State) (d : Nat), s.ev = .energyEpochEnd d → s.Yields .energyEpochEnd fun t =>
    t.die d = { s.die d with erem := (s.die d).erem - Config.epochEnergy s.free } ∧ OnDie { s with free := s.free + 1 } t d ∧ s.Plans t []) ∧
  (∀ (s : State) (d : Nat), s.ev = .digestSnapshot d → s.Yields .digestSnapshot fun t =>
    { t.die d with digr := (s.die d).digr, digrNext := (s.die d).digrNext } = s.die d ∧ OnDie s t d ∧ s.Plans t [] ∧
    (∀ slot, t.readyDigest d slot = s.readyDigest d slot) ∧
    ∀ slot, slot < 8 → State.readyDigest { t with now := s.now + 256 } d slot =
      ((List.range 64).map fun i => (s.xtal (d / 32 * 2048 + d % 32 * 64 + i)).digest.get 0 slot).sum % 2 ^ 64)

/-- R250, R374 to R378: the activity sums of a launch's partition are taken at a multiple of 1,024 cycles and judged 256 cycles later, on the
coordinator of a pod launch with those of every package; two that follow one another, with nothing active and equal counts of messages, are
quiescence, on which registered ranges are frozen, or the launch ends well if every thread has exited, else with DEADLK. While a part of the launch
is stopped there are no sums. What the sums count and what a DEADLK lists are as R374 and R376 say. The model's own readings here: log entries 5 and 33. -/
def Obligations.Quiescence : Prop :=
  (∀ a b : Sums, quiet a b = true ↔ (a.ready = 0 ∧ a.outst = 0 ∧ a.engine = 0 ∧ a.resend = 0 ∧ a.entries = 0 ∧ a.sent = a.received) ∧
    (b.ready = 0 ∧ b.outst = 0 ∧ b.engine = 0 ∧ b.resend = 0 ∧ b.entries = 0 ∧ b.sent = b.received) ∧ a.sent = b.sent) ∧
  -- what is counted, of the launch's cores on the package (R374)
  (∀ (s : State) (p lid : Nat),
    let rs := (s.pkg p).runsOf lid
    let cs := (s.cores.map (·.1)).filter fun c => pkgOf c == p && rs.any fun r => r.rc.rect.has c
    let every (f : Ctx → Nat) : Nat := (cs.map fun c => ((s.core c).ctxs.map fun e => f e.2).sum).sum
    let each (f : Core → Nat) : Nat := (cs.map fun c => f (s.core c)).sum
    -- waits of these cores that a waiter or overflow entry holds are neither outstanding nor in flight
    let held := (s.xtals.map fun e => (e.2.waiters ++ e.2.overflow).countP fun w => w.req.who.any fun q =>
      cs.contains q.core && (s.ctx q.core q.ctx).outs.any fun o => o.1 == q.id).sum
    let m := s.sumsOf p lid
    m.tb = s.tbase p ∧ m.ready = (cs.map fun c => (List.range 16).countP fun x => s.ctxState c x == 1).sum ∧
    m.sent = each (·.sent) ∧ m.received = each (·.received) + held ∧
    m.outst = every (·.outs.length) - held + (rs.map (·.frzOut)).sum ∧
    m.engine = each (fun k => k.fifo.length + k.copyq.length + k.copying.length) ∧
    m.resend = every (fun t => t.sends.length + t.delegs.length + t.spawns.length + (t.depart.any (·.waiting)).toNat) +
      (s.agenda.countP fun e => match e.2 with
        | .spawnResend _ sp => isService sp.fromCore && lidOf sp.gtid == lid
        | _ => false) ∧
    m.entries = each (fun k => k.spawnq.length + k.arrq.length) ∧
    -- the PARKED threads that a DEADLK lists, with what each waits on (R376)
    ∀ d : DeadEntry, d ∈ s.deadList p lid ↔ ∃ c ∈ cs, ∃ x, 0 < x ∧ x < 16 ∧ s.ctxState c x = 2 ∧
      let t := s.ctx c x
      t.retained = false ∧ (t.pair = true → x % 2 = 0) ∧ d.gtid = t.gtid ∧ d.core = c ∧ d.ctx = x ∧ d.blk = t.blkAddr ∧
      d.slot = (match t.blk with
        | some b => ((s.scanWait c x b).map (·.1)).getD 0
        | none => 0) ∧
      d.on = ((s.waitOf c x).map (·.on)).getD .commit ∧ d.tb = s.tbase (pkgOf c) ∧ d.pair = t.pair) ∧
  -- what a thread waits on: a barrier's phase, or the register of its first RD, with what is to fill it (R376)
  (∀ (s : State) (c x : Nat), let t := s.ctx c x
    (∀ o ph l, t.after = .bwt o ph :: l → (s.waitOf c x).map (·.on) = some (.barrier (barId o) ph)) ∧
    ∀ b, t.after = [] → t.blk = some b → b.firstAt ≤ s.now → b.loads = [] → (∀ q ∈ b.slots, q.walking = false) → b.complete = false →
      ∀ k q f r ts n, b.slots[k]? = some q → q.fired = false → q.instr? = some (.rd f r ts n) → t.regState f r.toNat = .empty →
        (∀ (j : Nat) (q' : Slot), j < k → b.slots[j]? = some q' → q'.fired = true) →
        let by_ := t.prods.find? fun e => e.file == f && e.reg == r.toNat
        (s.scanWait c x b).map (·.1) = some k ∧
        (s.waitOf c x).map (·.on) = some (.reg f r.toNat (by_.map (·.kind)) (by_.bind (·.loc)))) ∧
  -- the ranges registered by both copies of a launch, in the order of registration
  (∀ rs : List Run, (rangesOf rs).Pairwise (fun a b => a.1 ≤ b.1) ∧
    (rangesOf rs).Perm (rs.flatMap fun r => r.frzq.map fun e => (e.1, r.asid, e.2))) ∧
  (∀ (s : State) (p lid : Nat), s.ev = .quiescenceSum p lid →
    let k := s.pkg p
    (s.allRunning p lid = false → s.Yields .quiescenceSum fun t =>
      t.pkg p = k.editRun lid (fun r => { r with sums := none, newSums := none }) ∧ OnPkg s t p ∧ s.Plans t []) ∧
    (s.allRunning p lid = true → s.tbase p % 1024 = 0 → s.Yields .quiescenceSum fun t =>
      t.pkg p = k.editRun lid (fun r => { r with newSums := some (s.sumsOf p lid) }) ∧ OnPkg s t p ∧
      s.Plans t [(s.now + 256, .quiescenceSum p lid)]) ∧
    ∀ r sm, s.allRunning p lid = true → s.tbase p % 1024 ≠ 0 → k.run? lid = some r → r.newSums = some sm →
      (∀ q, r.rc.packages p = [q] → s.Yields .quiescenceSum fun t =>
        t.pkg p = k.editRun lid (fun r => { r with newSums := none, sums := some sm }) ∧ OnPkg s t p ∧
        s.Plans t (if r.sums.any (fun old => quiet old sm) then [(s.now, .quiescenceFound p lid)] else [])) ∧
      (2 ≤ (r.rc.packages p).length → ∃ v, v.pkg p = k.editRun lid (fun r => { r with newSums := none }) ∧ OnPkg s v p ∧ v.agenda = s.agenda ∧
        let coord := (r.rc.packages p).headD p
        exec .quiescenceSum s = .next (if coord = p then { v with agenda := agendaInsert s.now (.podSums lid p sm) s.agenda }
          else v.send s.now (p * 32768 + 26112) (.sums coord lid p sm)))) ∧
  (∀ (s : State) (lid p : Nat) (sm : Sums), s.ev = .podSums lid p sm →
    ((s.pkg p).run? lid = none → exec .podSums s = .next { s with podSums := s.podSums.drop lid }) ∧
    ∀ r, (s.pkg p).run? lid = some r →
      let coord := (r.rc.packages p).headD p
      let got := ((s.podSums.get [] lid).filter fun e => e.2.tb == sm.tb && e.1 != p) ++ [(p, sm)]
      let gone : State := { s with podSums := s.podSums.drop lid }
      (s.allRunning p lid = false → s.Yields .podSums fun t =>
        t.pkg coord = (s.pkg coord).editRun lid (fun r => { r with sums := none }) ∧ OnPkg gone t coord ∧ s.Plans t []) ∧
      (s.allRunning p lid = true → got.length < (r.rc.packages p).length → exec .podSums s = .next { s with podSums := s.podSums.put lid got }) ∧
      ∀ h, s.allRunning p lid = true → (r.rc.packages p).length ≤ got.length → (s.pkg coord).run? lid = some h → s.Yields .podSums fun t =>
        ∃ all : Sums, (all.ready = (got.map (·.2.ready)).sum ∧ all.sent = (got.map (·.2.sent)).sum ∧
            all.received = (got.map (·.2.received)).sum ∧ all.outst = (got.map (·.2.outst)).sum ∧ all.engine = (got.map (·.2.engine)).sum ∧
            all.resend = (got.map (·.2.resend)).sum ∧ all.entries = (got.map (·.2.entries)).sum) ∧
          t.pkg coord = (s.pkg coord).editRun lid (fun r => { r with sums := some all }) ∧ OnPkg gone t coord ∧
          s.Plans t (if h.sums.any (fun old => quiet old all) then [(s.now, .quiescenceFound coord lid)] else [])) ∧
  (∀ (s : State) (p lid : Nat), s.ev = .quiescenceFound p lid →
    ((s.pkg p).run? lid = none ∨ s.allRunning p lid = false → exec .quiescenceFound s = .next s) ∧
    ∀ r, (s.pkg p).run? lid = some r → s.allRunning p lid = true →
      let ps := r.rc.packages p
      let asked (q : Nat) : List (Nat × Nat) := (rangesOf ((s.pkg q).runsOf lid)).flatMap fun e => e.2.2.map fun pa => (e.2.1, pa)
      -- every package releases its own, a request a cycle, where the homes are on that package
      ((∃ q ∈ ps, ∃ r ∈ (s.pkg q).runsOf lid, r.frzq ≠ []) →
        (∀ q ∈ ps, ∀ a ∈ asked q, homeOf a.2 / 2048 = q ∧ homeOf a.2 % 2048 < 1536) → s.Yields .quiescenceFound fun t =>
        let svc (q : Nat) : Nat := q * 32768 + 26112
        let req (q asid pa : Nat) : Req := { kind := .freeze, pa := pa, va := pa, lat := ((s.frame pa).lat).getD {}, asid := asid
                                             gen := (s.pkg q).gens.get 0 asid, lid := lid, ret := .service q
                                             who := [⟨svc q, 0, lid, pa, 0, 0, none⟩] }
        { t with agenda := s.agenda, pkgs := s.pkgs } = s ∧ (∀ q, q ∉ ps → t.pkg q = s.pkg q) ∧
        (∀ q ∈ ps, t.pkg q = (s.pkg q).editRun lid (fun r => { r with frzq := [], frzOut := r.frzOut + (asked q).length })) ∧
        s.Plans t (ps.flatMap fun q => ((asked q).zip (List.range (asked q).length)).map fun e =>
          (s.now + e.2 + pathTime (svc q) (xtalRouter (homeOf e.1.2)), .freezeApply (homeOf e.1.2) (req q e.1.1 e.1.2)))) ∧
      ((∀ q ∈ ps, ∀ r ∈ (s.pkg q).runsOf lid, r.frzq = []) →
        ((∀ q ∈ ps, s.allExited q lid = true) → s.Yields .quiescenceFound fun t =>
          { t with agenda := s.agenda } = s ∧ s.Plans t (ps.map fun q => (s.now, .launchEnd q lid none))) ∧
        ((∃ q ∈ ps, s.allExited q lid = false) → s.Yields .quiescenceFound fun t =>
          { t with agenda := s.agenda, pkgs := s.pkgs } = s ∧ s.Plans t (ps.map fun q => (s.now, .launchEnd q lid (some .deadlk))) ∧
          (ps = [p] → t.pkg p = (s.pkg p).editRun lid (fun r => { r with dead := s.deadList p lid }) ∧ OnPkg s t p))))

/-- R224, R316, R342 to R344, R367, R368: the life of a launch at its service core. The oldest record of the highest priority whose partitions are
free starts, with a free digest slot, the registers and local images of its cores, its root task and its communication threads, or resumes if it was
switched out; with none, launches in the way of a higher priority are asked to switch out. A launch that ends has its threads killed, the barrier
objects it initialised from this package returned, with the enrolments in them, and its status reported; the copies of a twin launch are compared,
ORDER or SDC if they differ, else copy A is committed. The model's own readings here: log entries 5, 13, 36 and 48 (requests for communication threads take path time). -/
def Obligations.LaunchLifecycle : Prop :=
  (∀ (s : State) (p : Nat), s.ev = .launchStart p →
    let k := s.pkg p
    let looks (q : Nat × Launch × Bool) : Prop := q ∈ k.queue ∧ k.clear q.2.1 = true ∧
      (∀ o ∈ k.queue, k.clear o.2.1 = true → o.2.1.prio ≤ q.2.1.prio) ∧
      ∃ l₁ l₂, k.queue = l₁ ++ q :: l₂ ∧ ∀ o ∈ l₁, k.clear o.2.1 = true → o.2.1.prio < q.2.1.prio
    (k.safe = true ∨ k.on = false → exec .launchStart s = .next s) ∧
    (k.safe = false → k.on = true →
      ((∀ q ∈ k.queue, k.clear q.2.1 = false) ∨
          (∃ q, looks q ∧ q.2.2 = false ∧ k.freeSlots.length < if q.2.1.twin = 2 then 2 else 1) → s.Yields .launchStart fun t =>
        { t with agenda := s.agenda } = s ∧ s.Plans t (k.displaced.map fun l => (s.now, .gangSwitchRequest p l))) ∧
      (∀ svc l, looks (svc, l, true) → s.Yields .launchStart fun t =>
        t.pkg p = { k.editRun l.lid (fun r => { r with st := .resuming }) with queue := k.queue.erase (svc, l, true) } ∧
        OnPkg { s with free := s.free + 1 } t p ∧
        s.Plans t [(s.now + 1 + Config.resumeDelay s.free, .resume p l.lid), (s.now, .launchStart p)]) ∧
      (∀ svc l slot rest, looks (svc, l, false) → l.twin ≤ 1 → k.freeSlots = slot :: rest → isService svc = true → pkgOf svc = p →
        partOk l.col0 l.row0 l.width l.height = true →
        (∀ c ∈ l.rect.cores p, (s.core c).fenced = false ∧ (s.core svc).tails.get? c = none) → s.Yields .launchStart fun t =>
          let asid := if l.twin = 0 then l.asid else l.sa
          let gen := k.gens.get 0 asid
          let cs := l.rect.cores p
          let place := mix l.lid 0 % (l.width * l.height)
          let dst := p * 32768 + (l.row0 + place / l.width) * 192 + (l.col0 + place % l.width)
          let root : Spawn := { gtid := BitVec.ofNat 64 (l.lid * 2 ^ 48 + mix l.lid 0), entry := l.entry, arg := l.args, ordw := 0, asid := asid
                                gen := gen, pair := l.red, fromCore := svc }
          t.pkg p = { k with queue := k.queue.erase (svc, l, false)
                             -- on cores that are halted it stands stopped (R371)
                             runs := k.runs ++ [{ rc := l, svc := svc, copy := l.twin, asid := asid, slot := slot
                                                  st := if ∃ c ∈ cs, (s.core c).stopAt ≠ none then .stopped else .running
                                                  privs := s.framesOf p asid fun l => l.cls == .priv }] } ∧
          (∀ q, q ≠ p → t.pkg q = s.pkg q) ∧
          (∀ c, t.core c = if c ∈ cs then
              { s.core c with
                lid := some l.lid, arbseed := BitVec.ofNat 32 l.seeda, hbi := BitVec.ofNat 32 l.hbi, admission := l.energy
                ctxs := (s.core c).ctxs.put 0 { s.ctx c 0 with asid := asid, gen := gen }, lmem := k.localImages.get [] l.lid
                sent := (s.core c).sent + if c = dst then 1 else 0
                head := if l.centry = 0 then (s.core c).head else { (s.core c).head with commReq := some (l.lid, p) } }
            else if c = svc then { s.core c with tails := (t.core c).tails } else s.core c) ∧
          (∀ h, t.xtal h = if h / 2048 = p then { s.xtal h with digest := (s.xtal h).digest.drop slot } else s.xtal h) ∧
          { t with pkgs := s.pkgs, cores := s.cores, xtals := s.xtals, agenda := s.agenda } = s ∧
          let beats := cs.filter fun c => (t.core c).hbi != 0 && (t.core c).ctxs.any fun e => decide ((t.core c).hbi.toNat * 256 ≤ e.2.hb)
          s.Plans t (beats.map (fun c => (s.now, .heartbeatMiss c)) ++ (s.now + 1 + pathTime svc dst + 2, .spawnArrival dst root) ::
            (if l.centry = 0 then [] else cs.map fun c => (s.now + pathTime svc c + 2, .taskAdmission c)) ++ [(s.now, .launchStart p)])) ∧
      (∀ svc l a b rest, looks (svc, l, false) → l.twin = 2 → k.freeSlots = a :: b :: rest → s.Yields .launchStart fun t =>
        let stands (l : Launch) : RunState := if ∃ c ∈ l.rect.cores p, (s.core c).stopAt ≠ none then .stopped else .running
        ∃ ra rb, (t.pkg p).runs = k.runs ++ [ra, rb] ∧ (ra.rc, ra.copy, ra.asid, ra.slot, ra.st) = (l, 1, l.sa, a, stands l) ∧
          (rb.rc, rb.copy, rb.asid, rb.slot, rb.st) = (l.copyB, 2, l.sb, b, stands l.copyB) ∧ (s.now, .launchStart p) ∈ t.agenda))) ∧
  (∀ (s : State) (p lid : Nat) (outcome : Option FaultCode), s.ev = .launchEnd p lid outcome →
    let rs := (s.pkg p).runs.filter fun r => r.rc.lid == lid && r.st != .ended
    (rs = [] → exec .launchEnd s = .next s) ∧
    ∀ r rest, rs = r :: rest → s.bars.wf = true → s.Yields .launchEnd fun t =>
      let mine (b : Nat) : Prop := (s.bar b).init = true ∧ (s.bar b).lid = lid ∧ (s.bar b).pkg = p
      s.Killed t p lid ∧ (∀ b, (mine b → t.bar b = {}) ∧ (¬ mine b → t.bar b = s.bar b)) ∧
      (∀ c, ∀ e ∈ (t.core c).enrol, ¬ mine (barKey c e.bar)) ∧
      (r.rc.twin = 0 ∨ outcome ≠ none → s.Reports t p r.rc
        ⟨match outcome with | some f => f.num | none => 0, r.rootExit, s.gatherDigest p r.slot,
          (s.pkg p).runs.any fun q => q.rc.lid == lid && q.escaped, r.dead⟩) ∧
      (r.rc.twin ≠ 0 → outcome = none →
        (r.rc.twin = 1 → r.copy = 1 → ∃ b ∈ (t.pkg p).runs,
          (b.rc, b.copy, b.asid, b.st, b.svc) = (r.rc.copyB, 2, r.rc.sb, RunState.running, r.svc)) ∧
        (¬ (r.rc.twin = 1 ∧ r.copy = 1) → (s.now, .twinCompare p lid) ∈ t.agenda ∧ (t.pkg p).out = (s.pkg p).out) ∧
        ∀ q ∈ rs, ∃ e ∈ (t.pkg p).runs, e.st = .ended ∧ e.rc = q.rc ∧ e.result = some (none, s.gatherDigest p q.slot, q.rootExit))) ∧
  (∀ (s : State) (p lid : Nat) (a b : Run), s.ev = .twinCompare p lid → ((s.pkg p).runs.filter fun r => r.rc.lid == lid) = [a, b] →
    let k := s.pkg p
    let esc := a.escaped || b.escaped
    let ends (n : Nat) (d : Nat) : Prop := s.Yields .twinCompare fun t => s.Reports t p a.rc ⟨n, a.rootExit, d, esc, []⟩ ∧ t.cores = s.cores ∧
      t.mem = s.mem
    (a.result = none ∨ b.result = none → exec .twinCompare s = .next s) ∧
    ∀ x y, a.result = some x → b.result = some y →
      (x ≠ y → ends (if a.rc.twin = 1 then 20 else 19) x.2.1) ∧
      (x = y → a.genb = false → s.Yields .twinCompare fun t =>
        t.pkg p = { k with roots := k.roots.put a.rc.asid (k.roots.get 0 a.rc.sa)
                           runs := k.runs.map (fun r => if r.rc.lid == lid then { r with genb := true } else r)
                           genbs := k.genbs ++ [{ asid := a.rc.asid, next := s.now + 256 }] } ∧ OnPkg s t p ∧
        s.Plans t [(s.now + 256, .genbApply p a.rc.asid), (s.now + 1, .twinCompare p lid)]) ∧
      (x = y → a.genb = true → (∃ g ∈ k.genbs, g.asid = a.rc.asid ∧ g.core = none) → s.Yields .twinCompare fun t =>
        t = { s with agenda := agendaInsert (s.now + 1) (.twinCompare p lid) s.agenda }) ∧
      (x = y → a.genb = true → (∀ g ∈ k.genbs, ¬ (g.asid = a.rc.asid ∧ g.core = none)) → ends 0 x.2.1))

/-- R301, R319, R363, R366, R369: a fence resets every core of the rectangle, but for its router's part, its counts of messages, its trace buffer
and its stop; its threads are gone and drop from their barriers, messages of it that others have refused are forgotten, its containment entry is
marked, and every launch with a context inside ends with the cause. The model's own readings here: log entry 37. -/
def Obligations.FenceResets : Prop :=
  ∀ (s : State) (p : Nat) (rect : Rect) (cause : FaultCode), s.ev = .fence p rect cause → s.Yields .fence fun t =>
    let cs := rect.cores p
    (∀ c, c ∉ cs → t.core c = { s.core c with refused := (s.core c).refused.filter fun m => !cs.contains m.1 }) ∧
    (∀ c ∈ cs, let k := s.core c
      (∀ x, { t.ctx c x with serial := 0 } = {}) ∧
      { t.core c with ctxs := [], linkIn := [], streamIn := [] } = ({
        linkOut := k.linkOut, lastOut := k.lastOut, comb := k.comb, streams := k.streams, spill := k.spill, traceBuf := k.traceBuf
        traceDrop := k.traceDrop, sent := k.sent, received := k.received, stopAt := k.stopAt, startAt := k.startAt, stopTb := k.stopTb
        stopSent := k.stopSent, stopReceived := k.stopReceived, fenced := true, lid := k.lid, latches := k.latches, tails := k.tails } : Core) ∧
      ∀ e ∈ k.enrol, e.dropped = false → e.ctx ≠ 0 → e.ctx ∈ k.ctxs.map (·.1) →
        (s.now, .barrierArrivalDepart (barKey c e.bar) c [] [(e.next, 1)] 4) ∈ t.agenda) ∧
    (∀ e ∈ s.cores, pkgOf e.1 = p → rect.has e.1 = true → ∀ u ∈ e.2.ctxs, u.2.st ≠ .vacant → ∀ l r,
      (if u.1 = 0 then e.2.lid = some l else l = lidOf u.2.gtid) → (s.pkg p).run? l = some r →
      ∀ q ∈ r.rc.packages p, (s.now, .launchEnd q l (some cause)) ∈ t.agenda) ∧
    (let k := s.pkg p
     let hit := k.rects.find? fun e => e.2.v && e.2.rect == rect
     let marked := match hit with
       | some e => k.rects.put e.1 { e.2 with fenced := true }
       | none => k.rects
     t.pkg p = { k with rects := marked, fences := if hit.isSome then k.fences else k.fences ++ [rect] } ∧ ∀ q, q ≠ p → t.pkg q = s.pkg q) ∧
    { t with cores := s.cores, pkgs := s.pkgs, agenda := s.agenda } = s

/-- R58, R87, R98, R189, R259, R287, R326, R339, R343, R357, R371 to R373, R390: stops and switches of a partition. A stop takes effect within 48
cycles of the first core, at a time that is free; at the agreed time all cores resume. A switch is asked for 4,096 cycles ahead; at its time issue
stops, uncommitted blocks go, no retry waits, and 1,096 cycles later each core whose engine, copies and stores are done writes its image: the dumps
of its contexts, its tiles, 4,096 bytes whose layout is free, and its live granules. With the last image acknowledged the launch is out, at the head
of its priority. A resume restores each core from its save area: its contexts with their registers, its tiles, and what was live of local memory,
the rest being zero; its launch's registers are written, and what its ring holds is sent on. A launch that is resumed onto cores that are halted is
stopped. The model's own readings here: log entries 5, 20 (the places of the fields of a dump from byte 704 on, and the order in which register
states are packed), 35 (what a switch clears of the watchdog), 38, 39, 40 and 76. -/
def Obligations.GangStopsAndSwitches : Prop :=
  (∀ (s : State) (p : Nat) (rect : Rect), s.ev = .gangStop p rect → s.Yields .gangStop fun t =>
    (∀ c, c ∉ rect.cores p ∨ (s.core c).stopAt ≠ none → t.core c = s.core c) ∧
    (∀ c ∈ rect.cores p, (s.core c).stopAt = none → ∃ u, s.now < u ∧ u ≤ s.now + 49 ∧
      t.core c = { s.core c with stopAt := some u, startAt := none }) ∧
    t.pkg p = { s.pkg p with runs := (s.pkg p).runs.map (fun r => if r.meets rect = true ∧ r.st = .running
      then { r with st := .stopped, sums := none, newSums := none } else r) } ∧
    (∀ q, q ≠ p → t.pkg q = s.pkg q) ∧ { t with cores := s.cores, pkgs := s.pkgs, free := s.free } = s) ∧
  (∀ (s : State) (p : Nat) (rect : Rect), s.ev = .gangStopResume p rect →
    let cs := (s.cores.filter fun e => pkgOf e.1 == p && rect.has e.1 && e.2.stopAt.isSome && !s.switching e.1).map (·.1)
    (cs = [] ∨ (∃ c ∈ cs, (s.core c).startAt ≠ none) ∧ (∀ c ∈ cs, (s.core c).startAt ≠ some s.now) → exec .gangStopResume s = .next s) ∧
    (cs ≠ [] → (∀ c ∈ cs, (s.core c).startAt = none) → s.Yields .gangStopResume fun t =>
      let u := s.now + 1 + Config.resumeDelay s.free
      (∀ c, t.core c = if c ∈ cs then { s.core c with startAt := some u } else s.core c) ∧
      { t with cores := s.cores, agenda := s.agenda, free := s.free } = s ∧ s.Plans t [(u, .gangStopResume p rect)]) ∧
    ((∃ c ∈ cs, (s.core c).startAt = some s.now) → s.Yields .gangStopResume fun t =>
      let rs := (s.pkg p).runs.filter fun r => r.meets rect && r.st == .stopped
      (∀ c ∈ cs, (t.core c).stopAt = none ∧ (t.core c).startAt = none ∧
        (∀ x, t.ctx c x = { s.ctx c x with after := (s.ctx c x).after.filter fun w => match w with
          | .bwt o q => decide ((s.bar o).kP ≤ q)
          | _ => true }) ∧
        let regs (k : Core) := (k.lid, k.arbseed, k.hbi, k.admission)
        -- a timer that the limit written again has passed misses at once (R329)
        ((t.core c).hbi ≠ 0 → ∀ x, (t.core c).hbi.toNat * 256 ≤ (s.ctx c x).hb → (s.now, .heartbeatMiss c) ∈ t.agenda) ∧
        (∀ r, rs.find? (fun r => r.rc.rect.has c) = some r →
          regs (t.core c) = (some r.rc.lid, BitVec.ofNat 32 r.rc.seeda, BitVec.ofNat 32 r.rc.hbi, r.rc.energy)) ∧
        (rs.find? (fun r => r.rc.rect.has c) = none → regs (t.core c) = regs (s.core c))) ∧
      (∀ c, c ∉ cs → { t.core c with tails := [] } = { s.core c with tails := [] }) ∧ (s.now, .launchStart p) ∈ t.agenda ∧
      (t.pkg p).runs = (s.pkg p).runs.map (fun r => if r.meets rect = true ∧ r.st = .stopped then { r with st := .running } else r) ∧
      (∀ c ∈ cs, ∀ e ∈ [Event.tileOpBegin c, .copyCommandBegin c, .continuationPlace c, .taskAdmission c, .trapHandlerEntry c],
        (s.now, e) ∈ t.agenda) ∧ t.mem = s.mem ∧ t.xtals = s.xtals ∧ t.dies = s.dies)) ∧
  (∀ (s : State) (p lid : Nat), s.ev = .gangSwitchRequest p lid →
    ((∀ r, (s.pkg p).run? lid = some r → r.st ≠ .running ∨ r.requested = true) → exec .gangSwitchRequest s = .next s) ∧
    ∀ r, (s.pkg p).run? lid = some r → r.st = .running → r.requested = false → s.Yields .gangSwitchRequest fun t =>
      t.pkg p = (s.pkg p).editRun lid (fun r => { r with requested := true }) ∧ OnPkg s t p ∧ s.Plans t [(s.now + 4096, .gangSwitch p lid)]) ∧
  (∀ (s : State) (p lid : Nat), s.ev = .gangSwitch p lid →
    ((∀ r, (s.pkg p).run? lid = some r → r.st ≠ .running ∧ r.st ≠ .stopped) → exec .gangSwitch s = .next s) ∧
    ∀ r, (s.pkg p).run? lid = some r → r.st = .running ∨ r.st = .stopped → (s.launchCores p lid).Nodup → s.Yields .gangSwitch fun t =>
      let cs := s.launchCores p lid
      (∀ c, c ∉ cs → t.core c = s.core c) ∧
      (∀ c ∈ cs, (t.core c).stopAt = some s.now ∧ (t.core c).tiles = (s.core c).tiles ∧ (t.core c).lmem = (s.core c).lmem ∧
        (∀ x, x < 16 → let u := s.ctx c x
          t.ctx c x = if u.st = .vacant then u else
            { u with st := .switched, saved := u.st, blk := none, fetch := none, serial := u.serial + 1, lvq := []
                     resumeBlk := if u.blk.isSome = true ∨ u.fetch.isSome = true then some u.blkAddr else none }) ∧
        (s.now + 1096, .switchImageWrite c lid) ∈ t.agenda ∧ ∀ e ∈ t.agenda, e.2.retryOf ≠ some c) ∧
      t.pkg p = (s.pkg p).editRun lid (fun r => { r with st := .switching, saved := 0, sums := none, newSums := none }) ∧
      (∀ q, q ≠ p → t.pkg q = s.pkg q) ∧ { t with cores := s.cores, pkgs := s.pkgs, agenda := s.agenda } = s) ∧
  (∀ (s : State) (c lid : Nat), s.ev = .switchImageWrite c lid →
    let k := s.core c
    ((∀ r, (s.pkg (pkgOf c)).runAt? lid c = some r → r.st ≠ .switching) → exec .switchImageWrite s = .next s) ∧
    ∀ r, (s.pkg (pkgOf c)).runAt? lid c = some r → r.st = .switching →
      let idle := k.engine = none ∧ k.copying = [] ∧ k.copyEnded = [] ∧ k.psb = [] ∧ k.sysops = [] ∧ k.delayed = []
      (¬ idle → s.Yields .switchImageWrite fun t => t = { s with agenda := agendaInsert (s.now + 1) (.switchImageWrite c lid) s.agenda }) ∧
      (idle → s.Yields .switchImageWrite fun t => ∃ q bs, q.length = 4096 ∧ q = k.imageQueues ∧
        bs = (List.range 16).flatMap (fun x => s.dump c x) ++ (List.range 16).flatMap (fun i => fullTile (k.tiles.get {} i).bytes) ++ q ++
          ((List.range 256).filter fun g => bitOf (k.lgm.get 0 (g / 64)).toNat (g % 64)).flatMap (fun g => k.readLocal (g * 1536) 1536) ∧
        (let col := c % 32768 % 192
         let row := c % 32768 / 192
         let pa := if r.rc.save = 0 then pkgOf c * 2 ^ 44 + Config.saveBase (pkgOf c) % 2 ^ 27 * 65536 + c % 32768 * 0x80000
           else r.rc.save + ((row - r.rc.row0) * r.rc.width + (col - r.rc.col0)) * 0x80000
         c % 32768 < 26112 →
           t.readMem pa bs.length = bs ∧ s.KeepsOutside t pa bs.length ∧
           s.Plans t [(s.imageDone c pa bs.length, .gangSwitchComplete (pkgOf c) lid)]) ∧
        t.images.get? (c * 65536 + lid) = some (lid, k) ∧ (∀ i, i ≠ c * 65536 + lid → t.images.get? i = s.images.get? i) ∧
        (∀ x, t.ctx c x = { serial := (s.ctx c x).serial, hb := (s.ctx c x).hb }) ∧ (t.core c).tiles = [] ∧ (t.core c).lmem = [] ∧
        (t.core c).counters = k.counters ∧ (∀ d, d ≠ c → t.core d = s.core d) ∧
        { t with cores := s.cores, images := s.images, mem := s.mem, agenda := s.agenda } = s)) ∧
  (∀ (s : State) (p lid : Nat), s.ev = .gangSwitchComplete p lid →
    let k := s.pkg p
    let cs := s.launchCores p lid
    ((∀ r, k.run? lid = some r → r.st ≠ .switching) → exec .gangSwitchComplete s = .next s) ∧
    ∀ r, k.run? lid = some r → r.st = .switching →
      (r.saved + 1 < cs.length → s.Yields .gangSwitchComplete fun t =>
        t.pkg p = k.editRun lid (fun r => { r with saved := r.saved + 1 }) ∧ OnPkg s t p ∧ s.Plans t []) ∧
      (∀ c q u, k.runAt? lid c = some q → (s.core c).ringAt = some u → s.ringDone p lid c = u + 2 * (s.homePath c (imageBase q.rc c)).getD 0 + 6) ∧
      (∀ c, (s.core c).ringAt = none → s.ringDone p lid c = 0) ∧
      (cs.length ≤ r.saved + 1 → (∃ c ∈ cs, s.now < s.ringDone p lid c) → s.Yields .gangSwitchComplete fun t =>
        t = { s with agenda := agendaInsert (s.now + 1) (.gangSwitchComplete p lid) s.agenda }) ∧
      (cs.length ≤ r.saved + 1 → (∀ c ∈ cs, s.ringDone p lid c ≤ s.now) → s.Yields .gangSwitchComplete fun t =>
        t.pkg p = { k.editRun lid (fun q => { q with st := .out, requested := false, bars := s.partBars p lid, wst := .run
                                                     wdog := if q.wst = .preempt then 0 else q.wdog })
                    with queue := (r.svc, r.rc, true) :: k.queue } ∧
        (∀ q, q ≠ p → t.pkg q = s.pkg q) ∧
        (∀ c, t.core c = if c ∈ cs then { s.core c with stopAt := none, startAt := none, spill := [], ringAt := none } else s.core c) ∧
        -- what reached a ring after its core's image was written stays with the launch
        (∀ c ∈ cs, ∀ l img, s.images.get? (c * 65536 + lid) = some (l, img) →
          t.images.get? (c * 65536 + lid) = some (l, { img with spill := img.spill ++ (s.core c).spill })) ∧
        (∀ i, (∀ c ∈ cs, i ≠ c * 65536 + lid) → t.images.get? i = s.images.get? i) ∧
        t.bars = s.bars.filter (fun e => !(s.partBars p lid).any fun b => b.1 == e.1) ∧
        { t with pkgs := s.pkgs, cores := s.cores, bars := s.bars, images := s.images, agenda := s.agenda } = s ∧
        s.Plans t [(s.now, .launchStart p)])) ∧
  (∀ (img : Core) (bs : List Byte), img.imageQueues.length = 4096 ∧ (bs = img.imageQueues → img.ofQueues bs = img) ∧
    (bs ≠ img.imageQueues → img.ofQueues bs = { Config.imageRestOf bs with spill := img.spill, streams := img.streams })) ∧
  (∀ (s : State) (p lid : Nat), s.ev = .resume p lid →
    (((s.pkg p).runsOf lid = [] ∨ ∃ r rest, (s.pkg p).runsOf lid = r :: rest ∧ r.st ≠ .resuming) → exec .resume s = .next s) ∧
    -- a thread that was departing has no deferred fault to take
    ∀ r rest, (s.pkg p).runsOf lid = r :: rest → r.st = .resuming →
      -- and the 4,096 bytes of each image's queues are as the core wrote them
      (∀ q ∈ r :: rest, ∀ c ∈ q.rc.rect.cores p, ∀ l img, s.images.get? (c * 65536 + lid) = some (l, img) →
        s.readMem (imageBase q.rc c + 122880) 4096 = img.imageQueues) →
      (∀ i ∈ s.images, ∀ e ∈ i.2.2.ctxs, e.2.st = .departing ∨ e.2.saved = .departing → e.2.pend = none) → s.Yields .resume fun t =>
      (t.pkg p).runs = (s.pkg p).runs.map (fun q => if q.rc.lid = lid ∧ q.st ≠ .ended then
        { q with st := if ∃ c ∈ r.rc.rect.cores p, (s.core c).stopAt ≠ none then .stopped else .running, bars := [] } else q) ∧
      (∀ b, r.bars.wf = true → t.bar b = r.bars.get (s.bar b) b) ∧
      (∀ c, c ∉ s.launchCores p lid → { t.core c with tails := [] } = { s.core c with tails := [] }) ∧ (s.now, .launchStart p) ∈ t.agenda ∧
      ∀ q ∈ r :: rest, ∀ c ∈ q.rc.rect.cores p, (∀ o ∈ r :: rest, c ∈ o.rc.rect.cores p → o = q) → ∀ l img,
        s.images.get? (c * 65536 + lid) = some (l, img) →
        let live := (List.range 256).filter fun g => bitOf (img.lgm.get 0 (g / 64)).toNat (g % 64)
        let area := s.readMem (imageBase q.rc c) (126976 + 1536 * live.length)
        let k := t.core c
        t.images.get? (c * 65536 + lid) = none ∧ k.tom = img.tom ∧ k.stopAt = (s.core c).stopAt ∧
        (k.lid, k.arbseed, k.hbi, k.admission) = (some lid, BitVec.ofNat 32 q.rc.seeda, BitVec.ofNat 32 q.rc.hbi, q.rc.energy) ∧
        (∀ i, k.tiles.get? i = (img.tiles.get? i).map fun u => { u with bytes := (area.drop (49152 + 4608 * i)).take 4608 }) ∧
        (∀ i g, live[i]? = some g → ∀ b, b < 1536 → k.lmem.readByte zeroBg (g * 1536 + b) = area.getD (126976 + 1536 * i + b) 0) ∧
        (∀ a, a / 1536 ∉ live → k.lmem.readByte zeroBg a = 0) ∧ (∀ e ∈ img.spill, e.spillAt ≠ none → (s.now, e) ∈ t.agenda) ∧
        -- a context's registers are those of its dump
        (∀ x, (img.ctx x).st ≠ .vacant →
          let at_ (a n : Nat) : Nat := bytesAt (area.drop (3072 * x)) a n
          let u := t.ctx c x
          u.gtid = BitVec.ofNat 64 (at_ 704 8) ∧ u.asid = at_ 712 8 ∧ u.gen = at_ 720 8 ∧ u.strm = at_ 728 8 ∧ u.retained = (at_ 736 8 != 0) ∧
          u.hb = (s.ctx c x).hb ∧ (k.hbi ≠ 0 → k.hbi.toNat * 256 ≤ u.hb → (s.now, .heartbeatMiss c) ∈ t.agenda) ∧
          u.latch = (img.ctx x).latch.map (fun l => { l with trap := .ofBytes ((area.drop (3072 * x + 640)).take 64) }) ∧
          (∀ n, 0 < n → n < 64 → u.gReg n = ⟨regStateOf (at_ 608 16 / 4 ^ n % 4), BitVec.ofNat 64 (at_ (8 * n) 8)⟩) ∧
          (∀ n, n < 16 → u.vReg n = ⟨regStateOf (at_ 624 4 / 4 ^ n % 4), BitVec.ofNat 1024 (at_ (1024 + 128 * n) 128)⟩) ∧
          (∀ n, 0 < n → n < 8 → u.pReg n = ⟨if at_ 628 1 / 2 ^ n % 2 = 1 then .full else .invalid, BitVec.ofNat 32 (at_ (576 + 4 * n) 4)⟩) ∧
          (∀ n, n < 8 → u.oxReg n = ⟨if at_ 629 1 / 2 ^ n % 2 = 1 then .full else .invalid, BitVec.ofNat 64 (at_ (512 + 8 * n) 8)⟩)) ∧
        (∀ x, (img.ctx x).st = .switched → (t.ctx c x).st = (img.ctx x).saved ∧ ∀ a, (img.ctx x).resumeBlk = some a →
          (t.ctx c x).fetch = some { addr := a, begins := s.now } ∧ (s.now, .blockFetch c x) ∈ t.agenda))

/-- R334 to R337: a core's sample is traced if samples are on, into a buffer of 8 records; a complete frame is written to the sink of its die with
the next sequence number, a LOST frame first if frames were dropped, and a spoiled frame, or one without room, is dropped and counted. The model's
own readings here: log entry 34. -/
def Obligations.TraceRecords : Prop :=
  (∀ (s : State) (c : Nat), s.ev = .traceSample c →
    let tc := (s.die (dieOf c)).trace.toNat
    let x := s.tbase (pkgOf c) / 16 / 2 ^ (tc / 2 ^ 23 % 32) % 16
    let k := s.core c
    let on := tc % 2 = 1 ∧ tc / 2 ^ 21 % 2 = 1
    (¬ on → exec .traceSample s = .next s) ∧
    (on → s.Yields .traceSample fun t => OnCore s t c ∧ s.Plans t [] ∧
      t.core c = if k.traceBuf.length < 8 then
          { k with traceBuf := k.traceBuf ++ [⟨6, s.tbase (pkgOf c), c, x, 0, (s.ctx c x).gtid, (s.ctx c x).blkAddr,
            some (s.slotClass c x * 32 + (s.ctx c x).issued)⟩] }
        else { k with traceDrop := true })) ∧
  ∀ (s : State) (d : Nat), s.ev = .traceFrameWrite d →
    let k := s.die d
    let tc := k.trace.toNat
    let toPort := tc / 2 ^ 28 % 2 = 1
    let port := (s.pkg (d / 32)).ports.get {} (tc / 2 ^ 29 % 32)
    let size := tc / 2 ^ 40 % 2 ^ 24
    let room := if toPort then port.up = true ∧ 0 < port.credits.get 64 3 else 2 ≤ size ∧ (k.wptr + 1) % size ≠ k.rptr
    let ring (i : Nat) : Nat := tc / 2 ^ 64 % 2 ^ 52 + i * 4096
    let frame (kind count seq base lost : Nat) (bs : List Byte) : List Byte :=
      let written := leBytes kind 2 ++ leBytes count 2 ++ leBytes (d / 32 + d % 32 * 2 ^ 8) 2 ++ leBytes 0 2 ++ leBytes seq 8 ++ leBytes base 8 ++
        leBytes lost 8 ++ bs
      written ++ List.replicate (4096 - written.length) 0
    (k.full = [] → exec .traceFrameWrite s = .next s) ∧
    ∀ f rest, k.full = f :: rest →
      (f.bad = true ∨ ¬ room → s.Yields .traceFrameWrite fun t =>
        t.die d = { k with full := rest, lost := k.lost + 1 } ∧ OnDie s t d ∧ s.Plans t []) ∧
      (f.bad = false → room → f.bytes.length ≤ 4064 →
        (toPort → s.Yields .traceFrameWrite fun t =>
          let first := if k.lost = 0 then [] else [frame 2 0 k.seq f.base k.lost []]
          t.die d = { k with full := rest, seq := k.seq + first.length + 1, lost := 0 } ∧ (∀ e, e ≠ d → t.die e = s.die e) ∧
          t.pkg (d / 32) = { s.pkg (d / 32) with ports := ((s.pkg (d / 32)).ports.put (tc / 2 ^ 29 % 32)
            { port with frames := port.frames ++ first ++ [frame 1 f.recs.length (k.seq + first.length) f.base 0 f.bytes] }) } ∧
          (∀ q, q ≠ d / 32 → t.pkg q = s.pkg q) ∧ { t with dies := s.dies, pkgs := s.pkgs } = s) ∧
        (¬ toPort → s.Yields .traceFrameWrite fun t =>
          let next := (k.wptr + 1) % size
          -- a LOST frame goes before, and may take the last place
          let second := (next + 1) % size ≠ k.rptr
          { t with dies := s.dies, mem := s.mem } = s ∧ (∀ e, e ≠ d → t.die e = s.die e) ∧
          (k.lost = 0 → t.die d = { k with full := rest, seq := k.seq + 1, wptr := next } ∧
            t.readMem (ring k.wptr) 4096 = frame 1 f.recs.length k.seq f.base 0 f.bytes ∧ s.KeepsOutside t (ring k.wptr) 4096) ∧
          (k.lost ≠ 0 → ¬ second → t.die d = { k with full := rest, seq := k.seq + 1, wptr := next, lost := 1 } ∧
            t.readMem (ring k.wptr) 4096 = frame 2 0 k.seq f.base k.lost [] ∧ s.KeepsOutside t (ring k.wptr) 4096) ∧
          (k.lost ≠ 0 → second → t.die d = { k with full := rest, seq := k.seq + 2, wptr := (next + 1) % size, lost := 0 } ∧
            t.readMem (ring next) 4096 = frame 1 f.recs.length (k.seq + 1) f.base 0 f.bytes ∧
            (next ≠ k.wptr → t.readMem (ring k.wptr) 4096 = frame 2 0 k.seq f.base k.lost []) ∧
            ∀ a, (a < ring k.wptr ∨ ring k.wptr + 4096 ≤ a) → (a < ring next ∨ ring next + 4096 ≤ a) → t.readByte a = s.readByte a)))

/-- R235, R340, R341, R380, R381, R382, R383: the host link. A host access becomes a request of its package's service core 8 cycles after its last
flit; the writes of a service core are applied in the order of their numbers; a mailbox command waits while its service core is in another; a launch
record is queued unless its service core refuses it, which its writer learns; status records, registers and the error log are read, and registers
written, by mailbox commands, of which a table write and a GENB are answered only at their end; a halt asks for a gang stop, or for its end. In the
safe state nothing but the bring-up report is answered, and that by service core 0, which else answers busy. The numbers of units and registers are
the model's (log entry 8), and so is that a record from a task without the right to launch is answered QFULL (log entry 36). The model's own readings
here: log entries 8, 36, 41, 50, 53, 67 and 68. -/
def Obligations.HostLink : Prop :=
  (∀ ws : List W64, let l := launchOf ws
    let w (i : Nat) : Nat := (ws.getD i 0).toNat
    l.entry = w 0 ∧ l.args = ws.getD 1 0 ∧ l.centry = w 2 ∧ l.height = w 3 / 2 ^ 48 ∧ l.width = w 3 / 2 ^ 32 % 2 ^ 16 ∧ l.row0 = w 3 / 2 ^ 16 % 2 ^ 16 ∧
    l.col0 = w 3 % 2 ^ 16 ∧ l.lid = w 4 / 2 ^ 48 ∧ l.asid = w 4 / 2 ^ 36 % 2 ^ 12 ∧ l.prio = w 4 / 2 ^ 33 % 8 ∧ (l.strict = true ↔ w 4 / 2 ^ 32 % 2 = 1) ∧
    l.twin = w 4 / 2 ^ 30 % 4 ∧ (l.red = true ↔ w 4 / 2 ^ 29 % 2 = 1) ∧ (l.rights = true ↔ w 4 / 2 ^ 28 % 2 = 1) ∧ l.energy = w 5 / 2 ^ 32 ∧
    l.hbi = w 5 % 2 ^ 32 ∧ l.l1 = w 6 / 2 ^ 48 ∧ l.l2 = w 6 / 2 ^ 32 % 2 ^ 16 ∧ l.l3 = w 6 / 2 ^ 16 % 2 ^ 16 ∧ l.seedb = w 7 / 2 ^ 32 ∧
    l.seeda = w 7 % 2 ^ 32 ∧ l.sb = w 8 / 2 ^ 48 % 2 ^ 12 ∧ l.sa = w 8 / 2 ^ 32 % 2 ^ 12 ∧ l.mrow0 = w 8 / 2 ^ 16 % 2 ^ 16 ∧ l.mcol0 = w 8 % 2 ^ 16 ∧
    l.save = w 9 % 2 ^ 52 ∧ l.status = w 10 ∧ l.pods = w 11 + 2 ^ 64 * w 12 + 2 ^ 128 * w 13 + 2 ^ 192 * w 14) ∧
  (∀ (s : State) (svc : Nat),
    let p := pkgOf svc
    let k := s.pkg p
    let tells (i : Instr) (o : HostOut) : Prop := s.Yields i fun t => t.pkg p = { k with out := k.out ++ [o] } ∧ OnPkg s t p ∧ s.Plans t []
    let words (l : List Nat) : List W64 := l.map (BitVec.ofNat 64)
    -- the safe state
    (∀ i, k.safe = true → ((∃ ws, s.ev = .submitLaunchRecord svc ws none ∧ i = .submitLaunchRecord) ∨
        (∃ lid, s.ev = .readStatusRecord svc lid ∧ i = .readStatusRecord) ∨ (∃ u r, s.ev = .managementRead svc u r ∧ i = .managementRead) ∨
        (∃ u r ws, s.ev = .managementWrite svc u r ws ∧ i = .managementWrite) ∨ (s.ev = .hostErrorLog svc ∧ i = .hostErrorLog)) →
      (svc % 32768 = 26112 → tells i (.busy svc)) ∧ (svc % 32768 ≠ 26112 → exec i s = .next s)) ∧
    (∀ off bs, k.safe = true → (s.ev = .cxlMemWrite svc off bs → exec .cxlMemWrite s = .next s) ∧
      (s.ev = .cxlMemRead svc off → exec .cxlMemRead s = .next s)) ∧
    -- accesses
    (∀ off, k.safe = false → homeOf (p * 2 ^ 44 + off) / 2048 = p →
      let id := s.nextId
      let pa := p * 2 ^ 44 + off
      let h := homeOf pa
      let due := s.now + 8 + pathTime svc (xtalRouter h)
      let s' : State := { s with nextId := id + 1 }
      -- a write takes its place among those of its service core
      (∀ bs, s.ev = .cxlMemWrite svc off bs → s.Yields .cxlMemWrite fun t =>
        let r : Req := { kind := .store, pa := pa, va := pa, bytes := bs, n := 64, lid := 65536, ret := .host off
                         who := [⟨svc, 0, id, pa, 0, 0, none⟩] }
        t.pkg p = { k with hostq := k.hostq.put svc (k.hostq.get [] svc ++ [id]) } ∧ OnPkg s' t p ∧ s.Plans t [(due, .privStoreApply h r)]) ∧
      (s.ev = .cxlMemRead svc off → s.Yields .cxlMemRead fun t =>
        let r : Req := { kind := .read, pa := pa, va := pa, n := 64, lid := 65536, ret := .host off, who := [⟨svc, 2, id, pa, 0, 0, none⟩] }
        t = { s' with agenda := agendaInsert due (.readServe h r) s.agenda })) ∧
    -- a mailbox command behind another
    (∀ q i, k.safe = false → k.cmds.get? svc = some q → ((∃ ws task, s.ev = .submitLaunchRecord svc ws task ∧ i = .submitLaunchRecord) ∨
        (∃ lid, s.ev = .readStatusRecord svc lid ∧ i = .readStatusRecord) ∨ (∃ u r, s.ev = .managementRead svc u r ∧ i = .managementRead) ∨
        (∃ u r ws, s.ev = .managementWrite svc u r ws ∧ i = .managementWrite) ∨ (s.ev = .bringUpReport svc ∧ i = .bringUpReport) ∨
        (s.ev = .hostErrorLog svc ∧ i = .hostErrorLog)) →
      s.Yields i fun t => t.pkg p = { k with cmds := k.cmds.put svc (q ++ [s.ev]) } ∧ OnPkg s t p ∧ s.Plans t []) ∧
    -- launch records
    (∀ ws task, s.ev = .submitLaunchRecord svc ws task → k.safe = false → k.cmds.get? svc = none →
      let l := launchOf ws
      let fits (c r : Nat) : Prop := c % 2 = 0 ∧ r % 2 = 0 ∧ l.width % 2 = 0 ∧ l.height % 2 = 0 ∧ 2 ≤ l.width ∧ 2 ≤ l.height ∧ c + l.width ≤ 192 ∧
        r + l.height ≤ 136
      let twinOk := l.twin ≠ 3 ∧ (l.twin ≠ 0 → l.sa ≠ l.sb ∧ l.sa ≠ l.asid ∧ l.sb ≠ l.asid) ∧
        (l.twin = 2 → fits l.mcol0 l.mrow0 ∧ l.rect.overlaps l.mirror = false)
      let good := fits l.col0 l.row0 ∧ l.rsv = false ∧ twinOk ∧ (∀ r ∈ k.runs, r.rc.lid ≠ l.lid) ∧ (∀ q ∈ k.queue, q.2.1.lid ≠ l.lid) ∧
        (k.queue.filter fun q => q.1 == svc).length < 64 ∧ (l.pods ≠ 0 → bitOf l.pods p = true ∧ (l.pods = 2 ^ p ∨ k.syncBad = false))
      let queued : Package := { k with queue := k.queue ++ [(svc, l, false)] }
      (task = none → (good ∧ ws.length = 16 → s.Yields .submitLaunchRecord fun t =>
          t.pkg p = { queued with out := k.out ++ [.success svc []] } ∧ OnPkg s t p ∧ s.Plans t [(s.now, .launchStart p)]) ∧
        (¬ (good ∧ ws.length = 16) → tells .submitLaunchRecord (.invalid svc))) ∧
      ∀ w, task = some w →
        let rights := ∃ r, s.runOf w.core w.ctx = some r ∧ r.rc.rights = true
        let u := s.ctx w.core w.ctx
        (good ∧ rights → s.Yields .submitLaunchRecord fun t => t.pkg p = queued ∧ OnPkg s t p ∧ s.Plans t [(s.now, .launchStart p)]) ∧
        (¬ (good ∧ rights) → u.pair = false → u.standing = .active → u.pend = none → s.Yields .submitLaunchRecord fun t =>
          t.ctx w.core w.ctx = { u with pend := some { core := w.core, ctx := w.ctx, dfr := true, cause := .qfull, gtid := u.gtid, rblk := w.rblk
                                                       rslot := w.rslot, va := w.va, tb := s.tbase (pkgOf w.core) } } ∧
          OnCtx s t w.core w.ctx ∧ s.Plans t [])) ∧
    (∀ lid, s.ev = .readStatusRecord svc lid → k.safe = false → k.cmds.get? svc = none →
      (k.statuses.get? lid = none → tells .readStatusRecord (.invalid svc)) ∧
      ∀ r, k.statuses.get? lid = some r → let n := min r.dead.length 1024
        (n = 0 → tells .readStatusRecord (.success svc (words [r.outcome, r.exit.toNat, r.digest, if r.escaped then 1 else 0]))) ∧
        (0 < n → tells .readStatusRecord (.success svc (words ([r.outcome, r.exit.toNat, r.digest, (if r.escaped then 1 else 0) + n * 2 ^ 16, 0, 0, 0, 0]
          ++ (r.dead.take n).flatMap fun d => TrapRec.words { core := d.core, ctx := d.ctx, pair := d.pair, cause := .deadlk, gtid := d.gtid, blk := d.blk
                                                              rslot := d.slot, aux := BitVec.ofNat 64 (Config.deadWord d.on.fields), tb := d.tb }))))) ∧
    -- registers
    (∀ i kind reg, s.ev = .managementRead svc (kind * 2 ^ 32 + i) reg → i < 2 ^ 32 → k.safe = false → k.cmds.get? svc = none →
      let answers (l : List Nat) : Prop := tells .managementRead (.success svc (words l))
      let d := s.die (p * 32 + i)
      let c := s.core (p * 32768 + i)
      (kind = 0 → i < 24 → (reg = 0 → answers [d.trace.toNat % 2 ^ 64, d.trace.toNat / 2 ^ 64]) ∧ (reg = 1 → answers [d.rptr]) ∧
        (reg = 2 → answers [d.wptr])) ∧
      (kind = 1 → i < 1536 → reg < 4096 → answers [((s.xtal (p * 2048 + i)).history.get 0 reg).toNat]) ∧
      (kind = 2 → i < 26112 → (reg = 0 → answers [c.stopTb]) ∧ (reg = 1 → answers [c.stopSent]) ∧ (reg = 2 → answers [c.stopReceived])) ∧
      (kind = 3 → reg < 256 → answers [(k.portmap.get 0 reg).toNat]) ∧
      (4 ≤ kind ∨ (kind = 0 ∧ (24 ≤ i ∨ 3 ≤ reg)) ∨ (kind = 1 ∧ (1536 ≤ i ∨ 4096 ≤ reg)) ∨ (kind = 2 ∧ (26112 ≤ i ∨ 3 ≤ reg)) ∨ (kind = 3 ∧ 256 ≤ reg) →
        tells .managementRead (.invalid svc))) ∧
    (∀ i kind reg ws, s.ev = .managementWrite svc (kind * 2 ^ 32 + i) reg ws → i < 2 ^ 32 → k.safe = false → k.cmds.get? svc = none →
      let done (q : Package) : Package := { q with out := k.out ++ [.success svc []] }
      let w (n : Nat) : Nat := (ws.getD n 0).toNat
      (kind = 0 → i < 24 → reg = 0 → ws.length = 2 → w 1 % 2 ^ 12 = 0 → s.Yields .managementWrite fun t =>
        t.die (p * 32 + i) = { s.die (p * 32 + i) with trace := BitVec.ofNat 128 (w 0 + w 1 * 2 ^ 64) &&& traceMask } ∧
        t.pkg p = done k ∧ (∀ e, e ≠ p * 32 + i → t.die e = s.die e) ∧ (∀ q, q ≠ p → t.pkg q = s.pkg q) ∧ { t with dies := s.dies, pkgs := s.pkgs } = s) ∧
      (kind = 3 → reg < 256 → ws.length = 1 → w 0 < 64 → s.Yields .managementWrite fun t =>
        t.pkg p = done { k with portmap := k.portmap.put reg (BitVec.ofNat 8 (w 0)) } ∧ OnPkg s t p ∧ s.Plans t []) ∧
      -- what takes time, as the steps of cores at which it applies (false) and is complete (true)
      let takes (o : SysOp) (steps : List (Nat × Nat × Bool)) : Prop := s.Yields .managementWrite fun t =>
        (∀ c, t.core c = { s.core c with sysops := (s.core c).sysops ++ (steps.filter (·.1 == c)).map fun e => (e.2.1, e.2.2, o) }) ∧
        t.pkg p = { k with cmds := k.cmds.put svc [] } ∧ (∀ q, q ≠ p → t.pkg q = s.pkg q) ∧
        { t with cores := s.cores, pkgs := s.pkgs, agenda := s.agenda } = s ∧ s.Plans t (steps.map fun e => (e.2.1, .systemOpComplete e.1))
      let wide (o : SysOp) : Prop := takes o [(svc, s.now + 256, false), (svc, s.now + 512, true)]
      -- a table of the package, one of a router, and one at a home of the package
      (∀ code, 16 ≤ kind → kind < 24 → kind = 16 + code → reg < tableSize code → ws.length = tableWords code → tableData code ws = true →
        let o : SysOp := .tblw code reg ws
        let e := s.now + svcHop svc
        let way (h : Nat) : Nat := meshTime (routerOf svc) (xtalRouter h)
        let m := way (homeOf reg)
        (code ∈ [1, 3, 4, 5] → wide o) ∧
        (code = 2 → i < 26112 → takes o [(p * 32768 + i, s.now + 256, false), (svc, s.now + 512, true)]) ∧
        (code = 6 → let m := way (p * 2048 + reg / 4096)
          takes o [(svc, e + m + 4, false), (svc, e + 2 * m + 6, true)]) ∧
        (code = 0 → reg % 16 = 0 → paOk reg = true → paPkg reg = p → takes o [(svc, e + m + 4, false), (svc, e + 2 * m + 6, true)]) ∧
        (code = 7 → reg % 65536 = 0 → paOk reg = true → paPkg reg = p → takes o [(svc, e + m, false), (svc, e + 2 * m + 1026, true)])) ∧
      (kind = 24 → reg < 3 → ws.length = 2 → w 0 < 4096 → wide (.tlbi reg (w 0) (w 1))) ∧
      (16 ≤ kind → kind < 24 → tableSize (kind - 16) ≤ reg ∨ ws.length ≠ tableWords (kind - 16) ∨ tableData (kind - 16) ws = false →
        tells .managementWrite (.invalid svc)) ∧
      (kind = 25 → ws.length = 1 → w 0 < 4096 → s.Yields .managementWrite fun t =>
        t.pkg p = { k with cmds := k.cmds.put svc [], genbs := k.genbs ++ [{ asid := w 0, core := some svc, next := s.now + 256 }] } ∧ OnPkg s t p ∧
        s.Plans t [(s.now + 256, .genbApply p (w 0))]) ∧
      (kind = 2 ∨ (4 ≤ kind ∧ kind < 16) ∨ 26 ≤ kind → tells .managementWrite (.invalid svc))) ∧
    (s.ev = .bringUpReport svc → (k.safe = true → svc % 32768 ≠ 26112 → exec .bringUpReport s = .next s) ∧
      (k.safe = false ∨ svc % 32768 = 26112 → k.cmds.get? svc = none → let f := k.failure.getD (0, 0, 0)
        tells .bringUpReport (.success svc (words [f.1, f.2.1, f.2.2])))) ∧
    (s.ev = .hostErrorLog svc → k.safe = false → k.cmds.get? svc = none →
      tells .hostErrorLog (.success svc (k.errlog.flatMap fun e => words [e.1, e.2.num])))) ∧
  (∀ (s : State) (p : Nat) (halt : Option (Rect × Bool)), s.ev = .boundaryScan p halt →
    (halt = none ∨ (s.pkg p).safe = true → exec .boundaryScan s = .next s) ∧
    ∀ rect go, halt = some (rect, go) → (s.pkg p).safe = false → s.Yields .boundaryScan fun t =>
      t = { s with agenda := agendaInsert s.now (if go = true then .gangStopResume p rect else .gangStop p rect) s.agenda })

/-- R7, R79, R327, R331, R385, R387, R388, R391, R392: power-up clears a package, its cores, dies, crystallisers and memory, and its links begin
afresh at the far ends of their cables too. A check that fails leaves it in the safe state, its ports down, with the first failure in the order of
the checks; else its cores leave reset, at once on package 0 or where no cable leads to another, and otherwise when its timebase is agreed; each die
begins its first energy window in this cycle. A CXL reset is a power-up whose checks find what is free. The model's own readings here: log entries
5, 43, 47 (the far ends of cables, a switch's ports) and 70. -/
def Obligations.BringUp : Prop :=
  (∀ (s : State) (p : Nat) (fs : List (Nat × Nat × Nat)), s.ev = .powerUp p fs → p < 256 → s.Yields .powerUp fun t =>
    let stops (f : Nat × Nat × Nat) : Prop := f.1 ∈ [0x01, 0x10, 0x20, 0x30, 0x40] ∨ (f.1 = 0x50 ∧ f.2.2 = 0)
    let farEnd (q n : Nat) : Prop := q ≠ p ∧ (∃ m, m < 32 ∧ Config.streamCable p m = some (q, n)) ∧ ((s.pkg q).ports.get {} n).switched = false
    (∀ c, (pkgOf c = p → { t.core c with counters := [] } = {}) ∧
      (pkgOf c ≠ p → t.core c = { s.core c with refused := (s.core c).refused.filter fun m => decide (pkgOf m.1 ≠ p) })) ∧
    (∀ d, t.die d = if d / 32 = p then {} else s.die d) ∧ (∀ h, t.xtal h = if h / 2048 = p then {} else s.xtal h) ∧
    (∀ a, t.readByte a = if a / 2 ^ 44 = p then 0 else s.readByte a) ∧ (∀ a, t.frame a = if a / 2 ^ 44 = p then {} else s.frame a) ∧
    (∀ q, q ≠ p → { t.pkg q with ports := (s.pkg q).ports } = s.pkg q ∧ ∀ n, let u := (s.pkg q).ports.get {} n
      (farEnd q n → (t.pkg q).ports.get {} n = { u with
        seq := 0, exp := 0, replay := [], owed := [], credits := [], oldest := 0, nextTx := 0, filling := none, training := false }) ∧
      (¬ farEnd q n → (t.pkg q).ports.get {} n = u)) ∧ t.hostMem = s.hostMem ∧ t.now = s.now ∧
    (∀ e ∈ s.agenda, e.2.package ≠ p → (∀ q n w i, e.2 = .codeword q n w i → w.leg = .link → w.src.1 ≠ p ∧ w.dst.1 ≠ p) →
      (∀ q n ok, e.2 = .retraining q n ok → ¬ farEnd q n) → e ∈ t.agenda) ∧
    ((∃ f ∈ fs, stops f) → ∃ f ∈ fs, stops f ∧ (∀ g ∈ fs, stops g → f.1 ≤ g.1) ∧ (t.pkg p).failure = some f ∧ (t.pkg p).safe = true ∧
      (t.pkg p).on = false ∧ ∀ n, n < 32 → ((t.pkg p).ports.get {} n).up = false) ∧
    ((∀ f ∈ fs, ¬ stops f) →
      let ports (n : Nat) : Bool := (fs.all fun f => !(f.1 == 0x60 && f.2.2 == n))
      let ready := p = 0 ∨ ∀ n, n < 32 → ports n = true → Config.streamCable p n = none
      let k := t.pkg p
      k.safe = false ∧ k.failure = fs.head? ∧ (k.on = true ↔ ready) ∧ (k.agreed = true ↔ ready) ∧ t.tbase p = 0 ∧
      (∀ n, n < 32 → k.ports.get {} n = { up := ports n }) ∧ (∀ q, q < 256 → k.portmap.get 0 q = BitVec.ofNat 8 (Config.flashPort p q % 64)) ∧
      (∀ d, d / 32 = p → d % 32 < 24 → (s.now, .energyWindowStart d) ∈ t.agenda ∧ (s.now, .digestSnapshot d) ∈ t.agenda) ∧
      (p = 0 → ∀ n, n < 32 → (s.now, .timeSyncInterval 0 n) ∈ t.agenda))) ∧
  (∀ (s : State) (p : Nat), s.ev = .cxlReset p → s.Yields .cxlReset fun t =>
    t = { s with free := s.free + 1, agenda := agendaInsert s.now (.powerUp p (Config.bringUp s.free)) s.agenda })

/-- R225, R384 to R390: Brineline ports. What a port begins is a codeword with its next number, in the replay buffer until it is acknowledged. A
codeword in sequence is acknowledged, and its messages enter the mesh, with credits for their buffers, or are held at the port of a stopped
partition; a request of a launch without a record here is answered PROT; one that is damaged or early brings a nak, and one that is late is
acknowledged again. An acknowledgement frees the replay buffer up to its number; after a nak, or a retraining, the rest is sent again, a codeword in
each rotation. A port that is down takes nothing, and answers requests with FENCED. A package takes its first timebase from its sender, after the
one-way delay, and reports a later offset beyond 4 cycles. A switch's declaration is kept; it forwards what it takes, and joins the flits of a stream. The model's own readings
here: log entries 42, 47 and 60. -/
def Obligations.BrinelinePorts : Prop :=
  (∀ (s : State) (p n : Nat), s.farEnd p n = if 32 ≤ n then some (p, n - 32) else if ((s.pkg p).ports.get {} n).switched then some (p, n + 32)
    else Config.streamCable p n) ∧
  (∀ (s : State) (p n : Nat) (d : Nat × Nat), s.farEnd p n = some d →
    let k := s.pkg p
    let q := k.ports.get {} n
    let router := portRouter p n
    let becomes (t : State) (q' : Port) : Prop := t.pkg p = { k with ports := k.ports.put n q' } ∧ OnPkg s t p
    let only (i : Instr) (q' : Port) (l : List (Nat × Event)) : Prop := s.Yields i fun t => becomes t q' ∧ s.Plans t l
    -- a codeword that the port begins, and what that makes of the port
    let tx := max s.now q.nextTx
    let closed := q.up = true ∧ q.training = false ∧ q.replay.length < 128 ∧ (∀ f, q.filling = some f → f + 16 ≤ s.now) ∧
      ∀ e ∈ s.agenda, ∀ a b w i, e.2 = .codeword a b w i → w.leg = .link → w.src = (p, n) → w.seq ≠ some q.seq
    let word : Codeword := { seq := some q.seq, ack := q.exp, src := (p, n), dst := d }
    let begun (w : Codeword) : Port := { q with seq := (q.seq + 1) % 256, replay := q.replay ++ [w], filling := some tx, nextTx := tx + 16
                                                oldest := if q.replay = [] then tx else q.oldest }
    let sent (w : Codeword) : Nat × Event := (tx + 80, .codeword d.1 d.2 w true)
    let naks : Codeword := { word with used := 1, dsc := true, link := some (.nak q.exp) }
    let credits (m : NetMsg) : Codeword := { word with used := 1, dsc := true, cred := [(m.cls, m.flits)] }
    let acks (exp : Nat) : Nat × Event := (s.now + 80, .codeword d.1 d.2 { ack := exp, src := (p, n), dst := d } true)
    -- the replay buffer that an acknowledgement leaves
    let stamped (s : State) (at_ : Nat) : LinkMsg → LinkMsg
      | .timeSync _ => .timeSync ((s.tbase p + at_ + 2 ^ 64 - s.now) % 2 ^ 64)
      | l => l
    let left (ack : Nat) : List Codeword := if q.replay.any (fun e => e.seq == some ack) then q.replay.dropWhile (fun e => e.seq != some ack)
      else if q.replay.getLast?.any (fun e => e.seq.map (fun m => (m + 1) % 256) == some ack) then [] else q.replay
    let freed (ack : Nat) : Port := { q with replay := left ack, oldest := if (left ack).length = q.replay.length then q.oldest else s.now }
    let again (ws : List Codeword) : List (Nat × Event) := (ws.zip (List.range ws.length)).map fun e =>
      (tx + 16 * e.2 + 80, .codeword e.1.dst.1 e.1.dst.2
        { e.1 with ack := q.exp, link := e.1.link.map (stamped s (tx + 16 * e.2)) } true)
    -- a codeword comes
    (∀ w intact, s.ev = .codeword p n w intact → w.leg = .link →
      let acked : Port := { freed w.ack with
        credits := w.cred.foldl (fun (c : Tbl Nat) e => c.put e.1 (min 64 (c.get 64 e.1 + e.2))) q.credits }
      let early (m : Nat) : Prop := m ≠ q.exp ∧ (m + 256 - q.exp) % 256 < 128
      (q.up = false ∨ q.training = true → exec .codeword s = .next s) ∧
      (intact = false ∨ (∃ m, w.seq = some m ∧ early m) → (closed → only .codeword (begun naks) [sent naks]) ∧
        (q.up = true → q.training = false → 128 ≤ q.replay.length → (∀ f, q.filling = some f → f + 16 ≤ s.now) →
          only .codeword { q with owed := q.owed ++ [(some (.nak q.exp), [])] } [])) ∧
      (q.up = true → q.training = false → intact = true →
        (w.seq = none → q.waiting = [] → q.owed = [] → only .codeword acked []) ∧
        (w.seq = some q.exp → q.waiting = [] → q.owed = [] → only .codeword { acked with exp := (q.exp + 1) % 256 }
          (acks ((q.exp + 1) % 256) ::
            (match w.link with
              | some (.nak seq) => [(s.now, .nak p n seq)]
              | some (.timeSync theirs) => [(s.now, .timeSync p n theirs 80)]
              | some (.capability sb f entries w) => [(s.now, .capability p n sb f entries w)]
              -- a switch passes it on, a package needs nothing of it
              | some (.barrier far) => match if n < 32 then none else Config.cable p (n - 32) far with
                | some o => [(s.now + ((s.pkg far).ports.get {} o).s,
                    .codeword far (o + 32) { leg := .out, link := some (.barrier far), src := (p, n), dst := (far, o + 32) } true)]
                | none => []
              | none => []) ++
            w.msgs.map fun e => (s.now + e.1, .codeword p n { leg := .into, msgs := [(0, e.2)], src := w.src, dst := (p, n) } true))) ∧
        (∀ m, w.seq = some m → 128 ≤ (m + 256 - q.exp) % 256 → s.Yields .codeword fun t =>
          t = { s with agenda := agendaInsert (s.now + 80) (acks q.exp).2 s.agenda }))) ∧
    -- a message leaves
    (∀ far, let e := k.portmap.get 0 far
      (p = far ∨ e.getLsbD 5 = false → s.barrierHop p far = s) ∧
      (p ≠ far → e.getLsbD 5 = true → e.toNat % 32 = n → closed → let tells : Codeword := { word with used := 1, dsc := true, link := some (.barrier far) }
        becomes (s.barrierHop p far) (begun tells) ∧ s.Plans (s.barrierHop p far) [sent tells])) ∧
    (∀ w intact l, s.ev = .codeword p n w intact → w.leg = .out → w.msgs = [] → w.link = some l → closed →
      let tells : Codeword := { word with used := 1, dsc := true, link := some (stamped s tx l) }
      only .codeword (begun tells) [sent tells]) ∧
    (∀ w intact m, s.ev = .codeword p n w intact → w.leg = .out → w.msgs = [(0, m)] → w.link = none →
      let room := q.training = false ∧ (∀ e ∈ q.waiting, e.cls ≠ m.cls) ∧ m.flits ≤ q.credits.get 64 m.cls
      let carries : Codeword := { word with used := m.flits, cls := m.cls, msgs := [(max (s.now + m.flits - 1 - tx) ((m.flits - 1) / 2), m)] }
      (q.up = true → ¬ room → only .codeword { q with waiting := q.waiting ++ [m] } []) ∧
      (closed → room → 0 < m.flits → m.flits < 16 →
        only .codeword { begun carries with credits := q.credits.put m.cls (q.credits.get 64 m.cls - m.flits) } [sent carries]) ∧
      (q.up = false → n < 32 →
        (∀ h r u, m = .req h r → r.who = [u] → s.Yields .codeword fun t =>
          let fault : TrapRec := { core := u.core, ctx := u.ctx, dfr := true, cause := .fenced, va := u.va, rslot := u.rslot, rblk := u.rblk }
          let back : Event := .deferredFault fault (r.retFor u) u.id true
          t = { s with agenda := agendaInsert (s.now + pathTime router u.core + 2) back s.agenda }) ∧
        (∀ c i, (∃ x, m = .cont x ∧ c = x.src ∧ i = .continuationRefusal x.src x.sctx (some .fenced) 0) ∨
            (∃ x, m = .send x ∧ c = x.src ∧ i = .sendRefusal x (some .fenced)) ∨
            (∃ x, m = .deleg x ∧ c = x.src ∧ i = .delegationRefusal x (some .fenced)) →
          s.Yields .codeword fun t => t = { s with agenda := agendaInsert (s.now + pathTime router c + 2) i s.agenda }) ∧
        (m.cls = 1 ∨ m.cls = 3 → s.Yields .codeword fun t => t.pkg p = { k with
            errlog := (if k.errlog.length < 64 then k.errlog else k.errlog.drop 1) ++ [(m.target, .fenced)] } ∧ OnPkg s t p ∧ s.Plans t []))) ∧
    -- a message comes in: at a package
    (∀ w intact m, s.ev = .codeword p n w intact → w.leg = .into → w.msgs = [(0, m)] → n < 32 → closed →
      let enters (l : List (Nat × Event)) : Prop := only .codeword (begun (credits m)) (l ++ [sent (credits m)])
      (s.foreign p m = true → ∀ h r u, m = .req h r → r.who = [u] → pkgOf u.core ≠ p → let e := k.portmap.get 0 (pkgOf u.core)
        e.getLsbD 5 = true → enters [(s.now + meshTime (routerOf router) (portRouter p (e.toNat % 32)) + svcHop router,
          .codeword p (e.toNat % 32) { leg := .out, src := (p, e.toNat % 32), dst := (p, e.toNat % 32)
                                       msgs := [(0, .fault { core := u.core, ctx := u.ctx, dfr := true, cause := .prot, va := u.va, rslot := u.rslot
                                                             rblk := u.rblk } (r.retFor u) u.id)] } true)]) ∧
      (s.foreign p m = false → s.portHolds p n m = true → only .codeword { q with held := q.held ++ [(w.src, m)] } []) ∧
      (s.foreign p m = false → s.portHolds p n m = false →
        (∀ h r, m = .req h r → r.kind ≠ .join → r.kind ≠ .fill → pkgOf m.target = p →
          enters [(s.now + pathTime router m.target, reqEvent h r)]) ∧
        (∀ h r, m = .req h r → r.kind = .join ∨ r.kind = .fill → enters [(s.now, .combineMerge router h r)]) ∧
        (∀ e, m.cls = 1 → m.event = some e → pkgOf m.target = p → enters [(s.now + pathTime router m.target + 2, e)]) ∧
        (∀ e, m.cls = 2 → m.event = some e → pkgOf m.target = p → (s.core m.target).fenced = false → s.Yields .codeword fun t =>
          let due := s.now + 1 - m.flits + (m.flits - 1) + pathTime router m.target + 2
          let c := s.core router
          -- in the order of what came there before it
          let arrives := match c.tails.get? m.target with
            | some u => max due (u + m.flits)
            | none => due
          t.core router = { c with tails := Tbl.put (c.tails.filter fun e => decide (s.now < e.2)) m.target arrives } ∧
          (∀ e, e ≠ router → t.core e = s.core e) ∧ t.pkg p = { k with ports := k.ports.put n (begun (credits m)) } ∧
          (∀ e, e ≠ p → t.pkg e = s.pkg e) ∧ { t with cores := s.cores, pkgs := s.pkgs, agenda := s.agenda } = s ∧
          s.Plans t [(arrives, e), sent (credits m)]) ∧
        (∀ f, m = .flit f → enters [(s.now, .streamFlitForward router 5 f)]))) ∧
    -- or at a switch, where nothing waits
    (∀ w intact m o, s.ev = .codeword p n w intact → w.leg = .into → w.msgs = [(0, m)] → 32 ≤ n → closed → (∀ e ∈ s.agenda, e.2.pending = none) →
      let far := pkgOf m.target
      m.cls ≠ 3 → Config.cable p (n - 32) far = some o → let u := (s.pkg far).ports.get {} o
      let joins := ∃ h r, m = .req h r ∧ r.kind = .join
      let passes (delay : Nat) : Prop := only .codeword (begun (credits m)) [sent (credits m),
        (delay, .codeword far (o + 32) { leg := .out, msgs := [(0, m)], src := (p, n), dst := (far, o + 32) } true)]
      (¬ joins → passes (s.now + u.f + 1 - m.flits)) ∧ (joins → passes (s.now + (if u.entries = 0 then 0 else u.w) + u.f))) ∧
    -- a flit of a stream at a switch, alone of its stream in this cycle: it waits there, or completes a word that the current set joins
    (∀ w intact f, s.ev = .codeword p n w intact → w.leg = .into → w.msgs = [(0, .flit f)] → 32 ≤ n →
      (∀ e ∈ s.agenda, e.2.pending = none ∧ e.2.flitTo (Config.switchOf p (n - 32)).1 f.strm = false) →
      let sw := (Config.switchOf p (n - 32)).1
      let b := (Config.switchOf p (n - 32)).2
      let at_ (x : Nat) : List Flit := s.switchWaits sw f.strm x ++ if x = b then [f] else []
      let e := s.switchEntry sw f.strm
      let u := e.set
      (e.v = false ∨ (∃ x ∈ u.ins, at_ x = [] ∧ ∀ y ∈ u.ins, ∀ g, (at_ y).head? = some g → g.isStep = true ∨ (u.op ≠ 0 ∧ g.marker = false)) →
        s.Yields .codeword fun t => t = { s with switches := s.switches.put sw { s.switches.get {} sw with
          ins := (s.switches.get {} sw).ins.put (f.strm * 8 + b) (at_ b) } }) ∧
      (e.v = true → b ∈ u.ins → u.op ≠ 0 → (∀ x ∈ u.ins, ∃ g, at_ x = [g] ∧ g.marker = false) → s.Yields .codeword fun t =>
        let joined : Flit := ⟨false, f.strm, combineWords u (u.ins.map fun x => ((at_ x).headD f).word)⟩
        (∀ x ∈ u.ins, t.switchWaits sw f.strm x = []) ∧ ∀ x ∈ [0, 1, 2, 3, 5], hasPort u.out x = true → ∀ o, Config.switchPort sw x = some o →
          (s.now + 4, .codeword o.1 (o.2 + 32)
            { leg := .out, msgs := [(0, .flit joined)], src := (o.1, o.2 + 32), dst := (o.1, o.2 + 32) } true) ∈ t.agenda)) ∧
    -- a nak, a retraining, the end of a port
    (∀ seq, s.ev = .nak p n seq → only .nak { freed seq with nextTx := tx + 16 * (left seq).length, filling := none } (again (left seq))) ∧
    (∀ ok, s.ev = .retraining p n ok →
      (ok = false → s.Yields .retraining fun t => t = { s with agenda := agendaInsert s.now (.portDown p n) s.agenda }) ∧
      (ok = true → d ≠ (p, n) → q.waiting = [] → q.owed = [] → let r := (s.pkg d.1).ports.get {} d.2
        r.waiting = [] → r.owed = [] → s.Yields .retraining fun t =>
          let back (q : Port) : Port := { q with
            training := false, oldest := s.now, nextTx := max s.now q.nextTx + 16 * q.replay.length, filling := none }
          (∀ a b, (t.pkg a).ports.get {} b = if (a, b) = (p, n) then back q else if (a, b) = d then back r else (s.pkg a).ports.get {} b) ∧
          (∀ a, { t.pkg a with ports := (s.pkg a).ports } = s.pkg a) ∧ { t with pkgs := s.pkgs, agenda := s.agenda } = s ∧
          s.Plans t (again q.replay ++ (r.replay.zip (List.range r.replay.length)).map fun e =>
            let at_ := max s.now r.nextTx + 16 * e.2
            let tells : LinkMsg → LinkMsg
              | .timeSync _ => .timeSync ((s.tbase d.1 + at_ + 2 ^ 64 - s.now) % 2 ^ 64)
              | l => l
            (at_ + 80, .codeword e.1.dst.1 e.1.dst.2 { e.1 with ack := r.exp, link := e.1.link.map tells } true)))) ∧
    (s.ev = .portDown p n → s.Yields .portDown fun t =>
      (t.pkg p).ports = k.ports.put n { q with up := false, training := false, replay := [], waiting := [], owed := [], filling := none } ∧
      (t.pkg p).out = k.out ++ (if n < 32 then [.portDown n q.replay.length] else []) ∧ OnPkg s t p ∧
      (q.waiting = [] → s.Plans t (if d ≠ (p, n) ∧ ((s.pkg d.1).ports.get {} d.2).up = true then [(s.now, .portDown d.1 d.2)] else [])) ∧
      ∀ e ∈ q.waiting, n < 32 → ∀ h r, e = .req h r → ∀ w ∈ r.who,
        let fault : TrapRec := { core := w.core, ctx := w.ctx, dfr := true, cmb := decide (1 < r.who.length), cause := .fenced, va := w.va
                                 rslot := w.rslot, rblk := w.rblk }
        (s.now + pathTime router w.core + 2, .deferredFault fault (r.retFor w) w.id true) ∈ t.agenda) ∧
    -- the time
    (s.ev = .timeSyncInterval p n →
      (q.up = false → exec .timeSyncInterval s = .next s) ∧
      (closed → q.switched = false →
        let tells : Codeword := { word with used := 1, dsc := true, link := some (.timeSync ((s.tbase p + tx + 2 ^ 64 - s.now) % 2 ^ 64)) }
        only .timeSyncInterval (begun tells) [sent tells]) ∧
      ∀ f, Config.streamCable p n = some f → q.up = true → q.switched = true → s.Yields .timeSyncInterval fun t =>
        t = { s with agenda := agendaInsert (s.now + 160 + q.f) (.timeSync f.1 f.2 (s.tbase p) (160 + q.f)) s.agenda })) ∧
  (∀ (s : State) (p n theirs delay : Nat), s.ev = .timeSync p n theirs delay →
    let k := s.pkg p
    let off : Int := (BitVec.ofNat 64 (s.tbase p) - BitVec.ofNat 64 (theirs + delay)).toInt
    ((k.ports.get {} n).up = false ∨ k.safe = true → exec .timeSync s = .next s) ∧
    ((k.ports.get {} n).up = true → k.safe = false →
      (k.agreed = false → s.Yields .timeSync fun t => t.tbase p = (theirs + delay) % 2 ^ 64 ∧
        { t.pkg p with tbase := k.tbase, agreed := k.agreed, on := k.on, upAt := k.upAt } = k ∧ (t.pkg p).agreed = true ∧ (t.pkg p).on = true ∧
        (∀ q, q ≠ p → t.pkg q = s.pkg q) ∧ { t with pkgs := s.pkgs } = s) ∧
      (k.agreed = true → (off.natAbs ≤ 4 → exec .timeSync s = .next s) ∧ (4 < off.natAbs → s.Yields .timeSync fun t =>
        t.pkg p = { k with syncBad := true, out := k.out ++ [.syncBad n] } ∧ OnPkg s t p ∧ s.Plans t [])))) ∧
  (∀ (s : State) (p n sb f entries w : Nat), s.ev = .capability p n sb f entries w → s.Yields .capability fun t =>
    t.pkg p = { s.pkg p with ports := (s.pkg p).ports.put n { (s.pkg p).ports.get {} n with
      switched := true, s := sb, f := f, entries := entries, w := min w 256 } } ∧ OnPkg s t p ∧ s.Plans t [])

/-- R64 to R75, R91, R107, R108, R145, R161, R246, R247, R251, R285, R310, R311, R328: words that the spec writes out decode to the instructions it
gives for them. -/
def Obligations.SampleWordsDecode : Prop :=
  let w (u : Nat) : Option Instr := decodeTableWord 32 u
  let h (u : Nat) : Option Instr := decodeTableWord 16 u
  (w 0x83000201 = some (.movi .always 2 1) ∧ w 0x833FFD83 = some (.movi .always 0x3FFD 0x83) ∧ w 0x84306C02 = some (.movhi .always 0x306C 2) ∧
    w 0x82090000 = some (.wr .gr 9) ∧ w 0x82870000 = some (.wr .vr 7) ∧ w 0x80860003 = some (.rd .vr 6 0 3) ∧
    w 0x85000004 = some (.br .always 4)) ∧
  (w 0xFA000303 = some (.rctl .always 3 3) ∧ w 0xFA100300 = some (.wctl .always 3) ∧ w 0xFA201100 = some (.sctl .always 0x11) ∧
    w 0xF9000003 = some (.rcnt .always 3) ∧ w 0xF9010000 = some (.wcnt .always) ∧ w 0xF9030000 = some (.hbt .always)) ∧
  (w 0xB3C00005 = some (.vfma .f32 0 5) ∧ w 0xB0410047 = some (.vadd .onTrue .bf16 0 0x47) ∧ w 0xBF140005 = some (.vcmp .always 2 .i32 0 5) ∧
    w 0xCCC60004 = some (.vqshr 0 4)) ∧
  (w 0xEC004000 = some (.fillV .always 0 0) ∧ w 0xEC018000 = some (.fillD .always 0 0) ∧ w 0xE6050100 = some (.waitt .always 5 1) ∧
    w 0xE6070000 = some (.waitt .always 7 0) ∧ w 0xEAC60000 = some (.faddb 6) ∧ w 0xEB060000 = some (.incw .always 6) ∧
    w 0xF7000000 = some (.dret .always)) ∧
  (h 0x4400 = some (.hbtH .always) ∧ h 0x2402 = some (.tltz .always 2) ∧ h 0x5800 = some (.reth .always) ∧ h 0x1211 = some (.inch .onFalse 0x11) ∧
    h 0x1C84 = some (.teqz .always 0x84))

/-- R18 to R21, R42, R51, R57, R222, R242: a step runs one instruction. An event that is due is taken before the cores' turns, in the order of the
agenda; then core by core what a core has to do, the lowest slot first: a fault that has reached a slot, the instruction whose translation has come,
and what the core's window chooses, a deferred or fetch fault or the instruction that the chosen slot's word decodes to, refined by its left
operand; then the end of the turns, and of the cycle. The model's own readings here: log entry 49. -/
def Obligations.StepRunsTheDecodedInstruction : Prop :=
  (∀ (s : State) (t : Nat) (e : Event) (rest : List (Nat × Event)), s.phase ≠ .start → s.agenda = (t, e) :: rest → t ≤ s.now → e.wf = true →
    let u : State := { s with agenda := rest }
    (s.spilled e = none → s.imageOf e = none → step s = exec e.instr { u with ev := e }) ∧
    -- or it waits in the ring of a core that is being switched (R326, R372), or takes place in a switch image that awaits it (R87)
    (∀ c, s.spilled e = some c → step s = .next (u.modCore c fun k => { k with spill := k.spill ++ [e], ringAt := some s.now })) ∧
    (∀ c key, s.spilled e = none → s.imageOf e = some (c, key) → step s = u.inImage c key fun v => exec e.instr { v with ev := e })) ∧
  (∀ s : State, (∀ e ∈ s.agenda, s.now < e.1) →
    -- a core's turn begins, or goes on: `v` is the machine in it
    (∀ v c used, (s.phase = .core c used ∧ v = s) ∨ (used = false ∧ v = s.beginTurn c ∧ (s.pkg (pkgOf c)).on = true ∧
        ∃ n k, s.phase = .turns n ∧ s.cores.find? (fun e => decide (n ≤ e.1)) = some (c, k)) →
      let first (j : Nat × Nat × Job) : Prop := ∃ l m, v.jobs c used = l ++ j :: m ∧ (∀ e ∈ l, j.1 < e.1) ∧ ∀ e ∈ m, j.1 ≤ e.1
      let w (used : Bool) : State := { v with phase := .core c used }
      (∀ k x e, (k, x, Job.doom e) ∈ v.jobs c used ↔ ∃ u, (x, u) ∈ (v.core c).ctxs ∧ (u.serial, k, e) ∈ u.doomed) ∧
      (∀ k x n, (k, x, Job.replay n) ∈ v.jobs c used ↔ (c, x, n, k) ∈ v.replay) ∧
      (∀ k l x, (k, x, Job.use (.issue l)) ∈ v.jobs c used ↔ used = false ∧ v.chooseCtx c = some (x, .issue l) ∧ k = l) ∧
      (v.jobs c used = [] → step s = .next { v with phase := .turns (c + 1) }) ∧
      (∀ k x e, first (k, x, .doom e) → step s = .next ((w used).takeFault c x e k)) ∧
      (∀ k x n, first (k, x, .replay n) → let u := { w used with replay := v.replay.erase (c, x, n, k) }
        ((v.ctx c x).serial ≠ n → step s = .next u) ∧
        ∀ b q i, (v.ctx c x).serial = n → (v.ctx c x).blk = some b → b.slots[k]? = some q → decodeWord (!q.half) q.word = .ok i →
          ∃ y, exec (i.refine q.l.tok.scal) y = step s ∧ y.cur = ⟨c, x, k⟩ ∧ y.replay = u.replay ∧ y.agenda = v.agenda ∧ y.now = v.now ∧
            y.ctx c x = { v.ctx c x with blk := some { b with slots := b.slots.modify k fun q => { q with walking := false } } }) ∧
      (∀ k x, first (k, x, .use (.issue k)) → ∀ b q i, (v.ctx c x).blk = some b → b.slots[k]? = some q → decodeWord (!q.half) q.word = .ok i →
        step s = exec (i.refine q.l.tok.scal) { (w true).useSlot c x with cur := ⟨c, x, k⟩ }) ∧
      (∀ x k, first (0, x, .use (.bad k)) → step s = .next ((w true).takeFault c x k)) ∧
      (∀ x r, first (0, x, .use (.deferred r)) → step s = .next ((w true).takeDeferred c x r))) ∧
    (∀ n c k, s.phase = .turns n → s.cores.find? (fun e => decide (n ≤ e.1)) = some (c, k) → (s.pkg (pkgOf c)).on = false →
      step s = .next { s with phase := .turns (c + 1) }) ∧
    (∀ n, s.phase = .turns n → s.cores.find? (fun e => decide (n ≤ e.1)) = none → step s = .next s.endTurns) ∧
    (s.phase = .close → step s = .next s.endCycle ∧ s.endCycle.now = s.now + 1 ∧ s.endCycle.phase = .start)) ∧
  (∀ s : State, s.phase = .start → step s = .next s.startCycle ∧ s.startCycle.phase = .turns 0)

/-- R79, R90, R208, R297, R305, R307, R331, R391: what reset leaves, with the values the spec gives and those of log entries 1 to 4: every context
VACANT with INVALID registers but g0 and p0, every tile INVALID, control registers and counters 0, the energy budget of each die 60,000, memory 0,
and every memory in its canonical form. The model's own readings here: log entries 1, 2, 3, 4 and 70. -/
def Obligations.ResetHolds : Prop :=
  let s := State.reset
  Memory.wf s = true ∧ s.now = 0 ∧ s.agenda = [] ∧ s.tbase 0 = 0 ∧ (s.pkg 0).on = true ∧ (s.pkg 0).runs = [] ∧
  (∀ c x, (s.ctx c x).st = .vacant ∧ (s.ctx c x).blk = none ∧ (s.ctx c x).gReg 0 = ⟨.full, 0⟩ ∧ (s.ctx c x).pReg 0 = ⟨.full, 0xFFFFFFFF⟩ ∧
    (∀ r, (r ≠ 0 → (s.ctx c x).gReg r = ⟨.invalid, 0⟩ ∧ (s.ctx c x).pReg r = ⟨.invalid, 0⟩) ∧ (s.ctx c x).vReg r = ⟨.invalid, 0⟩ ∧
      (s.ctx c x).oxReg r = ⟨.invalid, 0⟩) ∧
    (s.ctx c x).fpm = 0 ∧ (s.ctx c x).cwb0 = 0 ∧ (s.ctx c x).cwl0 = 0 ∧ (s.ctx c x).cwb1 = 0 ∧ (s.ctx c x).cwl1 = 0 ∧ (s.ctx c x).strm = 0) ∧
  (∀ c, (s.core c).tom = 0 ∧ (s.core c).tvec = 0 ∧ (s.core c).hbi = 0 ∧ (s.core c).arbseed = 0 ∧ (s.core c).seinj = 0 ∧
    (∀ i, (s.core c).tiles.get {} i = ⟨.invalid, []⟩ ∧ (s.core c).lgm.get 0 i = 0 ∧ (s.core c).tsh.get 0 i = 0) ∧ (∀ n, (s.core c).counter n = 0) ∧
    ∀ a, (s.core c).lmem.readByte zeroBg a = 0) ∧
  (∀ d, (s.die d).ebud = 60000 ∧ (s.die d).trace = 0) ∧ (∀ h, (s.xtal h).waiters = [] ∧ ∀ i, (s.xtal h).history.get 0 i = 0) ∧
  (∀ a, s.readByte a = 0 ∧ s.frame a = ⟨none, false⟩) ∧ ∀ b, (s.bar b).init = false

/-- The memories stay in the canonical form that `Memory.wf` says, whatever the step: an instruction, an event, or the clock. -/
def Obligations.StepKeepsMemoryCanonical : Prop := ∀ s t : State, Memory.wf s = true → step s = .next t → Memory.wf t = true

/-- R57, R242, R284, R286, R355, R359, R360, R363: taking a fault. One that reaches a slot from outside its block awaits the core's turn. The block
ends without effect. A worker or communication context, or the pair, enters its retry latch with the record, which is queued; the head context's
core is fenced, and the host has the record; a delegated routine ends, its requester receives the fault, and the head context is in its own address
space again. A deferred fault is taken in the context's slot with the block that stands there. ACKF lets a latched context fetch its block again,
with its registers. The model's own readings here: log entries 30, 45 and 63. -/
def Obligations.TakingAFault : Prop :=
  (∀ (s : State) (c x slot : Nat) (k : Cause), let u := s.ctx c x
    let t := s.doom c x slot k
    t.ctx c x = { u with doomed := (u.doomed.filter fun e => e.1 == u.serial) ++ [(u.serial, slot, k)] } ∧ OnCtx s t c x ∧ s.Plans t []) ∧
  (∀ (s : State) (c x slot : Nat) (k : Cause), x ≠ 0 → (s.die (dieOf c)).trace.getLsbD 0 = false →
    let u := s.ctx c x
    let t := s.takeFault c x k slot
    let team := if u.pair then [x / 2 * 2, x / 2 * 2 + 1] else [x]
    let lead := if u.pair then x / 2 * 2 else x
    let r : TrapRec := { core := c, ctx := lead, pair := u.pair, emp := k.emp, file := k.file, sub := k.sub, cause := k.code, gtid := u.gtid
                         blk := u.blkAddr, va := k.va, tb := s.tbase (pkgOf c) }
    (∀ y ∈ team, let w := s.ctx c y
      t.ctx c y = { w with st := .latched, blk := none, fetch := none, after := [], depart := none, serial := w.serial + 1, lvq := []
                           latch := some ⟨r, (s.core c).latches, decide (y ≠ lead)⟩ }) ∧
    (∀ y, y ∉ team → t.ctx c y = s.ctx c y) ∧
    { t.core c with ctxs := (s.core c).ctxs, reserved := (s.core c).reserved } = { s.core c with latches := (s.core c).latches + 1 } ∧
    (∀ d, d ≠ c → t.core d = s.core d) ∧ { t with cores := s.cores, agenda := s.agenda } = s ∧ s.Plans t [(s.now, .trapRecordQueued c lead)]) ∧
  (∀ (s : State) (c slot : Nat) (k : Cause), (s.core c).head.routine = none →
    let u := s.ctx c 0
    let t := s.takeFault c 0 k slot
    let p := posOf c
    let r : TrapRec := { core := c, ctx := 0, pair := u.pair, emp := k.emp, file := k.file, sub := k.sub, cause := k.code, gtid := u.gtid
                         blk := u.blkAddr, va := k.va, tb := s.tbase (pkgOf c) }
    t.ctx c 0 = { u with blk := none, fetch := none, serial := u.serial + 1, lvq := [] } ∧ (∀ y, y ≠ 0 → t.ctx c y = s.ctx c y) ∧
    t.pkg (pkgOf c) = { s.pkg (pkgOf c) with out := (s.pkg (pkgOf c)).out ++ [.record r] } ∧ (∀ q, q ≠ pkgOf c → t.pkg q = s.pkg q) ∧
    { t with cores := s.cores, pkgs := s.pkgs, agenda := s.agenda } = s ∧
    s.Plans t [(s.now, .fence (pkgOf c) ⟨p.1, p.2, p.1, p.2⟩ k.code)]) ∧
  (∀ (s : State) (c slot : Nat) (k : Cause) (m : DelegMsg), (s.core c).head.routine = some m → pkgOf c = pkgOf m.src →
    (s.core c).tails.get? m.src = none → (s.core m.src).fenced = false →
    let u := s.ctx c 0
    let h := (s.core c).head
    let t := s.takeFault c 0 k slot
    t.ctx c 0 = { u with asid := h.savedAsid, gen := h.savedGen, gtid := h.savedGtid, after := [], commitAt := none, blk := none, fetch := none
                         serial := u.serial + 1, lvq := [], st := if h.retBlk.isSome then u.st else .vacant } ∧
    (∀ y, y ≠ 0 → t.ctx c y = s.ctx c y) ∧ (t.core c).head = { h with routine := none } ∧ (t.core c).sent = (s.core c).sent + 1 ∧
    (∀ d, d ≠ c → t.core d = s.core d) ∧ { t with cores := s.cores, agenda := s.agenda } = s ∧
    s.Plans t [(s.now + 2 + pathTime c m.src + 2, .routineFaultReply { m with rblk := u.blkAddr, rslot := slot } k),
      (s.now + 1, .delegationBegin c)]) ∧
  (∀ (s : State) (c x : Nat) (r : TrapRec), x ≠ 0 → (s.ctx c x).pair = false → (s.die (dieOf c)).trace.getLsbD 0 = false →
    let t := s.takeDeferred c x r
    (t.ctx c x).st = .latched ∧ (t.ctx c x).pend = none ∧ (t.ctx c x).blk = none ∧ (t.ctx c x).latch = some
      ⟨{ r with blk := (s.ctx c x).blkAddr, gtid := (s.ctx c x).gtid, tb := s.tbase (pkgOf c) }, (s.core c).latches, decide (x ≠ r.ctx)⟩ ∧
    (∀ f n, (t.ctx c x).regTok f n = (s.ctx c x).regTok f n ∧ (t.ctx c x).regState f n = (s.ctx c x).regState f n) ∧
    (∀ y, y ≠ x → t.ctx c y = s.ctx c y) ∧ s.Plans t [(s.now, .trapRecordQueued c r.ctx)]) ∧
  (∀ (s : State) (c : Nat) (r : TrapRec), (s.core c).head.routine = none → let t := s.takeDeferred c 0 r
    let p := posOf c
    (t.ctx c 0).pend = none ∧ (t.ctx c 0).blk = none ∧ (t.pkg (pkgOf c)).out = (s.pkg (pkgOf c)).out ++
      [.record { r with blk := (s.ctx c 0).blkAddr, gtid := (s.ctx c 0).gtid, tb := s.tbase (pkgOf c) }] ∧
    s.Plans t [(s.now, .fence (pkgOf c) ⟨p.1, p.2, p.1, p.2⟩ r.cause)]) ∧
  -- in a delegated routine it names the block and the slot that sent the request (R242, R286)
  (∀ (s : State) (c : Nat) (r : TrapRec) (m : DelegMsg), (s.core c).head.routine = some m → pkgOf c = pkgOf m.src →
    (s.core c).tails.get? m.src = none → (s.core m.src).fenced = false → let t := s.takeDeferred c 0 r
    (t.core c).head.routine = none ∧ (t.ctx c 0).pend = none ∧ (t.ctx c 0).blk = none ∧
    (s.now + 2 + pathTime c m.src + 2, .routineFaultReply { m with rblk := r.rblk, rslot := r.rslot }
      { code := r.cause, sub := r.sub, file := r.file, emp := r.emp, va := r.va, cmb := r.cmb, more := r.more }) ∈ t.agenda) ∧
  (∀ (s : State) (c x c0 : Nat) (l : Latch), (s.ctx c x).st = .latched → (s.ctx c x).pair = false → (s.ctx c x).latch = some l →
    let u := s.ctx c x
    let t := s.ackf c x none c0
    t.ctx c x = { u with st := .active, latch := none, blk := none, lvq := [], serial := u.serial + 1, gen := (s.pkg (pkgOf c)).genOf u.asid
                         fetch := some { addr := l.trap.blk, begins := c0 + 16, noBkpt := decide (l.trap.cause = .bkpt) } } ∧
    OnCtx s t c x ∧ s.Plans t [(c0 + 16, .blockFetch c x)])

/-- R54, R55, R120, R195, R198, R274, R281, R284, R285, R334, R350, R356, R358: how a block's commit ends, for a block without effects: the thread
goes on at its target, fetched in the next rotation; traps, latched with the address after the block; begins to depart; exits; or, in the head
context, leaves a handler or a routine and goes on. Its stores to local memory and to PRIV pages are seen from the next rotation on, and it is
traced. The model's own readings here: log entries 12, 30, 32 and 48. -/
def Obligations.BlockCommits : Prop :=
  (
    ∀ (s : State) (c x : Nat) (b : Block) (e : BlkExit), s.ev = .blockCommit c x → (s.ctx c x).pair = false → (s.ctx c x).blk = some b →
      b.exit = some e → s.mayCommit c x b = true → b.taken = [] → (∀ q ∈ b.slots, q.push = [] ∧ q.eff = .none) →
      let u := s.ctx c x
      let after := (b.addr + b.bytes) % 2 ^ 48
      let goesOn (t : State) (a : Nat) : Prop := (t.ctx c x).st = .active ∧ (t.ctx c x).blk = none ∧
        (t.ctx c x).fetch = some { addr := a, begins := s.now + 16 } ∧ (s.now + 16, .blockFetch c x) ∈ t.agenda
      let idle := (s.core c).head.routine = none ∧ ((s.core c).tvec = 0 ∨ (s.core c).trapq = []) ∧ (s.core c).delq = []
      (x ≠ 0 → e.kind ∈ [.br, .bri, .call, .calli, .ret] → s.Yields .blockCommit fun t => goesOn t e.target) ∧
      (x ≠ 0 → e.kind = .mig → e.target = c → s.Yields .blockCommit fun t => goesOn t after) ∧
      (x ≠ 0 → e.kind = .mig → e.target ≠ c → s.Yields .blockCommit fun t => (t.ctx c x).st = .departing ∧ (t.ctx c x).blk = none ∧
        (∃ d, (t.ctx c x).depart = some d ∧ d.dst = e.target ∧ d.blk = after ∧ d.expl = true ∧ d.sent = false) ∧
        (s.now, .continuationDepart c x) ∈ t.agenda) ∧
      (x ≠ 0 → e.kind = .trap → s.Yields .blockCommit fun t => (t.ctx c x).st = .latched ∧ (t.ctx c x).blk = none ∧
        (∃ l, (t.ctx c x).latch = some l ∧ l.trap.cause = .trapi ∧ l.trap.sub = e.target ∧ l.trap.blk = after ∧ l.trap.ctx = x ∧
          l.trap.core = c ∧ l.trap.gtid = u.gtid) ∧ (∀ r, (t.ctx c x).gReg r = u.gReg r) ∧ (s.now, .trapRecordQueued c x) ∈ t.agenda) ∧
      (x ≠ 0 → e.kind = .exit → s.Yields .blockCommit fun t => (t.ctx c x).st = .exiting ∧ (t.ctx c x).blk = none ∧ (t.ctx c x).exitAt = s.now + 16 ∧
        ((t.ctx c x).exitMsg.map fun m => (m.value, m.slotPa, m.countPa, m.dst)) = (e.owner.map fun o => (e.value, e.slotPa, e.countPa, o)) ∧
        (s.now + 16, .exitMessageDepart c x) ∈ t.agenda ∧
        ∀ r, depthOf u.gtid = 0 → s.runOf c x = some r → ∃ q ∈ (t.pkg (pkgOf c)).runs, q.rc = r.rc ∧ q.rootExit = e.value) ∧
      (x = 0 → e.kind = .eret → idle → s.Yields .blockCommit fun t => (t.core c).head.handler = false ∧
        (∀ a, (s.core c).head.retBlk = some a → goesOn t a) ∧ ((s.core c).head.retBlk = none → (t.ctx c 0).st = .vacant ∧ (t.ctx c 0).fetch = none)) ∧
      (∀ m, x = 0 → e.kind = .dret → (s.core c).head.routine = some m → (s.core c).head.handler = false →
        ((s.core c).tvec = 0 ∨ (s.core c).trapq = []) → (s.core c).delq = [] → pkgOf m.src = pkgOf c →
        (s.core c).tails.get? m.src = none → (s.core m.src).fenced = false → s.Yields .blockCommit fun t =>
          (t.core c).head.routine = none ∧ (t.ctx c 0).gtid = (s.core c).head.savedGtid ∧ (t.ctx c 0).asid = (s.core c).head.savedAsid ∧
          (∀ a, (s.core c).head.retBlk = some a → goesOn t a) ∧
          (m.call = true → (s.now + 2 + pathTime c m.src + 2, .dcallReply m.src m.sctx m.reg e.value) ∈ t.agenda)) ∧
      (x = 0 → e.kind = .trap → (s.core c).head.routine = none → let p := posOf c
        s.Yields .blockCommit fun t => (s.now, .fence (pkgOf c) ⟨p.1, p.2, p.1, p.2⟩ .trapi) ∈ t.agenda ∧ (t.ctx c 0).blk = none ∧
          ∃ r, (t.pkg (pkgOf c)).out = (s.pkg (pkgOf c)).out ++ [.record r] ∧ r.cause = .trapi ∧ r.sub = e.target ∧ r.blk = after) ∧
      -- a TRAP of a delegated routine reaches its requester with the routine's block (R286)
      (∀ m, x = 0 → e.kind = .trap → (s.core c).head.routine = some m → pkgOf m.src = pkgOf c → (s.core c).tails.get? m.src = none →
        (s.core m.src).fenced = false → s.Yields .blockCommit fun t => (t.core c).head.routine = none ∧ (t.ctx c 0).blk = none ∧
          ∃ n, (s.now + 2 + pathTime c m.src + 2, .routineFaultReply { m with rblk := b.addr, rslot := n } { code := .trapi, sub := e.target })
            ∈ t.agenda)) ∧
  (∀ (s : State) (c x : Nat) (b : Block) (e : BlkExit) (f : Eff), s.ev = .blockCommit c x → x ≠ 0 → (s.ctx c x).pair = false →
    (s.ctx c x).blk = some b → b.exit = some e → s.mayCommit c x b = true → b.taken = [] → e.kind ∈ [.br, .bri, .call, .calli, .ret] →
    (∀ q ∈ b.slots, q.push = [] ∧ (q.eff = .none ∨ q.eff = f)) → b.slots.countP (fun q => q.eff != .none) = 1 → f ≠ .none →
    let k := s.core c
    let tc := (s.die (dieOf c)).trace
    (∀ cs, f = .localStore cs → cs ≠ [] → s.Yields .blockCommit fun t =>
      (t.core c).lmem = k.lmem ∧ (t.core c).delayed = k.delayed ++ [(s.now + 16, .cells cs)]) ∧
    (∀ pa v, f = .privStore [(pa, v)] → (k.psb.map (·.id)).Nodup → (∀ q ∈ k.psb, q.bytes.length = 32) → k.oldByte s.now pa = none →
      s.Yields .blockCommit fun t => (t.core c).psbByte pa = some v ∧ (∀ a, a ≠ pa → (t.core c).psbByte a = k.psbByte a) ∧
        ∀ n, s.now ≤ n → { t with now := n }.privByte c pa = if n < s.now + 16 then s.privByte c pa else v) ∧
    ((∃ cs, f = .localStore cs) → tc.getLsbD 0 = true → tc.getLsbD 16 = true → s.Yields .blockCommit fun t =>
      if k.traceBuf.length < 8 then (t.core c).traceBuf = k.traceBuf ++
        [⟨1, s.tbase (pkgOf c), c, x, e.kind.num, (s.ctx c x).gtid, b.addr, some e.kind.num⟩]
      else (t.core c).traceBuf = k.traceBuf ∧ (t.core c).traceDrop = true))

end
end

