-- ==== Sys2Proof/Laws/Table.lean ====
section
/-!
SUPPORT. The laws of the two containers: what a table reads after a change, and that every change of memory cells
keeps their canonical form and reads back.
-/

namespace Sys2Proof.Laws

open Sys2Proof.Machine

variable {β : Type}

/-! ### Tables -/

theorem lookup_filter_of_true (t : Tbl β) (p : Nat → Bool) (k : Nat) (h : p k = true) :
    (t.filter fun e => p e.1).lookup k = t.lookup k := by
  induction t with
  | nil => rfl
  | cons e t ih =>
    obtain ⟨a, b⟩ := e
    by_cases hk : k = a
    · subst hk; simp [h]
    · have hk' : (k == a) = false := by simpa using hk
      by_cases hp : p a = true <;> simp [hp, List.lookup_cons, hk', ih]

theorem lookup_filter_of_false (t : Tbl β) (p : Nat → Bool) (k : Nat) (h : p k = false) :
    (t.filter fun e => p e.1).lookup k = none := by
  induction t with
  | nil => rfl
  | cons e t ih =>
    obtain ⟨a, b⟩ := e
    by_cases hp : p a = true
    · have hk : (k == a) = false := by
        rw [beq_eq_false_iff_ne]; exact fun c => by simp [c, hp] at h
      simp [hp, List.lookup_cons, hk, ih]
    · simp [hp, ih]

theorem lookup_append (l m : Tbl β) (k : Nat) : (l ++ m).lookup k = (l.lookup k).or (m.lookup k) := by
  induction l with
  | nil => simp
  | cons e l ih =>
    obtain ⟨a, b⟩ := e
    cases hk : k == a <;> simp [List.lookup_cons, hk, ih]

/-- An entry that is put is read. -/
theorem get?_put_self (t : Tbl β) (k : Nat) (v : β) : (t.put k v).get? k = some v := by
  unfold Tbl.put Tbl.get?
  rw [lookup_append, lookup_filter_of_false t (fun i => decide (i < k)) k (by simp)]
  simp

/-- Every other entry reads as before. -/
theorem get?_put_ne (t : Tbl β) {k j : Nat} (v : β) (h : j ≠ k) : (t.put k v).get? j = t.get? j := by
  unfold Tbl.put Tbl.get?
  rw [lookup_append]
  by_cases hl : j < k
  · rw [lookup_filter_of_true t (fun i => decide (i < k)) j (by simpa using hl)]
    have : List.lookup j ((k, v) :: t.filter fun p => decide (k < p.1)) = none := by
      simp only [List.lookup_cons]
      rw [show (j == k) = false by simpa using h]
      exact lookup_filter_of_false t (fun i => decide (k < i)) j (by simp; omega)
    rw [this]; simp
  · rw [lookup_filter_of_false t (fun i => decide (i < k)) j (by simpa using hl)]
    simp only [List.lookup_cons, Option.none_or]
    rw [show (j == k) = false by simpa using h]
    exact lookup_filter_of_true t (fun i => decide (k < i)) j (by simp; omega)

@[simp] theorem get_put_self (t : Tbl β) (d : β) (k : Nat) (v : β) : (t.put k v).get d k = v := by
  simp [Tbl.get, get?_put_self]

theorem get_put_ne (t : Tbl β) (d : β) {k j : Nat} (v : β) (h : j ≠ k) : (t.put k v).get d j = t.get d j := by
  simp [Tbl.get, get?_put_ne t v h]

theorem get_put (t : Tbl β) (d : β) (k j : Nat) (v : β) : (t.put k v).get d j = if j = k then v else t.get d j := by
  split
  · next h => subst h; simp
  · next h => exact get_put_ne t d v h

/-- The later of two entries at one key stands. -/
@[simp] theorem put_put (t : Tbl β) (k : Nat) (v w : β) : (t.put k v).put k w = t.put k w := by
  simp only [Tbl.put, List.filter_append, List.filter_cons, List.filter_filter]
  simp only [Nat.lt_irrefl, decide_false]
  congr 1
  · have h2 : (t.filter fun p => decide (p.1 < k) && decide (k < p.1)) = [] := by
      rw [List.filter_eq_nil_iff]; intro a _; simp; omega
    simp [h2]
  · have h2 : (t.filter fun p => decide (k < p.1) && decide (p.1 < k)) = [] := by
      rw [List.filter_eq_nil_iff]; intro a _; simp; omega
    simp [h2]

/-- A table whose keys rise strictly keeps that form. -/
theorem wf_put (t : Tbl β) (k : Nat) (v : β) (h : t.wf = true) : (t.put k v).wf = true := by
  simp only [Tbl.wf, decide_eq_true_eq] at *
  unfold Tbl.put
  rw [List.pairwise_append]
  refine ⟨h.filter _, ?_, ?_⟩
  · rw [List.pairwise_cons]
    exact ⟨fun a ha => by simpa using (List.mem_filter.1 ha).2, h.filter _⟩
  · intro a ha b hb
    have ha' := (List.mem_filter.1 ha).2
    simp only [decide_eq_true_eq] at ha'
    rcases List.mem_cons.1 hb with rfl | hb
    · exact ha'
    · have := (List.mem_filter.1 hb).2
      simp only [decide_eq_true_eq] at this
      omega

/-! ### Cells -/

theorem fresh_range (bg : Nat → Byte) (bs : List Byte) (a : Nat) :
    ∀ e ∈ Cells.fresh bg a bs, a ≤ e.1 ∧ e.1 < a + bs.length ∧ e.2 ≠ bg e.1 := by
  induction bs generalizing a with
  | nil => simp [Cells.fresh]
  | cons b bs ih =>
    intro e he
    unfold Cells.fresh at he
    split at he
    · obtain ⟨h1, h2, h3⟩ := ih (a + 1) e he
      exact ⟨by omega, by simp only [List.length_cons]; omega, h3⟩
    · next hb =>
      rcases List.mem_cons.1 he with rfl | he
      · exact ⟨Nat.le_refl a, by simp, hb⟩
      · obtain ⟨h1, h2, h3⟩ := ih (a + 1) e he
        exact ⟨by omega, by simp only [List.length_cons]; omega, h3⟩

theorem fresh_sorted (bg : Nat → Byte) (bs : List Byte) (a : Nat) :
    (Cells.fresh bg a bs).Pairwise (fun x y => x.1 < y.1) := by
  induction bs generalizing a with
  | nil => simp [Cells.fresh]
  | cons b bs ih =>
    unfold Cells.fresh
    split
    · exact ih (a + 1)
    · rw [List.pairwise_cons]
      exact ⟨fun e he => by have := fresh_range bg bs (a + 1) e he; simp; omega, ih (a + 1)⟩

/-- A write keeps the canonical form. -/
theorem wf_writeBytes (bg : Nat → Byte) (cs : Cells) (a : Nat) (bs : List Byte) (h : cs.wf bg = true) :
    (cs.writeBytes bg a bs).wf bg = true := by
  simp only [Cells.wf, Bool.and_eq_true, decide_eq_true_eq, List.all_eq_true, bne_iff_ne] at *
  obtain ⟨hs, hb⟩ := h
  refine ⟨?_, ?_⟩
  · unfold Cells.writeBytes
    rw [List.pairwise_append, List.pairwise_append]
    refine ⟨⟨hs.filter _, fresh_sorted bg bs a, ?_⟩, hs.filter _, ?_⟩
    · intro x hx y hy
      have h1 := (List.mem_filter.1 hx).2
      have h2 := fresh_range bg bs a y hy
      simp only [decide_eq_true_eq] at h1
      omega
    · intro x hx y hy
      have h2 := (List.mem_filter.1 hy).2
      simp only [decide_eq_true_eq] at h2
      rcases List.mem_append.1 hx with hx | hx
      · have h1 := (List.mem_filter.1 hx).2
        simp only [decide_eq_true_eq] at h1
        omega
      · have h1 := fresh_range bg bs a x hx
        omega
  · intro x hx
    unfold Cells.writeBytes at hx
    rcases List.mem_append.1 hx with hx | hx
    · rcases List.mem_append.1 hx with hx | hx
      · exact hb x (List.mem_filter.1 hx).1
      · exact (fresh_range bg bs a x hx).2.2
    · exact hb x (List.mem_filter.1 hx).1

/-- Clearing a range keeps the canonical form. -/
theorem wf_clear (bg : Nat → Byte) (cs : Cells) (a n : Nat) (h : cs.wf bg = true) : (cs.clear a n).wf bg = true := by
  simp only [Cells.wf, Bool.and_eq_true, decide_eq_true_eq, List.all_eq_true, bne_iff_ne] at *
  obtain ⟨hs, hb⟩ := h
  unfold Cells.clear
  refine ⟨?_, ?_⟩
  · rw [List.pairwise_append]
    refine ⟨hs.filter _, hs.filter _, ?_⟩
    intro x hx y hy
    have h1 := (List.mem_filter.1 hx).2
    have h2 := (List.mem_filter.1 hy).2
    simp only [decide_eq_true_eq] at h1 h2
    omega
  · intro x hx
    rcases List.mem_append.1 hx with hx | hx <;> exact hb x (List.mem_filter.1 hx).1

theorem lookup_fresh_out (bg : Nat → Byte) (bs : List Byte) (a k : Nat) (h : k < a ∨ a + bs.length ≤ k) :
    (Cells.fresh bg a bs).lookup k = none := by
  induction bs generalizing a with
  | nil => rfl
  | cons b bs ih =>
    simp only [List.length_cons] at h
    unfold Cells.fresh
    split
    · exact ih (a + 1) (by omega)
    · rw [List.lookup_cons, show (k == a) = false by simp; omega]
      exact ih (a + 1) (by omega)

theorem lookup_fresh_in (bg : Nat → Byte) (bs : List Byte) (a i : Nat) (h : i < bs.length) :
    ((Cells.fresh bg a bs).lookup (a + i)).getD (bg (a + i)) = bs[i] := by
  induction bs generalizing a i with
  | nil => simp at h
  | cons b bs ih =>
    unfold Cells.fresh
    cases i with
    | zero =>
      split
      · next hb => rw [lookup_fresh_out bg bs (a + 1) (a + 0) (by omega)]; simpa using hb.symm
      · simp
    | succ i =>
      have := ih (a + 1) i (by simpa using h)
      rw [show a + 1 + i = a + (i + 1) by omega] at this
      split
      · simpa using this
      · rw [List.lookup_cons, show (a + (i + 1) == a) = false by simp]
        simpa using this

/-- A byte that a write covers reads as written. -/
theorem readByte_writeBytes_in (bg : Nat → Byte) (cs : Cells) (a : Nat) (bs : List Byte) (i : Nat) (h : i < bs.length) :
    (cs.writeBytes bg a bs).readByte bg (a + i) = bs[i] := by
  unfold Cells.readByte Cells.writeBytes
  rw [lookup_append, lookup_append, lookup_filter_of_false cs (fun j => decide (j < a)) (a + i) (by simp),
    lookup_filter_of_false cs (fun j => decide (a + bs.length ≤ j)) (a + i) (by simp; omega)]
  simpa using lookup_fresh_in bg bs a i h

/-- A byte that a write does not cover reads as before. -/
theorem readByte_writeBytes_out (bg : Nat → Byte) (cs : Cells) (a : Nat) (bs : List Byte) (k : Nat)
    (h : k < a ∨ a + bs.length ≤ k) : (cs.writeBytes bg a bs).readByte bg k = cs.readByte bg k := by
  unfold Cells.readByte Cells.writeBytes
  rw [lookup_append, lookup_append, lookup_fresh_out bg bs a k h]
  rcases h with h | h
  · rw [lookup_filter_of_true cs (fun j => decide (j < a)) k (by simpa using h),
      lookup_filter_of_false cs (fun j => decide (a + bs.length ≤ j)) k (by simp; omega)]
    simp
  · rw [lookup_filter_of_false cs (fun j => decide (j < a)) k (by simp; omega),
      lookup_filter_of_true cs (fun j => decide (a + bs.length ≤ j)) k (by simpa using h)]
    simp

end Sys2Proof.Laws
end

