-- ==== Sys2Proof/Laws/State.lean ====
section
/-!
SUPPORT. The laws of reading a part of the state after changing a part of it: one lemma for each reading and each change.
-/

namespace Sys2Proof.Laws

open Sys2Proof.Machine

variable (s : State) (c d x y : Nat)

/-! ### A core changed -/

@[simp] theorem core_modCore_self (f : Core → Core) : (s.modCore c f).core c = f (s.core c) := by
  simp [State.modCore, State.core, State.freshCore]

theorem core_modCore_ne (f : Core → Core) (h : d ≠ c) : (s.modCore c f).core d = s.core d := by
  simp [State.modCore, State.core, State.freshCore, get_put_ne _ _ _ h]

@[simp] theorem modCore_modCore (f g : Core → Core) : (s.modCore c f).modCore c g = s.modCore c fun k => g (f k) := by
  simp [State.modCore, State.core, State.freshCore]

@[simp] theorem modCore_now (f : Core → Core) : (s.modCore c f).now = s.now := rfl
@[simp] theorem modCore_phase (f : Core → Core) : (s.modCore c f).phase = s.phase := rfl
@[simp] theorem modCore_dies (f : Core → Core) : (s.modCore c f).dies = s.dies := rfl
@[simp] theorem modCore_xtals (f : Core → Core) : (s.modCore c f).xtals = s.xtals := rfl
@[simp] theorem modCore_pkgs (f : Core → Core) : (s.modCore c f).pkgs = s.pkgs := rfl
@[simp] theorem modCore_mem (f : Core → Core) : (s.modCore c f).mem = s.mem := rfl
@[simp] theorem modCore_hostMem (f : Core → Core) : (s.modCore c f).hostMem = s.hostMem := rfl
@[simp] theorem modCore_frames (f : Core → Core) : (s.modCore c f).frames = s.frames := rfl
@[simp] theorem modCore_once (f : Core → Core) : (s.modCore c f).once = s.once := rfl
@[simp] theorem modCore_arrived (f : Core → Core) : (s.modCore c f).arrived = s.arrived := rfl
@[simp] theorem modCore_tconf (f : Core → Core) : (s.modCore c f).tconf = s.tconf := rfl
@[simp] theorem modCore_bars (f : Core → Core) : (s.modCore c f).bars = s.bars := rfl
@[simp] theorem modCore_podSums (f : Core → Core) : (s.modCore c f).podSums = s.podSums := rfl
@[simp] theorem modCore_images (f : Core → Core) : (s.modCore c f).images = s.images := rfl
@[simp] theorem modCore_agenda (f : Core → Core) : (s.modCore c f).agenda = s.agenda := rfl
@[simp] theorem modCore_ev (f : Core → Core) : (s.modCore c f).ev = s.ev := rfl
@[simp] theorem modCore_replay (f : Core → Core) : (s.modCore c f).replay = s.replay := rfl
@[simp] theorem modCore_cur (f : Core → Core) : (s.modCore c f).cur = s.cur := rfl
@[simp] theorem modCore_nextId (f : Core → Core) : (s.modCore c f).nextId = s.nextId := rfl
@[simp] theorem modCore_free (f : Core → Core) : (s.modCore c f).free = s.free := rfl

/-! ### A context changed -/

@[simp] theorem ctx_put_self (k : Core) (t : Ctx) : ({ k with ctxs := k.ctxs.put x t } : Core).ctx x = t := by
  simp [Core.ctx]

theorem ctx_put_ne (k : Core) (t : Ctx) (h : y ≠ x) : ({ k with ctxs := k.ctxs.put x t } : Core).ctx y = k.ctx y := by
  simp [Core.ctx, get_put_ne _ _ _ h]

@[simp] theorem ctx_modCtx_self (f : Ctx → Ctx) : (s.modCtx c x f).ctx c x = f (s.ctx c x) := by
  simp [State.modCtx, State.ctx]

theorem ctx_modCtx_ne (f : Ctx → Ctx) (h : y ≠ x) : (s.modCtx c x f).ctx c y = s.ctx c y := by
  simp [State.modCtx, State.ctx, ctx_put_ne _ _ _ _ h]

theorem ctx_modCtx_core (f : Ctx → Ctx) (h : d ≠ c) : (s.modCtx c x f).ctx d y = s.ctx d y := by
  simp [State.modCtx, State.ctx, core_modCore_ne _ _ _ _ h]

@[simp] theorem modCtx_modCtx (f g : Ctx → Ctx) : (s.modCtx c x f).modCtx c x g = s.modCtx c x fun t => g (f t) := by
  simp [State.modCtx]

/-- A change of a context is a change of its core. -/
theorem modCtx_eq (f : Ctx → Ctx) : s.modCtx c x f = s.modCore c fun k => { k with ctxs := k.ctxs.put x (f (k.ctx x)) } := rfl

/-- A change of a block is a change of its context. -/
theorem modBlock_eq (f : Block → Block) : s.modBlock c x f = s.modCtx c x fun t => { t with blk := t.blk.map f } := rfl

@[simp] theorem modCtx_now (f : Ctx → Ctx) : (s.modCtx c x f).now = s.now := rfl
@[simp] theorem modCtx_cur (f : Ctx → Ctx) : (s.modCtx c x f).cur = s.cur := rfl
@[simp] theorem modCtx_mem (f : Ctx → Ctx) : (s.modCtx c x f).mem = s.mem := rfl
@[simp] theorem modCtx_hostMem (f : Ctx → Ctx) : (s.modCtx c x f).hostMem = s.hostMem := rfl
@[simp] theorem modCtx_agenda (f : Ctx → Ctx) : (s.modCtx c x f).agenda = s.agenda := rfl
@[simp] theorem modCtx_pkgs (f : Ctx → Ctx) : (s.modCtx c x f).pkgs = s.pkgs := rfl
@[simp] theorem modCtx_ev (f : Ctx → Ctx) : (s.modCtx c x f).ev = s.ev := rfl
@[simp] theorem modBlock_now (f : Block → Block) : (s.modBlock c x f).now = s.now := rfl
@[simp] theorem modBlock_cur (f : Block → Block) : (s.modBlock c x f).cur = s.cur := rfl
@[simp] theorem modBlock_mem (f : Block → Block) : (s.modBlock c x f).mem = s.mem := rfl
@[simp] theorem modBlock_hostMem (f : Block → Block) : (s.modBlock c x f).hostMem = s.hostMem := rfl
@[simp] theorem modBlock_agenda (f : Block → Block) : (s.modBlock c x f).agenda = s.agenda := rfl

/-! ### Dies, crystallisers and packages -/

@[simp] theorem die_modDie_self (f : Die → Die) : (s.modDie d f).die d = f (s.die d) := by simp [State.modDie, State.die]
theorem die_modDie_ne (f : Die → Die) {e : Nat} (h : e ≠ d) : (s.modDie d f).die e = s.die e := get_put_ne _ _ _ h
@[simp] theorem xtal_modXtal_self (f : Xtal → Xtal) : (s.modXtal d f).xtal d = f (s.xtal d) := by simp [State.modXtal, State.xtal]
theorem xtal_modXtal_ne (f : Xtal → Xtal) {e : Nat} (h : e ≠ d) : (s.modXtal d f).xtal e = s.xtal e := by
  simp [State.modXtal, State.xtal, get_put_ne _ _ _ h]
@[simp] theorem pkg_modPkg_self (f : Package → Package) : (s.modPkg d f).pkg d = f (s.pkg d) := by simp [State.modPkg, State.pkg]
theorem pkg_modPkg_ne (f : Package → Package) {e : Nat} (h : e ≠ d) : (s.modPkg d f).pkg e = s.pkg e := get_put_ne _ _ _ h
@[simp] theorem windowsBegun_modPkg (f : Package → Package) : (s.modPkg d f).windowsBegun = s.windowsBegun := rfl
@[simp] theorem windowsBegun_modDie (f : Die → Die) : (s.modDie d f).windowsBegun = s.windowsBegun := rfl
@[simp] theorem windowsBegun_modCore (f : Core → Core) : (s.modCore c f).windowsBegun = s.windowsBegun := rfl
@[simp] theorem windowsBegun_sched (t : Nat) (e : Event) : (s.sched t e).windowsBegun = s.windowsBegun := rfl
@[simp] theorem modPkg_mem (f : Package → Package) : (s.modPkg d f).mem = s.mem := rfl
@[simp] theorem modPkg_hostMem (f : Package → Package) : (s.modPkg d f).hostMem = s.hostMem := rfl
@[simp] theorem modPkg_cores (f : Package → Package) : (s.modPkg d f).cores = s.cores := rfl
@[simp] theorem modXtal_mem (f : Xtal → Xtal) : (s.modXtal d f).mem = s.mem := rfl
@[simp] theorem modXtal_hostMem (f : Xtal → Xtal) : (s.modXtal d f).hostMem = s.hostMem := rfl
@[simp] theorem modDie_mem (f : Die → Die) : (s.modDie d f).mem = s.mem := rfl
@[simp] theorem modDie_hostMem (f : Die → Die) : (s.modDie d f).hostMem = s.hostMem := rfl

/-! ### The agenda -/

@[simp] theorem sched_now (t : Nat) (e : Event) : (s.sched t e).now = s.now := rfl
@[simp] theorem sched_cores (t : Nat) (e : Event) : (s.sched t e).cores = s.cores := rfl
@[simp] theorem sched_mem (t : Nat) (e : Event) : (s.sched t e).mem = s.mem := rfl
@[simp] theorem sched_hostMem (t : Nat) (e : Event) : (s.sched t e).hostMem = s.hostMem := rfl
@[simp] theorem sched_pkgs (t : Nat) (e : Event) : (s.sched t e).pkgs = s.pkgs := rfl
@[simp] theorem sched_core (t : Nat) (e : Event) : (s.sched t e).core c = s.core c := rfl

/-- A step that is added to an agenda is in it, and every other that was in it stays. -/
theorem mem_agendaInsert (t : Nat) (e : Event) (l : List (Nat × Event)) (p : Nat × Event) :
    p ∈ agendaInsert t e l ↔ p = (t, e) ∨ p ∈ l := by
  induction l with
  | nil => simp [agendaInsert]
  | cons a l ih =>
    obtain ⟨u, j⟩ := a
    unfold agendaInsert
    split
    · simp
    · simp only [List.mem_cons, ih]
      constructor
      · rintro (h | h | h)
        · exact .inr (.inl h)
        · exact .inl h
        · exact .inr (.inr h)
      · rintro (h | h | h)
        · exact .inr (.inl h)
        · exact .inl h
        · exact .inr (.inr h)

/-- The agenda stays in order of the cycles. -/
theorem agendaInsert_sorted (t : Nat) (e : Event) (l : List (Nat × Event)) (h : l.Pairwise (fun a b => a.1 ≤ b.1)) :
    (agendaInsert t e l).Pairwise (fun a b => a.1 ≤ b.1) := by
  induction l with
  | nil => simp [agendaInsert]
  | cons a l ih =>
    obtain ⟨u, j⟩ := a
    rw [List.pairwise_cons] at h
    unfold agendaInsert
    split
    · next hu =>
      rw [List.pairwise_cons]
      refine ⟨?_, List.pairwise_cons.2 h⟩
      intro b hb
      rcases List.mem_cons.1 hb with rfl | hb
      · exact Nat.le_of_lt hu
      · exact Nat.le_trans (Nat.le_of_lt hu) (h.1 b hb)
    · next hu =>
      rw [List.pairwise_cons]
      refine ⟨?_, ih h.2⟩
      intro b hb
      rcases (mem_agendaInsert t e l b).1 hb with rfl | hb
      · exact Nat.le_of_not_lt hu
      · exact h.1 b hb

/-! ### Registers -/

@[simp] theorem gReg_zero (t : Ctx) : t.gReg 0 = ⟨.full, 0⟩ := rfl
@[simp] theorem pReg_zero (t : Ctx) : t.pReg 0 = ⟨.full, 0xFFFFFFFF⟩ := rfl
@[simp] theorem setG_zero (t : Ctx) (v : W64) : t.setG 0 v = t := rfl
@[simp] theorem setP_zero (t : Ctx) (v : W64) : t.setP 0 v = t := rfl

theorem gReg_setG_self (t : Ctx) (r : Nat) (v : W64) (h : r ≠ 0) : (t.setG r v).gReg r = ⟨.full, v⟩ := by
  simp [Ctx.setG, Ctx.gReg, h]

theorem gReg_setG_ne (t : Ctx) (r q : Nat) (v : W64) (h : q ≠ r) : (t.setG r v).gReg q = t.gReg q := by
  by_cases hr : r = 0
  · simp [hr]
  · simp [Ctx.setG, Ctx.gReg, hr, get_put_ne _ _ _ h]

theorem pReg_setP_self (t : Ctx) (r : Nat) (v : W64) (h : r ≠ 0) : (t.setP r v).pReg r = ⟨.full, v.setWidth 32⟩ := by
  simp [Ctx.setP, Ctx.pReg, h]

theorem pReg_setP_ne (t : Ctx) (r q : Nat) (v : W64) (h : q ≠ r) : (t.setP r v).pReg q = t.pReg q := by
  by_cases hr : r = 0
  · simp [hr]
  · simp [Ctx.setP, Ctx.pReg, hr, get_put_ne _ _ _ h]

theorem oxReg_setOx (t : Ctx) (r q : Nat) (v : W64) : (t.setOx r v).oxReg q = if q = r then ⟨.full, v⟩ else t.oxReg q := by
  simp [Ctx.setOx, Ctx.oxReg, get_put]

/-! ### Memories -/

@[simp] theorem modCore_readByte (f : Core → Core) (a : Nat) : (s.modCore c f).readByte a = s.readByte a := rfl
@[simp] theorem modCtx_readByte (f : Ctx → Ctx) (a : Nat) : (s.modCtx c x f).readByte a = s.readByte a := rfl
@[simp] theorem modPkg_readByte (f : Package → Package) (a : Nat) : (s.modPkg d f).readByte a = s.readByte a := rfl
@[simp] theorem modXtal_readByte (f : Xtal → Xtal) (a : Nat) : (s.modXtal d f).readByte a = s.readByte a := rfl
@[simp] theorem sched_readByte (t : Nat) (e : Event) (a : Nat) : (s.sched t e).readByte a = s.readByte a := rfl

/-- A byte of device memory that a write covers reads as written. -/
theorem readByte_writeMem_in (a : Nat) (bs : List Byte) (i : Nat) (h : i < bs.length) :
    (s.writeMem a bs).readByte (a + i) = bs[i] := readByte_writeBytes_in _ _ _ _ _ h

/-- Bytes read from an address on, as bytes one by one. -/
theorem readBytes_eq_map (cs : Cells) (bg : Nat → Byte) (n : Nat) :
    ∀ a, cs.readBytes bg a n = (List.range n).map fun i => cs.readByte bg (a + i) := by
  induction n with
  | zero => intro a; rfl
  | succ n ih =>
    intro a
    rw [List.range_succ_eq_map, List.map_cons, List.map_map]
    simp only [Cells.readBytes, ih, Nat.add_zero, List.cons.injEq, true_and]
    exact List.map_congr_left fun i _ => by simp [Nat.add_comm, Nat.add_left_comm]

/-- Device memory reads what was written there. -/
theorem readMem_writeMem (a : Nat) (bs : List Byte) : (s.writeMem a bs).readMem a bs.length = bs := by
  unfold State.readMem
  rw [readBytes_eq_map]
  refine List.ext_getElem (by simp) fun i h _ => ?_
  have hi : i < bs.length := by simpa using h
  simpa [State.readByte] using readByte_writeMem_in s a bs i hi

/-- A byte of device memory that a write does not cover reads as before. -/
theorem readByte_writeMem_out (a : Nat) (bs : List Byte) (k : Nat) (h : k < a ∨ a + bs.length ≤ k) :
    (s.writeMem a bs).readByte k = s.readByte k := readByte_writeBytes_out _ _ _ _ _ h

/-- A write of device memory keeps its canonical form. -/
theorem wf_writeMem (a : Nat) (bs : List Byte) (h : s.mem.wf s.bg = true) :
    (s.writeMem a bs).mem.wf (s.writeMem a bs).bg = true := wf_writeBytes _ _ _ _ h

/-- A write of host memory keeps its canonical form. -/
theorem wf_writeHost (a : Nat) (bs : List Byte) (h : s.hostMem.wf zeroBg = true) :
    (s.writeHost a bs).hostMem.wf zeroBg = true := wf_writeBytes _ _ _ _ h

/-- A write of local memory keeps its canonical form. -/
theorem wf_writeLocal (k : Core) (a : Nat) (bs : List Byte) (h : k.lmem.wf zeroBg = true) :
    (k.writeLocal a bs).lmem.wf zeroBg = true := wf_writeBytes _ _ _ _ h

/-- Writes of single cells of local memory keep its canonical form. -/
theorem wf_writeCells (cs : List Host.Cell) (k : Core) (h : k.lmem.wf zeroBg = true) :
    (k.writeCells cs).lmem.wf zeroBg = true := by
  unfold Core.writeCells
  induction cs generalizing k with
  | nil => exact h
  | cons e cs ih => exact ih _ (wf_writeLocal k e.1 [e.2] h)

/-- Writes of the bytes that are given keep the canonical form. -/
theorem wf_writeMask (bs : List (Option Byte)) (s : State) (a : Nat) (h : s.mem.wf s.bg = true) :
    (s.writeMask a bs).mem.wf (s.writeMask a bs).bg = true := by
  induction bs generalizing s a with
  | nil => exact h
  | cons b bs ih =>
    cases b with
    | none => exact ih s (a + 1) h
    | some v => exact ih _ (a + 1) (wf_writeMem s a [v] h)

end Sys2Proof.Laws
end

