-- ==== Sys2Proof/Laws/Firing.lean ====
section
/-!
SUPPORT. What the shared operations of a firing do, each said once as `Fires`: marking the slot, sending tokens, counting
events, recording an exit.
-/

namespace Sys2Proof.Machine

open Sys2Proof.Laws

/-- All that a chain of changes of the firing core makes of a state. -/
theorem eq_of_rest {s t : State} (h : { t with cores := s.cores } = s) :
    t.now = s.now ∧ t.cur = s.cur ∧ t.pkgs = s.pkgs := by
  have h1 := congrArg State.now h
  have h2 := congrArg State.cur h
  have h3 := congrArg State.pkgs h
  exact ⟨h1, h2, h3⟩

/-- The reservations of a core do not touch its contexts. -/
theorem ctx_reserved (k : Core) (r : Tbl Nat) (m : Tbl Ctx) (x : Nat) :
    Core.ctx { k with ctxs := m, reserved := r } x = Core.ctx { k with ctxs := m } x := rfl

/-- The change of a block is the change of a context that holds it. -/
theorem ctx_firing (f g : Firing) (now k : Nat) (t : Ctx) (u : Block → Block) (hp : f.passed = g.passed)
    (h : ∀ b, u (f.block now k b) = g.block now k b) :
    (fun t : Ctx => { t with blk := t.blk.map u }) (f.ctx now k t) = g.ctx now k t := by
  have : u ∘ f.block now k = g.block now k := funext h
  simp [Firing.ctx, hp, this]

/-- A firing that only marks its slot (R48, R54). -/
theorem fires_fired (s : State) (n : Bool) (e : Eff) : Fires s (s.fired n e) { isNull := n, eff := e } := by
  have hb : ∀ b : Block, b.modSlot s.cur.slot (fun q => { q with fired := true, walking := false, isNull := n, eff := e })
      = Firing.block { isNull := n, eff := e } s.now s.cur.slot b := by
    intro b
    simp [Block.modSlot, Firing.block, Firing.flights]
    congr 1
    funext q
    simp [Firing.slot, Firing.pushes, Firing.links]
  constructor
  · simp only [State.fired, State.cctx, modBlock_eq, modCtx_cur, ctx_modCtx_self, hb, Firing.ctx, List.append_nil]
  · intro x hx
    simp only [State.fired, State.ccore, modBlock_eq, modCtx_eq, modCore_cur, core_modCore_self]
    exact ctx_put_ne _ _ _ _ hx
  · simp [State.fired, State.ccore, modBlock_eq, modCtx_eq]
  · intro d
    simp [State.fired, State.ccore, modBlock_eq, modCtx_eq, Firing.reserves, Firing.links]
  · intro c hc
    simp only [State.fired, modBlock_eq, modCtx_eq]
    exact core_modCore_ne _ _ _ _ hc
  · rfl

/-- A further change of the firing context and of the reservations of its core. -/
theorem Fires.change {s t : State} {f g : Firing} (h : Fires s t f) (u : Ctx → Ctx) (v : Tbl Nat → Tbl Nat)
    (hu : u (f.ctx s.now s.cur.slot s.cctx) = g.ctx s.now s.cur.slot s.cctx)
    (ht : f.tlb = g.tlb) (hb : f.banks = g.banks)
    (hr : ∀ d, (v t.ccore.reserved).get 0 d + f.reserves d = t.ccore.reserved.get 0 d + g.reserves d) :
    Fires s ((t.modCtx s.cur.core s.cur.ctx u).modCore s.cur.core fun k => { k with reserved := v k.reserved }) g := by
  obtain ⟨hn, hcur, hp⟩ := eq_of_rest h.rest
  constructor
  · have := h.window
    simp only [State.cctx, State.ctx, modCtx_eq, modCore_modCore, modCore_cur, hcur, core_modCore_self] at this ⊢
    rw [ctx_reserved, ctx_put_self, this]
    exact hu
  · intro x hx
    have := h.contexts x hx
    simp only [State.ccore, modCtx_eq, modCore_modCore, modCore_cur, hcur, core_modCore_self] at this ⊢
    rw [ctx_reserved, ctx_put_ne _ _ _ _ hx]
    exact this
  · have := h.core
    simp only [State.ccore, modCtx_eq, modCore_modCore, modCore_cur, hcur, core_modCore_self] at this ⊢
    rw [← ht, ← hb]; exact this
  · intro d
    have h1 := h.reserved d
    have h2 := hr d
    simp only [State.ccore, modCtx_eq, modCore_modCore, modCore_cur, hcur, core_modCore_self] at h1 h2 ⊢
    omega
  · intro c hc'
    simp only [modCtx_eq, modCore_modCore]
    rw [core_modCore_ne _ _ _ _ hc']; exact h.cores c hc'
  · exact h.rest

/-- A further change of the firing context alone. -/
theorem Fires.changeCtx {s t : State} {f g : Firing} (h : Fires s t f) (u : Ctx → Ctx)
    (hu : u (f.ctx s.now s.cur.slot s.cctx) = g.ctx s.now s.cur.slot s.cctx)
    (ht : f.tlb = g.tlb) (hb : f.banks = g.banks) (hr : ∀ d, f.reserves d = g.reserves d) :
    Fires s (t.modCtx s.cur.core s.cur.ctx u) g := by
  have := h.change u id hu ht hb (fun d => by simp [hr d])
  simpa [modCtx_eq] using this

/-- The further change of the block when one more token is sent. -/
theorem block_out (f : Firing) (now k : Nat) (e : BitVec 8 × Tok) (b : Block) :
    Firing.block { f with out := f.out ++ [e] } now k b =
      { (f.block now k b).modSlot k (fun q => { q with push := q.push ++ Firing.pushes { out := [e] } }) with
        flights := (f.block now k b).flights ++ Firing.flights { out := [e] } (now + 16) } := by
  simp [Firing.block, Block.modSlot, Firing.flights, List.modify_modify_eq]
  congr 1
  funext q
  simp [Firing.slot, Firing.pushes, Firing.links]

/-- The flights of one token. -/
theorem flights_one (b : BitVec 8) (k : Tok) (due : Nat) : Firing.flights { out := [(b, k)] } due =
    if b = 0 ∨ b.toNat / 64 = 3 then [] else [⟨due, b.toNat % 64, b.toNat / 64, k⟩] := by
  by_cases h0 : b = 0
  · subst h0; rfl
  · by_cases h3 : b.toNat / 64 = 3
    · simp [Firing.flights, h3]
    · have h0' : b ≠ 0#8 := h0
      simp [Firing.flights, h3, h0']

/-- The pushes of one token. -/
theorem pushes_one (b : BitVec 8) (k : Tok) : Firing.pushes { out := [(b, k)] } =
    if b.toNat / 64 = 3 then [(dirOf (b.toNat % 4), if k.isNull then none else some k)] else [] := by
  by_cases h3 : b.toNat / 64 = 3 <;> simp [Firing.pushes, Firing.links, h3]

/-- No push changes no slot. -/
theorem modSlot_nil (b : Block) (k : Nat) : b.modSlot k (fun q => { q with push := q.push ++ [] }) = b := by
  have : (fun q : Slot => { q with push := q.push ++ [] }) = id := by funext q; simp
  rw [Block.modSlot, this, List.modify_id]

/-- One more token is sent (R21, R41, R264). -/
theorem Fires.emitOne {s t : State} {f : Firing} (h : Fires s t f) (b : BitVec 8) (k : Tok) :
    Fires s (t.emitAt s.cur.core s.cur.ctx s.cur.slot (s.now + 16) [b] k) { f with out := f.out ++ [(b, k)] } := by
  simp only [State.emitAt, List.foldl_cons, List.foldl_nil]
  split
  · next hb =>
    subst hb
    obtain ⟨h1, h2, h3, h4, h5, h6⟩ := h
    refine ⟨?_, h2, h3, ?_, h5, h6⟩
    · rw [h1]
      have e : f.block s.now s.cur.slot = Firing.block { f with out := f.out ++ [(0, k)] } s.now s.cur.slot := by
        funext b
        have hf := flights_one 0 k (s.now + 16)
        have hp := pushes_one 0 k
        rw [if_pos (Or.inl rfl)] at hf
        rw [if_neg (by decide)] at hp
        rw [block_out, hf, hp, modSlot_nil, List.append_nil]
      unfold Firing.ctx
      rw [e]
    · intro d; rw [h4 d]; simp [Firing.reserves, Firing.links]
  · next h0 =>
    have h0' : (b != 0#8) = true := by simpa using h0
    split
    · next h3 =>
      rw [modBlock_eq]
      refine h.change _ (fun r => r.put (dirOf (b.toNat % 4)).num (r.get 0 (dirOf (b.toNat % 4)).num + 1)) ?_ rfl rfl ?_
      · refine ctx_firing _ _ _ _ _ _ rfl fun w => ?_
        have hf := flights_one b k (s.now + 16)
        have hp := pushes_one b k
        rw [if_pos (Or.inr h3)] at hf
        rw [if_pos h3] at hp
        rw [block_out, hf, hp, List.append_nil]
        rfl
      · intro d
        have hd : (dirOf (b.toNat % 4)).num = b.toNat % 4 := by
          have : b.toNat % 4 < 4 := Nat.mod_lt _ (by omega)
          generalize b.toNat % 4 = n at *
          match n, this with
          | 0, _ => rfl
          | 1, _ => rfl
          | 2, _ => rfl
          | 3, _ => rfl
        rw [hd, get_put]
        simp only [Firing.reserves, Firing.links, List.filter_append, List.countP_append]
        by_cases hq : d = b.toNat % 4
        · simp [hq, h3]; omega
        · simp [hq, h3, Ne.symm hq]
    · next h3 =>
      rw [modBlock_eq]
      refine h.changeCtx _ ?_ rfl rfl ?_
      · refine ctx_firing _ _ _ _ _ _ rfl fun w => ?_
        have hf := flights_one b k (s.now + 16)
        have hp := pushes_one b k
        rw [if_neg (fun c => c.elim h0 h3)] at hf
        rw [if_neg h3] at hp
        rw [block_out, hf, hp, modSlot_nil]
      · intro d
        simp [Firing.reserves, Firing.links, h3]

/-- Tokens are sent to several targets. -/
theorem Fires.emitAt {s t : State} {f : Firing} (h : Fires s t f) (ts : List (BitVec 8)) (k : Tok) :
    Fires s (t.emitAt s.cur.core s.cur.ctx s.cur.slot (s.now + 16) ts k) { f with out := f.out ++ sameTok ts k } := by
  induction ts generalizing t f with
  | nil => simpa [State.emitAt, sameTok] using h
  | cons b ts ih =>
    have := ih (h.emitOne b k)
    simpa [State.emitAt, sameTok] using this

/-- The result of the firing slot is sent. -/
theorem Fires.emit {s t : State} {f : Firing} (h : Fires s t f) (ts : List (BitVec 8)) (k : Tok) :
    Fires s (t.emit ts k) { f with out := f.out ++ sameTok ts k } := by
  obtain ⟨hn, hcur, hp⟩ := eq_of_rest h.rest
  have := h.emitAt ts k
  rwa [← hn, ← hcur] at this

/-- Exception events are noted for the commit (R140). -/
theorem Fires.events {s t : State} {f : Firing} (h : Fires s t f) (ev : List (Nat × Nat)) :
    Fires s (t.events ev) { f with ex := f.ex ++ ev } := by
  obtain ⟨hn, hcur, hp⟩ := eq_of_rest h.rest
  unfold State.events
  rw [hcur, modBlock_eq]
  refine h.changeCtx _ ?_ rfl rfl (fun d => rfl)
  refine ctx_firing _ _ _ _ _ _ rfl fun w => ?_
  simp [Firing.block, Block.modSlot, Firing.flights, List.modify_modify_eq]
  congr 1
  funext q
  simp [Firing.slot, Firing.pushes, Firing.links]

/-- A change of the firing block that its description covers. -/
theorem Fires.onBlock {s t : State} {f g : Firing} (h : Fires s t f) (u : Block → Block)
    (hu : ∀ b, u (f.block s.now s.cur.slot b) = g.block s.now s.cur.slot b) (hp : f.passed = g.passed)
    (ht : f.tlb = g.tlb) (hb : f.banks = g.banks) (hr : ∀ d, f.reserves d = g.reserves d) :
    Fires s (t.modBlock s.cur.core s.cur.ctx u) g := by
  rw [modBlock_eq]
  exact h.changeCtx _ (ctx_firing _ _ _ _ _ _ hp hu) ht hb hr

/-- A scalar instruction of class S that is not turned off sends its value to every target (R43, R101). -/
theorem fires_scalar (s : State) (pm : Pm) (ts : List (BitVec 8)) (f : W64 → W64 → W64 → W64) (h : s.offScalar pm = false) :
    Fires s (s.fireScalar pm ts f) { out := sameTok ts (.scalar (f s.lval s.rval s.pval)) } := by
  unfold State.fireScalar
  rw [h]
  exact (fires_fired s false .none).emit ts _

/-- An instruction that fires null sends null to every target and does nothing else (R46). -/
theorem fires_null (s : State) (ts : List (BitVec 8)) : Fires s (s.fireNull ts) { isNull := true, out := sameTok ts .null } :=
  (fires_fired s true .none).emit ts .null

/-- The exit of a block without one fires (R52). -/
theorem fires_exit (s : State) (e : BlkExit) (h : s.cblk.exit = none) : Fires s (s.fireExit e) { exit := some e } := by
  unfold State.fireExit
  rw [h]
  exact (fires_fired s false .none).onBlock _ (fun b => by simp [Firing.block, Firing.flights]; rfl) rfl rfl rfl (fun d => rfl)

/-- A token of lanes is sent, with its events (R139). -/
theorem fires_vector (s : State) (ts : List (BitVec 8)) (ev : List (Nat × Nat)) (k : Tok) :
    Fires s ((s.fired.events ev).emit ts k) { out := sameTok ts k, ex := ev } :=
  ((fires_fired s false .none).events ev).emit ts k

/-- An instruction that fires as a scalar one of class S sends its value. -/
theorem sends_scalar {s : State} {i : Instr} {pm : Pm} {ts : List (BitVec 8)} {f : W64 → W64 → W64 → W64} {v : W64}
    (h : s.offScalar pm = false) (he : exec i s = .next (s.fireScalar pm ts f)) (hv : f s.lval s.rval s.pval = v) :
    s.Sends i ts (.scalar v) :=
  ⟨_, he, hv ▸ fires_scalar s pm ts f h⟩

/-- An instruction of class C that passes its checks records its effect (R66). -/
theorem fires_eff (s : State) (pm : Pm) (f : State → Except Cause Eff) (e : Eff) (h : s.offScalar pm = false)
    (hf : f s = .ok e) : Fires s (s.fireEff pm f) { eff := e } := by
  unfold State.fireEff
  rw [h, hf]
  exact fires_fired s false e

/-- One that is turned off fires null. -/
theorem fires_eff_off (s : State) (pm : Pm) (f : State → Except Cause Eff) (h : s.offScalar pm = true) :
    Fires s (s.fireEff pm f) { isNull := true } := by
  unfold State.fireEff
  rw [h]
  exact fires_fired s true .none

end Sys2Proof.Machine
end

