-- ==== Sys2Proof/Laws/Memory.lean ====
section
/-!
SUPPORT. The canonical form of every memory: that reset has it, and that the operations by which a step changes a core, a
package, device memory or host memory keep it.
-/

namespace Sys2Proof.Laws

open Sys2Proof.Machine

/-- Every memory is in canonical form at reset. -/
theorem memory_wf_reset : Memory.wf State.reset = true := by decide

/-- What the canonical form of all memories is made of. -/
theorem memory_wf_iff (s : State) : Memory.wf s = true ↔ s.mem.wf s.bg = true ∧ s.hostMem.wf zeroBg = true ∧
    (∀ e ∈ s.cores, e.2.lmem.wf zeroBg = true) ∧ (∀ e ∈ s.images, e.2.2.lmem.wf zeroBg = true) ∧
    ∀ e ∈ s.pkgs, ∀ i ∈ e.2.localImages, i.2.wf zeroBg = true := by
  simp [Memory.wf, and_assoc]

/-- An entry that a lookup finds stands in the table. -/
theorem mem_of_lookup {β : Type} (t : Tbl β) (k : Nat) (v : β) (h : t.lookup k = some v) : (k, v) ∈ t := by
  induction t with
  | nil => simp at h
  | cons e t ih =>
    obtain ⟨j, w⟩ := e
    by_cases hk : k = j
    · subst hk
      simp only [List.lookup_cons, beq_self_eq_true, Option.some.injEq] at h
      simp [h]
    · have hb : (k == j) = false := by simpa using hk
      rw [List.lookup_cons, hb] at h
      exact List.mem_cons_of_mem _ (ih h)

/-- The local memory of any core is in canonical form. -/
theorem lmem_wf_core (s : State) (c : Nat) (h : Memory.wf s = true) : (s.core c).lmem.wf zeroBg = true := by
  obtain ⟨_, _, hc, _⟩ := (memory_wf_iff s).1 h
  unfold State.core Tbl.get Tbl.get?
  cases hl : s.cores.lookup c with
  | none => rfl
  | some k => exact hc _ (mem_of_lookup _ _ _ hl)

/-- An entry of a table after a put is the one put or was there before. -/
theorem mem_put {β : Type} (t : Tbl β) (k : Nat) (v : β) (e : Nat × β) (h : e ∈ t.put k v) : e = (k, v) ∨ e ∈ t := by
  unfold Tbl.put at h
  rcases List.mem_append.1 h with h | h
  · exact .inr (List.mem_filter.1 h).1
  · rcases List.mem_cons.1 h with h | h
    · exact .inl h
    · exact .inr (List.mem_filter.1 h).1

/-- A change of a core that leaves its local memory canonical keeps the form. -/
theorem memory_wf_modCore (s : State) (c : Nat) (f : Core → Core) (h : Memory.wf s = true)
    (hf : (f (s.core c)).lmem.wf zeroBg = true) : Memory.wf (s.modCore c f) = true := by
  obtain ⟨h1, h2, h3, h4, h5⟩ := (memory_wf_iff s).1 h
  refine (memory_wf_iff _).2 ⟨h1, h2, fun e he => ?_, h4, h5⟩
  rcases mem_put _ _ _ _ he with rfl | he
  · exact hf
  · exact h3 _ he

/-- A change of a core that does not touch its local memory keeps the form. -/
theorem memory_wf_modCore_of_lmem (s : State) (c : Nat) (f : Core → Core) (h : Memory.wf s = true)
    (hf : ∀ k, (f k).lmem = k.lmem) : Memory.wf (s.modCore c f) = true :=
  memory_wf_modCore s c f h (by rw [hf]; exact lmem_wf_core s c h)

/-- A change of a context keeps the form. -/
theorem memory_wf_modCtx (s : State) (c x : Nat) (f : Ctx → Ctx) (h : Memory.wf s = true) : Memory.wf (s.modCtx c x f) = true :=
  memory_wf_modCore_of_lmem s c _ h fun _ => rfl

/-- A change of a package that does not touch the loader's images keeps the form. -/
theorem memory_wf_modPkg (s : State) (p : Nat) (f : Package → Package) (h : Memory.wf s = true)
    (hf : ∀ k, (f k).localImages = k.localImages) : Memory.wf (s.modPkg p f) = true := by
  obtain ⟨h1, h2, h3, h4, h5⟩ := (memory_wf_iff s).1 h
  refine (memory_wf_iff _).2 ⟨h1, h2, h3, h4, fun e he i hi => ?_⟩
  rcases mem_put _ _ _ _ he with rfl | he
  · rw [hf] at hi
    unfold State.pkg Tbl.get Tbl.get? at hi
    cases hl : s.pkgs.lookup p with
    | none => rw [hl] at hi; simp [Option.getD] at hi
    | some k =>
      rw [hl] at hi
      exact h5 _ (mem_of_lookup _ _ _ hl) i hi
  · exact h5 _ he i hi

/-- A change of a crystalliser keeps the form. -/
theorem memory_wf_modXtal (s : State) (d : Nat) (f : Xtal → Xtal) (h : Memory.wf s = true) : Memory.wf (s.modXtal d f) = true := h
/-- A change of a die keeps the form. -/
theorem memory_wf_modDie (s : State) (d : Nat) (f : Die → Die) (h : Memory.wf s = true) : Memory.wf (s.modDie d f) = true := h
/-- A step planned keeps the form. -/
theorem memory_wf_sched (s : State) (t : Nat) (e : Event) (h : Memory.wf s = true) : Memory.wf (s.sched t e) = true := h

/-- A write of device memory keeps the form. -/
theorem memory_wf_writeMem (s : State) (a : Nat) (bs : List Byte) (h : Memory.wf s = true) : Memory.wf (s.writeMem a bs) = true := by
  obtain ⟨h1, h2⟩ := (memory_wf_iff s).1 h
  exact (memory_wf_iff _).2 ⟨wf_writeMem s a bs h1, h2⟩

/-- A write of host memory keeps the form. -/
theorem memory_wf_writeHost (s : State) (a : Nat) (bs : List Byte) (h : Memory.wf s = true) : Memory.wf (s.writeHost a bs) = true := by
  obtain ⟨h1, h2, h3⟩ := (memory_wf_iff s).1 h
  exact (memory_wf_iff _).2 ⟨h1, wf_writeHost s a bs h2, h3⟩

/-- A frame whose contents are cleared may take any state: what it no longer lists reads as the new bottom. -/
theorem wf_clear_frame (cs : Cells) (bg bg' : Nat → Byte) (a n : Nat) (h : cs.wf bg = true)
    (hb : ∀ k, k < a ∨ a + n ≤ k → bg' k = bg k) : (cs.clear a n).wf bg' = true := by
  have hc := wf_clear bg cs a n h
  unfold Cells.wf at hc ⊢
  simp only [Bool.and_eq_true, List.all_eq_true] at hc ⊢
  refine ⟨hc.1, fun e he => ?_⟩
  have := hc.2 e he
  have hr : e.1 < a ∨ a + n ≤ e.1 := by
    unfold Cells.clear at he
    rcases List.mem_append.1 he with he | he
    · exact .inl (by simpa using (List.mem_filter.1 he).2)
    · exact .inr (by simpa using (List.mem_filter.1 he).2)
  rw [hb _ hr]
  exact this

end Sys2Proof.Laws
end

