-- ==== Sys2Proof/Laws/PerInstr.lean ====
section
/-!
SUPPORT. One statement about every instruction as syntax, lemma by lemma: its word has no bit beyond those of its row.
-/

namespace Sys2Proof.Machine

theorem Pm.code_lt (x : Pm) : x.code < 4 := by cases x <;> decide
theorem Wid.code_lt (x : Wid) : x.code < 2 := by cases x <;> decide
theorem Fmt.code_lt (x : Fmt) : x.code < 8 := by cases x <;> decide
theorem RegFile.code_lt (x : RegFile) : x.code < 4 := by cases x <;> decide
theorem Dir.code_lt (x : Dir) : x.code < 4 := by cases x <;> decide

end Sys2Proof.Machine

namespace Sys2Proof.Laws.Fits

open Sys2Proof.Machine

/-- The word of the instruction lies within the bits of its row (R38, R39). -/
def Statement (i : Instr) : Prop := i.encode < 2 ^ i.nbits

theorem movh (pm : Pm) (t0 : BitVec 8) : Statement (.movh pm t0) := by
  have := Pm.code_lt pm
  have := t0.isLt
  show 0x400 + pm.code * 256 + t0.toNat < 65536
  omega

theorem noth (pm : Pm) (t0 : BitVec 8) : Statement (.noth pm t0) := by
  have := Pm.code_lt pm
  have := t0.isLt
  show 0x800 + pm.code * 256 + t0.toNat < 65536
  omega

theorem negh (pm : Pm) (t0 : BitVec 8) : Statement (.negh pm t0) := by
  have := Pm.code_lt pm
  have := t0.isLt
  show 0xc00 + pm.code * 256 + t0.toNat < 65536
  omega

theorem inch (pm : Pm) (t0 : BitVec 8) : Statement (.inch pm t0) := by
  have := Pm.code_lt pm
  have := t0.isLt
  show 0x1000 + pm.code * 256 + t0.toNat < 65536
  omega

theorem dech (pm : Pm) (t0 : BitVec 8) : Statement (.dech pm t0) := by
  have := Pm.code_lt pm
  have := t0.isLt
  show 0x1400 + pm.code * 256 + t0.toNat < 65536
  omega

theorem nullh (pm : Pm) (t0 : BitVec 8) : Statement (.nullh pm t0) := by
  have := Pm.code_lt pm
  have := t0.isLt
  show 0x1800 + pm.code * 256 + t0.toNat < 65536
  omega

theorem teqz (pm : Pm) (t0 : BitVec 8) : Statement (.teqz pm t0) := by
  have := Pm.code_lt pm
  have := t0.isLt
  show 0x1c00 + pm.code * 256 + t0.toNat < 65536
  omega

theorem tnez (pm : Pm) (t0 : BitVec 8) : Statement (.tnez pm t0) := by
  have := Pm.code_lt pm
  have := t0.isLt
  show 0x2000 + pm.code * 256 + t0.toNat < 65536
  omega

theorem tltz (pm : Pm) (t0 : BitVec 8) : Statement (.tltz pm t0) := by
  have := Pm.code_lt pm
  have := t0.isLt
  show 0x2400 + pm.code * 256 + t0.toNat < 65536
  omega

theorem tgez (pm : Pm) (t0 : BitVec 8) : Statement (.tgez pm t0) := by
  have := Pm.code_lt pm
  have := t0.isLt
  show 0x2800 + pm.code * 256 + t0.toNat < 65536
  omega

theorem sxb (pm : Pm) (t0 : BitVec 8) : Statement (.sxb pm t0) := by
  have := Pm.code_lt pm
  have := t0.isLt
  show 0x2c00 + pm.code * 256 + t0.toNat < 65536
  omega

theorem sxh (pm : Pm) (t0 : BitVec 8) : Statement (.sxh pm t0) := by
  have := Pm.code_lt pm
  have := t0.isLt
  show 0x3000 + pm.code * 256 + t0.toNat < 65536
  omega

theorem sxw (pm : Pm) (t0 : BitVec 8) : Statement (.sxw pm t0) := by
  have := Pm.code_lt pm
  have := t0.isLt
  show 0x3400 + pm.code * 256 + t0.toNat < 65536
  omega

theorem zxb (pm : Pm) (t0 : BitVec 8) : Statement (.zxb pm t0) := by
  have := Pm.code_lt pm
  have := t0.isLt
  show 0x3800 + pm.code * 256 + t0.toNat < 65536
  omega

theorem zxh (pm : Pm) (t0 : BitVec 8) : Statement (.zxh pm t0) := by
  have := Pm.code_lt pm
  have := t0.isLt
  show 0x3c00 + pm.code * 256 + t0.toNat < 65536
  omega

theorem zxw (pm : Pm) (t0 : BitVec 8) : Statement (.zxw pm t0) := by
  have := Pm.code_lt pm
  have := t0.isLt
  show 0x4000 + pm.code * 256 + t0.toNat < 65536
  omega

theorem hbtH (pm : Pm) : Statement (.hbtH pm) := by
  have := Pm.code_lt pm
  show 0x4400 + pm.code * 256 < 65536
  omega

theorem popn (pm : Pm) (t0 : BitVec 8) : Statement (.popn pm t0) := by
  have := Pm.code_lt pm
  have := t0.isLt
  show 0x4800 + pm.code * 256 + t0.toNat < 65536
  omega

theorem pope (pm : Pm) (t0 : BitVec 8) : Statement (.pope pm t0) := by
  have := Pm.code_lt pm
  have := t0.isLt
  show 0x4c00 + pm.code * 256 + t0.toNat < 65536
  omega

theorem pops (pm : Pm) (t0 : BitVec 8) : Statement (.pops pm t0) := by
  have := Pm.code_lt pm
  have := t0.isLt
  show 0x5000 + pm.code * 256 + t0.toNat < 65536
  omega

theorem popw (pm : Pm) (t0 : BitVec 8) : Statement (.popw pm t0) := by
  have := Pm.code_lt pm
  have := t0.isLt
  show 0x5400 + pm.code * 256 + t0.toNat < 65536
  omega

theorem reth (pm : Pm) : Statement (.reth pm) := by
  have := Pm.code_lt pm
  show 0x5800 + pm.code * 256 < 65536
  omega

theorem rd (cls : RegFile) (r : BitVec 6) (t1 : BitVec 8) (t0 : BitVec 8) : Statement (.rd cls r t1 t0) := by
  have := RegFile.code_lt cls
  have := r.isLt
  have := t1.isLt
  have := t0.isLt
  show 0x80000000 + cls.code * 4194304 + r.toNat * 65536 + t1.toNat * 256 + t0.toNat < 4294967296
  omega

theorem rdt (cls : RegFile) (r : BitVec 6) (t1 : BitVec 8) (t0 : BitVec 8) : Statement (.rdt cls r t1 t0) := by
  have := RegFile.code_lt cls
  have := r.isLt
  have := t1.isLt
  have := t0.isLt
  show 0x81000000 + cls.code * 4194304 + r.toNat * 65536 + t1.toNat * 256 + t0.toNat < 4294967296
  omega

theorem wr (cls : RegFile) (r : BitVec 6) : Statement (.wr cls r) := by
  have := RegFile.code_lt cls
  have := r.isLt
  show 0x82000000 + cls.code * 4194304 + r.toNat * 65536 < 4294967296
  omega

theorem movi (pm : Pm) (imm : BitVec 14) (t0 : BitVec 8) : Statement (.movi pm imm t0) := by
  have := Pm.code_lt pm
  have := imm.isLt
  have := t0.isLt
  show 0x83000000 + pm.code * 4194304 + imm.toNat * 256 + t0.toNat < 4294967296
  omega

theorem movhi (pm : Pm) (imm : BitVec 14) (t0 : BitVec 8) : Statement (.movhi pm imm t0) := by
  have := Pm.code_lt pm
  have := imm.isLt
  have := t0.isLt
  show 0x84000000 + pm.code * 4194304 + imm.toNat * 256 + t0.toNat < 4294967296
  omega

theorem br (pm : Pm) (off : BitVec 22) : Statement (.br pm off) := by
  have := Pm.code_lt pm
  have := off.isLt
  show 0x85000000 + pm.code * 4194304 + off.toNat < 4294967296
  omega

theorem bri (pm : Pm) : Statement (.bri pm) := by
  have := Pm.code_lt pm
  show 0x86000000 + pm.code * 4194304 < 4294967296
  omega

theorem call (pm : Pm) (off : BitVec 22) : Statement (.call pm off) := by
  have := Pm.code_lt pm
  have := off.isLt
  show 0x87000000 + pm.code * 4194304 + off.toNat < 4294967296
  omega

theorem calli (pm : Pm) : Statement (.calli pm) := by
  have := Pm.code_lt pm
  show 0x88000000 + pm.code * 4194304 < 4294967296
  omega

theorem ret (pm : Pm) : Statement (.ret pm) := by
  have := Pm.code_lt pm
  show 0x89000000 + pm.code * 4194304 < 4294967296
  omega

theorem null (pm : Pm) (n : Bool) (t1 : BitVec 8) (t0 : BitVec 8) : Statement (.null pm n t1 t0) := by
  have := Pm.code_lt pm
  have := n.toNat_lt
  have := t1.isLt
  have := t0.isLt
  show 0x8a000000 + pm.code * 4194304 + n.toNat * 65536 + t1.toNat * 256 + t0.toNat < 4294967296
  omega

theorem sel (t1 : BitVec 8) (t0 : BitVec 8) : Statement (.sel t1 t0) := by
  have := t1.isLt
  have := t0.isLt
  show 0x8bc00000 + t1.toNat * 256 + t0.toNat < 4294967296
  omega

theorem mov (pm : Pm) (t1 : BitVec 8) (t0 : BitVec 8) : Statement (.mov pm t1 t0) := by
  have := Pm.code_lt pm
  have := t1.isLt
  have := t0.isLt
  show 0x8c000000 + pm.code * 4194304 + t1.toNat * 256 + t0.toNat < 4294967296
  omega

theorem add (pm : Pm) (w : Wid) (t1 : BitVec 8) (t0 : BitVec 8) : Statement (.add pm w t1 t0) := by
  have := Pm.code_lt pm
  have := Wid.code_lt w
  have := t1.isLt
  have := t0.isLt
  show 0x90000000 + pm.code * 4194304 + w.code * 1048576 + t1.toNat * 256 + t0.toNat < 4294967296
  omega

theorem sub (pm : Pm) (w : Wid) (t1 : BitVec 8) (t0 : BitVec 8) : Statement (.sub pm w t1 t0) := by
  have := Pm.code_lt pm
  have := Wid.code_lt w
  have := t1.isLt
  have := t0.isLt
  show 0x90010000 + pm.code * 4194304 + w.code * 1048576 + t1.toNat * 256 + t0.toNat < 4294967296
  omega

theorem and (pm : Pm) (w : Wid) (t1 : BitVec 8) (t0 : BitVec 8) : Statement (.and pm w t1 t0) := by
  have := Pm.code_lt pm
  have := Wid.code_lt w
  have := t1.isLt
  have := t0.isLt
  show 0x90020000 + pm.code * 4194304 + w.code * 1048576 + t1.toNat * 256 + t0.toNat < 4294967296
  omega

theorem or (pm : Pm) (w : Wid) (t1 : BitVec 8) (t0 : BitVec 8) : Statement (.or pm w t1 t0) := by
  have := Pm.code_lt pm
  have := Wid.code_lt w
  have := t1.isLt
  have := t0.isLt
  show 0x90030000 + pm.code * 4194304 + w.code * 1048576 + t1.toNat * 256 + t0.toNat < 4294967296
  omega

theorem xor (pm : Pm) (w : Wid) (t1 : BitVec 8) (t0 : BitVec 8) : Statement (.xor pm w t1 t0) := by
  have := Pm.code_lt pm
  have := Wid.code_lt w
  have := t1.isLt
  have := t0.isLt
  show 0x90040000 + pm.code * 4194304 + w.code * 1048576 + t1.toNat * 256 + t0.toNat < 4294967296
  omega

theorem andn (pm : Pm) (w : Wid) (t1 : BitVec 8) (t0 : BitVec 8) : Statement (.andn pm w t1 t0) := by
  have := Pm.code_lt pm
  have := Wid.code_lt w
  have := t1.isLt
  have := t0.isLt
  show 0x90050000 + pm.code * 4194304 + w.code * 1048576 + t1.toNat * 256 + t0.toNat < 4294967296
  omega

theorem shl (pm : Pm) (w : Wid) (t1 : BitVec 8) (t0 : BitVec 8) : Statement (.shl pm w t1 t0) := by
  have := Pm.code_lt pm
  have := Wid.code_lt w
  have := t1.isLt
  have := t0.isLt
  show 0x90060000 + pm.code * 4194304 + w.code * 1048576 + t1.toNat * 256 + t0.toNat < 4294967296
  omega

theorem shr (pm : Pm) (w : Wid) (t1 : BitVec 8) (t0 : BitVec 8) : Statement (.shr pm w t1 t0) := by
  have := Pm.code_lt pm
  have := Wid.code_lt w
  have := t1.isLt
  have := t0.isLt
  show 0x90070000 + pm.code * 4194304 + w.code * 1048576 + t1.toNat * 256 + t0.toNat < 4294967296
  omega

theorem sra (pm : Pm) (w : Wid) (t1 : BitVec 8) (t0 : BitVec 8) : Statement (.sra pm w t1 t0) := by
  have := Pm.code_lt pm
  have := Wid.code_lt w
  have := t1.isLt
  have := t0.isLt
  show 0x90080000 + pm.code * 4194304 + w.code * 1048576 + t1.toNat * 256 + t0.toNat < 4294967296
  omega

theorem rot (pm : Pm) (w : Wid) (t1 : BitVec 8) (t0 : BitVec 8) : Statement (.rot pm w t1 t0) := by
  have := Pm.code_lt pm
  have := Wid.code_lt w
  have := t1.isLt
  have := t0.isLt
  show 0x90090000 + pm.code * 4194304 + w.code * 1048576 + t1.toNat * 256 + t0.toNat < 4294967296
  omega

theorem min (pm : Pm) (w : Wid) (t1 : BitVec 8) (t0 : BitVec 8) : Statement (.min pm w t1 t0) := by
  have := Pm.code_lt pm
  have := Wid.code_lt w
  have := t1.isLt
  have := t0.isLt
  show 0x900a0000 + pm.code * 4194304 + w.code * 1048576 + t1.toNat * 256 + t0.toNat < 4294967296
  omega

theorem max (pm : Pm) (w : Wid) (t1 : BitVec 8) (t0 : BitVec 8) : Statement (.max pm w t1 t0) := by
  have := Pm.code_lt pm
  have := Wid.code_lt w
  have := t1.isLt
  have := t0.isLt
  show 0x900b0000 + pm.code * 4194304 + w.code * 1048576 + t1.toNat * 256 + t0.toNat < 4294967296
  omega

theorem minu (pm : Pm) (w : Wid) (t1 : BitVec 8) (t0 : BitVec 8) : Statement (.minu pm w t1 t0) := by
  have := Pm.code_lt pm
  have := Wid.code_lt w
  have := t1.isLt
  have := t0.isLt
  show 0x900c0000 + pm.code * 4194304 + w.code * 1048576 + t1.toNat * 256 + t0.toNat < 4294967296
  omega

theorem maxu (pm : Pm) (w : Wid) (t1 : BitVec 8) (t0 : BitVec 8) : Statement (.maxu pm w t1 t0) := by
  have := Pm.code_lt pm
  have := Wid.code_lt w
  have := t1.isLt
  have := t0.isLt
  show 0x900d0000 + pm.code * 4194304 + w.code * 1048576 + t1.toNat * 256 + t0.toNat < 4294967296
  omega

theorem addi (pm : Pm) (imm : BitVec 14) (t0 : BitVec 8) : Statement (.addi pm imm t0) := by
  have := Pm.code_lt pm
  have := imm.isLt
  have := t0.isLt
  show 0x91000000 + pm.code * 4194304 + imm.toNat * 256 + t0.toNat < 4294967296
  omega

theorem andi (pm : Pm) (imm : BitVec 14) (t0 : BitVec 8) : Statement (.andi pm imm t0) := by
  have := Pm.code_lt pm
  have := imm.isLt
  have := t0.isLt
  show 0x92000000 + pm.code * 4194304 + imm.toNat * 256 + t0.toNat < 4294967296
  omega

theorem ori (pm : Pm) (imm : BitVec 14) (t0 : BitVec 8) : Statement (.ori pm imm t0) := by
  have := Pm.code_lt pm
  have := imm.isLt
  have := t0.isLt
  show 0x93000000 + pm.code * 4194304 + imm.toNat * 256 + t0.toNat < 4294967296
  omega

theorem xori (pm : Pm) (imm : BitVec 14) (t0 : BitVec 8) : Statement (.xori pm imm t0) := by
  have := Pm.code_lt pm
  have := imm.isLt
  have := t0.isLt
  show 0x94000000 + pm.code * 4194304 + imm.toNat * 256 + t0.toNat < 4294967296
  omega

theorem shli (pm : Pm) (imm : BitVec 14) (t0 : BitVec 8) : Statement (.shli pm imm t0) := by
  have := Pm.code_lt pm
  have := imm.isLt
  have := t0.isLt
  show 0x95000000 + pm.code * 4194304 + imm.toNat * 256 + t0.toNat < 4294967296
  omega

theorem shri (pm : Pm) (imm : BitVec 14) (t0 : BitVec 8) : Statement (.shri pm imm t0) := by
  have := Pm.code_lt pm
  have := imm.isLt
  have := t0.isLt
  show 0x96000000 + pm.code * 4194304 + imm.toNat * 256 + t0.toNat < 4294967296
  omega

theorem srai (pm : Pm) (imm : BitVec 14) (t0 : BitVec 8) : Statement (.srai pm imm t0) := by
  have := Pm.code_lt pm
  have := imm.isLt
  have := t0.isLt
  show 0x97000000 + pm.code * 4194304 + imm.toNat * 256 + t0.toNat < 4294967296
  omega

theorem mul (pm : Pm) (w : Wid) (t1 : BitVec 8) (t0 : BitVec 8) : Statement (.mul pm w t1 t0) := by
  have := Pm.code_lt pm
  have := Wid.code_lt w
  have := t1.isLt
  have := t0.isLt
  show 0x98000000 + pm.code * 4194304 + w.code * 1048576 + t1.toNat * 256 + t0.toNat < 4294967296
  omega

theorem mulh (pm : Pm) (w : Wid) (t1 : BitVec 8) (t0 : BitVec 8) : Statement (.mulh pm w t1 t0) := by
  have := Pm.code_lt pm
  have := Wid.code_lt w
  have := t1.isLt
  have := t0.isLt
  show 0x98010000 + pm.code * 4194304 + w.code * 1048576 + t1.toNat * 256 + t0.toNat < 4294967296
  omega

theorem mulhu (pm : Pm) (w : Wid) (t1 : BitVec 8) (t0 : BitVec 8) : Statement (.mulhu pm w t1 t0) := by
  have := Pm.code_lt pm
  have := Wid.code_lt w
  have := t1.isLt
  have := t0.isLt
  show 0x98020000 + pm.code * 4194304 + w.code * 1048576 + t1.toNat * 256 + t0.toNat < 4294967296
  omega

theorem div (pm : Pm) (w : Wid) (t1 : BitVec 8) (t0 : BitVec 8) : Statement (.div pm w t1 t0) := by
  have := Pm.code_lt pm
  have := Wid.code_lt w
  have := t1.isLt
  have := t0.isLt
  show 0x98030000 + pm.code * 4194304 + w.code * 1048576 + t1.toNat * 256 + t0.toNat < 4294967296
  omega

theorem divu (pm : Pm) (w : Wid) (t1 : BitVec 8) (t0 : BitVec 8) : Statement (.divu pm w t1 t0) := by
  have := Pm.code_lt pm
  have := Wid.code_lt w
  have := t1.isLt
  have := t0.isLt
  show 0x98040000 + pm.code * 4194304 + w.code * 1048576 + t1.toNat * 256 + t0.toNat < 4294967296
  omega

theorem rem (pm : Pm) (w : Wid) (t1 : BitVec 8) (t0 : BitVec 8) : Statement (.rem pm w t1 t0) := by
  have := Pm.code_lt pm
  have := Wid.code_lt w
  have := t1.isLt
  have := t0.isLt
  show 0x98050000 + pm.code * 4194304 + w.code * 1048576 + t1.toNat * 256 + t0.toNat < 4294967296
  omega

theorem remu (pm : Pm) (w : Wid) (t1 : BitVec 8) (t0 : BitVec 8) : Statement (.remu pm w t1 t0) := by
  have := Pm.code_lt pm
  have := Wid.code_lt w
  have := t1.isLt
  have := t0.isLt
  show 0x98060000 + pm.code * 4194304 + w.code * 1048576 + t1.toNat * 256 + t0.toNat < 4294967296
  omega

theorem clz (pm : Pm) (w : Wid) (t1 : BitVec 8) (t0 : BitVec 8) : Statement (.clz pm w t1 t0) := by
  have := Pm.code_lt pm
  have := Wid.code_lt w
  have := t1.isLt
  have := t0.isLt
  show 0x99000000 + pm.code * 4194304 + w.code * 1048576 + t1.toNat * 256 + t0.toNat < 4294967296
  omega

theorem ctz (pm : Pm) (w : Wid) (t1 : BitVec 8) (t0 : BitVec 8) : Statement (.ctz pm w t1 t0) := by
  have := Pm.code_lt pm
  have := Wid.code_lt w
  have := t1.isLt
  have := t0.isLt
  show 0x99010000 + pm.code * 4194304 + w.code * 1048576 + t1.toNat * 256 + t0.toNat < 4294967296
  omega

theorem popc (pm : Pm) (w : Wid) (t1 : BitVec 8) (t0 : BitVec 8) : Statement (.popc pm w t1 t0) := by
  have := Pm.code_lt pm
  have := Wid.code_lt w
  have := t1.isLt
  have := t0.isLt
  show 0x99020000 + pm.code * 4194304 + w.code * 1048576 + t1.toNat * 256 + t0.toNat < 4294967296
  omega

theorem sextB (pm : Pm) (t1 : BitVec 8) (t0 : BitVec 8) : Statement (.sextB pm t1 t0) := by
  have := Pm.code_lt pm
  have := t1.isLt
  have := t0.isLt
  show 0x99130000 + pm.code * 4194304 + t1.toNat * 256 + t0.toNat < 4294967296
  omega

theorem sextH (pm : Pm) (t1 : BitVec 8) (t0 : BitVec 8) : Statement (.sextH pm t1 t0) := by
  have := Pm.code_lt pm
  have := t1.isLt
  have := t0.isLt
  show 0x99140000 + pm.code * 4194304 + t1.toNat * 256 + t0.toNat < 4294967296
  omega

theorem sextW (pm : Pm) (t1 : BitVec 8) (t0 : BitVec 8) : Statement (.sextW pm t1 t0) := by
  have := Pm.code_lt pm
  have := t1.isLt
  have := t0.isLt
  show 0x99150000 + pm.code * 4194304 + t1.toNat * 256 + t0.toNat < 4294967296
  omega

theorem zextB (pm : Pm) (t1 : BitVec 8) (t0 : BitVec 8) : Statement (.zextB pm t1 t0) := by
  have := Pm.code_lt pm
  have := t1.isLt
  have := t0.isLt
  show 0x99160000 + pm.code * 4194304 + t1.toNat * 256 + t0.toNat < 4294967296
  omega

theorem zextH (pm : Pm) (t1 : BitVec 8) (t0 : BitVec 8) : Statement (.zextH pm t1 t0) := by
  have := Pm.code_lt pm
  have := t1.isLt
  have := t0.isLt
  show 0x99170000 + pm.code * 4194304 + t1.toNat * 256 + t0.toNat < 4294967296
  omega

theorem zextW (pm : Pm) (t1 : BitVec 8) (t0 : BitVec 8) : Statement (.zextW pm t1 t0) := by
  have := Pm.code_lt pm
  have := t1.isLt
  have := t0.isLt
  show 0x99180000 + pm.code * 4194304 + t1.toNat * 256 + t0.toNat < 4294967296
  omega

theorem bswap (pm : Pm) (w : Wid) (t1 : BitVec 8) (t0 : BitVec 8) : Statement (.bswap pm w t1 t0) := by
  have := Pm.code_lt pm
  have := Wid.code_lt w
  have := t1.isLt
  have := t0.isLt
  show 0x99090000 + pm.code * 4194304 + w.code * 1048576 + t1.toNat * 256 + t0.toNat < 4294967296
  omega

theorem not (pm : Pm) (w : Wid) (t1 : BitVec 8) (t0 : BitVec 8) : Statement (.not pm w t1 t0) := by
  have := Pm.code_lt pm
  have := Wid.code_lt w
  have := t1.isLt
  have := t0.isLt
  show 0x990a0000 + pm.code * 4194304 + w.code * 1048576 + t1.toNat * 256 + t0.toNat < 4294967296
  omega

theorem neg (pm : Pm) (w : Wid) (t1 : BitVec 8) (t0 : BitVec 8) : Statement (.neg pm w t1 t0) := by
  have := Pm.code_lt pm
  have := Wid.code_lt w
  have := t1.isLt
  have := t0.isLt
  show 0x990b0000 + pm.code * 4194304 + w.code * 1048576 + t1.toNat * 256 + t0.toNat < 4294967296
  omega

theorem teq (pm : Pm) (w : Wid) (t1 : BitVec 8) (t0 : BitVec 8) : Statement (.teq pm w t1 t0) := by
  have := Pm.code_lt pm
  have := Wid.code_lt w
  have := t1.isLt
  have := t0.isLt
  show 0x9a000000 + pm.code * 4194304 + w.code * 1048576 + t1.toNat * 256 + t0.toNat < 4294967296
  omega

theorem tne (pm : Pm) (w : Wid) (t1 : BitVec 8) (t0 : BitVec 8) : Statement (.tne pm w t1 t0) := by
  have := Pm.code_lt pm
  have := Wid.code_lt w
  have := t1.isLt
  have := t0.isLt
  show 0x9a010000 + pm.code * 4194304 + w.code * 1048576 + t1.toNat * 256 + t0.toNat < 4294967296
  omega

theorem tlt (pm : Pm) (w : Wid) (t1 : BitVec 8) (t0 : BitVec 8) : Statement (.tlt pm w t1 t0) := by
  have := Pm.code_lt pm
  have := Wid.code_lt w
  have := t1.isLt
  have := t0.isLt
  show 0x9a020000 + pm.code * 4194304 + w.code * 1048576 + t1.toNat * 256 + t0.toNat < 4294967296
  omega

theorem tltu (pm : Pm) (w : Wid) (t1 : BitVec 8) (t0 : BitVec 8) : Statement (.tltu pm w t1 t0) := by
  have := Pm.code_lt pm
  have := Wid.code_lt w
  have := t1.isLt
  have := t0.isLt
  show 0x9a030000 + pm.code * 4194304 + w.code * 1048576 + t1.toNat * 256 + t0.toNat < 4294967296
  omega

theorem tle (pm : Pm) (w : Wid) (t1 : BitVec 8) (t0 : BitVec 8) : Statement (.tle pm w t1 t0) := by
  have := Pm.code_lt pm
  have := Wid.code_lt w
  have := t1.isLt
  have := t0.isLt
  show 0x9a040000 + pm.code * 4194304 + w.code * 1048576 + t1.toNat * 256 + t0.toNat < 4294967296
  omega

theorem tleu (pm : Pm) (w : Wid) (t1 : BitVec 8) (t0 : BitVec 8) : Statement (.tleu pm w t1 t0) := by
  have := Pm.code_lt pm
  have := Wid.code_lt w
  have := t1.isLt
  have := t0.isLt
  show 0x9a050000 + pm.code * 4194304 + w.code * 1048576 + t1.toNat * 256 + t0.toNat < 4294967296
  omega

theorem tlti (pm : Pm) (imm : BitVec 14) (t0 : BitVec 8) : Statement (.tlti pm imm t0) := by
  have := Pm.code_lt pm
  have := imm.isLt
  have := t0.isLt
  show 0x9b000000 + pm.code * 4194304 + imm.toNat * 256 + t0.toNat < 4294967296
  omega

theorem teqi (pm : Pm) (imm : BitVec 14) (t0 : BitVec 8) : Statement (.teqi pm imm t0) := by
  have := Pm.code_lt pm
  have := imm.isLt
  have := t0.isLt
  show 0x9c000000 + pm.code * 4194304 + imm.toNat * 256 + t0.toNat < 4294967296
  omega

theorem lea (pm : Pm) (h : BitVec 2) (t1 : BitVec 8) (t0 : BitVec 8) : Statement (.lea pm h t1 t0) := by
  have := Pm.code_lt pm
  have := h.isLt
  have := t1.isLt
  have := t0.isLt
  show 0x9d000000 + pm.code * 4194304 + h.toNat * 65536 + t1.toNat * 256 + t0.toNat < 4294967296
  omega

theorem mix (pm : Pm) (t1 : BitVec 8) (t0 : BitVec 8) : Statement (.mix pm t1 t0) := by
  have := Pm.code_lt pm
  have := t1.isLt
  have := t0.isLt
  show 0x9e000000 + pm.code * 4194304 + t1.toNat * 256 + t0.toNat < 4294967296
  omega

theorem vadd (pm : Pm) (f : Fmt) (t1 : BitVec 8) (t0 : BitVec 8) : Statement (.vadd pm f t1 t0) := by
  have := Pm.code_lt pm
  have := Fmt.code_lt f
  have := t1.isLt
  have := t0.isLt
  show 0xb0000000 + pm.code * 4194304 + f.code * 65536 + t1.toNat * 256 + t0.toNat < 4294967296
  omega

theorem vsub (pm : Pm) (f : Fmt) (t1 : BitVec 8) (t0 : BitVec 8) : Statement (.vsub pm f t1 t0) := by
  have := Pm.code_lt pm
  have := Fmt.code_lt f
  have := t1.isLt
  have := t0.isLt
  show 0xb1000000 + pm.code * 4194304 + f.code * 65536 + t1.toNat * 256 + t0.toNat < 4294967296
  omega

theorem vmul (pm : Pm) (f : Fmt) (t1 : BitVec 8) (t0 : BitVec 8) : Statement (.vmul pm f t1 t0) := by
  have := Pm.code_lt pm
  have := Fmt.code_lt f
  have := t1.isLt
  have := t0.isLt
  show 0xb2000000 + pm.code * 4194304 + f.code * 65536 + t1.toNat * 256 + t0.toNat < 4294967296
  omega

theorem vfma (f : Fmt) (t1 : BitVec 8) (t0 : BitVec 8) : Statement (.vfma f t1 t0) := by
  have := Fmt.code_lt f
  have := t1.isLt
  have := t0.isLt
  show 0xb3c00000 + f.code * 65536 + t1.toNat * 256 + t0.toNat < 4294967296
  omega

theorem vfnma (f : Fmt) (t1 : BitVec 8) (t0 : BitVec 8) : Statement (.vfnma f t1 t0) := by
  have := Fmt.code_lt f
  have := t1.isLt
  have := t0.isLt
  show 0xb4c00000 + f.code * 65536 + t1.toNat * 256 + t0.toNat < 4294967296
  omega

theorem vmin (pm : Pm) (f : Fmt) (t1 : BitVec 8) (t0 : BitVec 8) : Statement (.vmin pm f t1 t0) := by
  have := Pm.code_lt pm
  have := Fmt.code_lt f
  have := t1.isLt
  have := t0.isLt
  show 0xb5000000 + pm.code * 4194304 + f.code * 65536 + t1.toNat * 256 + t0.toNat < 4294967296
  omega

theorem vmax (pm : Pm) (f : Fmt) (t1 : BitVec 8) (t0 : BitVec 8) : Statement (.vmax pm f t1 t0) := by
  have := Pm.code_lt pm
  have := Fmt.code_lt f
  have := t1.isLt
  have := t0.isLt
  show 0xb6000000 + pm.code * 4194304 + f.code * 65536 + t1.toNat * 256 + t0.toNat < 4294967296
  omega

theorem vabs (pm : Pm) (f : Fmt) (t1 : BitVec 8) (t0 : BitVec 8) : Statement (.vabs pm f t1 t0) := by
  have := Pm.code_lt pm
  have := Fmt.code_lt f
  have := t1.isLt
  have := t0.isLt
  show 0xb7000000 + pm.code * 4194304 + f.code * 65536 + t1.toNat * 256 + t0.toNat < 4294967296
  omega

theorem vneg (pm : Pm) (f : Fmt) (t1 : BitVec 8) (t0 : BitVec 8) : Statement (.vneg pm f t1 t0) := by
  have := Pm.code_lt pm
  have := Fmt.code_lt f
  have := t1.isLt
  have := t0.isLt
  show 0xb8000000 + pm.code * 4194304 + f.code * 65536 + t1.toNat * 256 + t0.toNat < 4294967296
  omega

theorem vdiv (pm : Pm) (f : Fmt) (t1 : BitVec 8) (t0 : BitVec 8) : Statement (.vdiv pm f t1 t0) := by
  have := Pm.code_lt pm
  have := Fmt.code_lt f
  have := t1.isLt
  have := t0.isLt
  show 0xb9000000 + pm.code * 4194304 + f.code * 65536 + t1.toNat * 256 + t0.toNat < 4294967296
  omega

theorem vsqrt (pm : Pm) (f : Fmt) (t1 : BitVec 8) (t0 : BitVec 8) : Statement (.vsqrt pm f t1 t0) := by
  have := Pm.code_lt pm
  have := Fmt.code_lt f
  have := t1.isLt
  have := t0.isLt
  show 0xba000000 + pm.code * 4194304 + f.code * 65536 + t1.toNat * 256 + t0.toNat < 4294967296
  omega

theorem vrcp (pm : Pm) (f : Fmt) (t1 : BitVec 8) (t0 : BitVec 8) : Statement (.vrcp pm f t1 t0) := by
  have := Pm.code_lt pm
  have := Fmt.code_lt f
  have := t1.isLt
  have := t0.isLt
  show 0xbb000000 + pm.code * 4194304 + f.code * 65536 + t1.toNat * 256 + t0.toNat < 4294967296
  omega

theorem vrsq (pm : Pm) (f : Fmt) (t1 : BitVec 8) (t0 : BitVec 8) : Statement (.vrsq pm f t1 t0) := by
  have := Pm.code_lt pm
  have := Fmt.code_lt f
  have := t1.isLt
  have := t0.isLt
  show 0xbc000000 + pm.code * 4194304 + f.code * 65536 + t1.toNat * 256 + t0.toNat < 4294967296
  omega

theorem vexp2 (pm : Pm) (f : Fmt) (t1 : BitVec 8) (t0 : BitVec 8) : Statement (.vexp2 pm f t1 t0) := by
  have := Pm.code_lt pm
  have := Fmt.code_lt f
  have := t1.isLt
  have := t0.isLt
  show 0xbd000000 + pm.code * 4194304 + f.code * 65536 + t1.toNat * 256 + t0.toNat < 4294967296
  omega

theorem vlog2 (pm : Pm) (f : Fmt) (t1 : BitVec 8) (t0 : BitVec 8) : Statement (.vlog2 pm f t1 t0) := by
  have := Pm.code_lt pm
  have := Fmt.code_lt f
  have := t1.isLt
  have := t0.isLt
  show 0xbe000000 + pm.code * 4194304 + f.code * 65536 + t1.toNat * 256 + t0.toNat < 4294967296
  omega

theorem vcmp (pm : Pm) (c : BitVec 3) (f : Fmt) (t1 : BitVec 8) (t0 : BitVec 8) : Statement (.vcmp pm c f t1 t0) := by
  have := Pm.code_lt pm
  have := c.isLt
  have := Fmt.code_lt f
  have := t1.isLt
  have := t0.isLt
  show 0xbf000000 + pm.code * 4194304 + c.toNat * 524288 + f.code * 65536 + t1.toNat * 256 + t0.toNat < 4294967296
  omega

theorem vand (pm : Pm) (t1 : BitVec 8) (t0 : BitVec 8) : Statement (.vand pm t1 t0) := by
  have := Pm.code_lt pm
  have := t1.isLt
  have := t0.isLt
  show 0xc0000000 + pm.code * 4194304 + t1.toNat * 256 + t0.toNat < 4294967296
  omega

theorem vor (pm : Pm) (t1 : BitVec 8) (t0 : BitVec 8) : Statement (.vor pm t1 t0) := by
  have := Pm.code_lt pm
  have := t1.isLt
  have := t0.isLt
  show 0xc0080000 + pm.code * 4194304 + t1.toNat * 256 + t0.toNat < 4294967296
  omega

theorem vxor (pm : Pm) (t1 : BitVec 8) (t0 : BitVec 8) : Statement (.vxor pm t1 t0) := by
  have := Pm.code_lt pm
  have := t1.isLt
  have := t0.isLt
  show 0xc0100000 + pm.code * 4194304 + t1.toNat * 256 + t0.toNat < 4294967296
  omega

theorem vandn (pm : Pm) (t1 : BitVec 8) (t0 : BitVec 8) : Statement (.vandn pm t1 t0) := by
  have := Pm.code_lt pm
  have := t1.isLt
  have := t0.isLt
  show 0xc0180000 + pm.code * 4194304 + t1.toNat * 256 + t0.toNat < 4294967296
  omega

theorem vshl (pm : Pm) (f : Fmt) (t1 : BitVec 8) (t0 : BitVec 8) : Statement (.vshl pm f t1 t0) := by
  have := Pm.code_lt pm
  have := Fmt.code_lt f
  have := t1.isLt
  have := t0.isLt
  show 0xc1000000 + pm.code * 4194304 + f.code * 65536 + t1.toNat * 256 + t0.toNat < 4294967296
  omega

theorem vshr (pm : Pm) (f : Fmt) (t1 : BitVec 8) (t0 : BitVec 8) : Statement (.vshr pm f t1 t0) := by
  have := Pm.code_lt pm
  have := Fmt.code_lt f
  have := t1.isLt
  have := t0.isLt
  show 0xc1080000 + pm.code * 4194304 + f.code * 65536 + t1.toNat * 256 + t0.toNat < 4294967296
  omega

theorem vsra (pm : Pm) (f : Fmt) (t1 : BitVec 8) (t0 : BitVec 8) : Statement (.vsra pm f t1 t0) := by
  have := Pm.code_lt pm
  have := Fmt.code_lt f
  have := t1.isLt
  have := t0.isLt
  show 0xc1100000 + pm.code * 4194304 + f.code * 65536 + t1.toNat * 256 + t0.toNat < 4294967296
  omega

theorem vrng (pm : Pm) (t1 : BitVec 8) (t0 : BitVec 8) : Statement (.vrng pm t1 t0) := by
  have := Pm.code_lt pm
  have := t1.isLt
  have := t0.isLt
  show 0xc2000000 + pm.code * 4194304 + t1.toNat * 256 + t0.toNat < 4294967296
  omega

theorem vdot4 (k : BitVec 2) (t1 : BitVec 8) (t0 : BitVec 8) : Statement (.vdot4 k t1 t0) := by
  have := k.isLt
  have := t1.isLt
  have := t0.isLt
  show 0xc3c00000 + k.toNat * 65536 + t1.toNat * 256 + t0.toNat < 4294967296
  omega

theorem vsel (t1 : BitVec 8) (t0 : BitVec 8) : Statement (.vsel t1 t0) := by
  have := t1.isLt
  have := t0.isLt
  show 0xc4c00000 + t1.toNat * 256 + t0.toNat < 4294967296
  omega

theorem vbcast (pm : Pm) (f : Fmt) (t1 : BitVec 8) (t0 : BitVec 8) : Statement (.vbcast pm f t1 t0) := by
  have := Pm.code_lt pm
  have := Fmt.code_lt f
  have := t1.isLt
  have := t0.isLt
  show 0xc5000000 + pm.code * 4194304 + f.code * 65536 + t1.toNat * 256 + t0.toNat < 4294967296
  omega

theorem vextr (pm : Pm) (f : Fmt) (t1 : BitVec 8) (t0 : BitVec 8) : Statement (.vextr pm f t1 t0) := by
  have := Pm.code_lt pm
  have := Fmt.code_lt f
  have := t1.isLt
  have := t0.isLt
  show 0xc6000000 + pm.code * 4194304 + f.code * 65536 + t1.toNat * 256 + t0.toNat < 4294967296
  omega

theorem vins (f : Fmt) (t1 : BitVec 8) (t0 : BitVec 8) : Statement (.vins f t1 t0) := by
  have := Fmt.code_lt f
  have := t1.isLt
  have := t0.isLt
  show 0xc7c00000 + f.code * 65536 + t1.toNat * 256 + t0.toNat < 4294967296
  omega

theorem vperm (pm : Pm) (t1 : BitVec 8) (t0 : BitVec 8) : Statement (.vperm pm t1 t0) := by
  have := Pm.code_lt pm
  have := t1.isLt
  have := t0.isLt
  show 0xc8000000 + pm.code * 4194304 + t1.toNat * 256 + t0.toNat < 4294967296
  omega

theorem vslide (pm : Pm) (z : Bool) (d : Bool) (t1 : BitVec 8) (t0 : BitVec 8) : Statement (.vslide pm z d t1 t0) := by
  have := Pm.code_lt pm
  have := z.toNat_lt
  have := d.toNat_lt
  have := t1.isLt
  have := t0.isLt
  show 0xc9000000 + pm.code * 4194304 + z.toNat * 131072 + d.toNat * 65536 + t1.toNat * 256 + t0.toNat < 4294967296
  omega

theorem vred (pm : Pm) (o : BitVec 3) (f : Fmt) (t1 : BitVec 8) (t0 : BitVec 8) : Statement (.vred pm o f t1 t0) := by
  have := Pm.code_lt pm
  have := o.isLt
  have := Fmt.code_lt f
  have := t1.isLt
  have := t0.isLt
  show 0xca000000 + pm.code * 4194304 + o.toNat * 524288 + f.code * 65536 + t1.toNat * 256 + t0.toNat < 4294967296
  omega

theorem vcvt (pm : Pm) (fd : Fmt) (fs : Fmt) (t1 : BitVec 8) (t0 : BitVec 8) : Statement (.vcvt pm fd fs t1 t0) := by
  have := Pm.code_lt pm
  have := Fmt.code_lt fd
  have := Fmt.code_lt fs
  have := t1.isLt
  have := t0.isLt
  show 0xcb000000 + pm.code * 4194304 + fd.code * 524288 + fs.code * 65536 + t1.toNat * 256 + t0.toNat < 4294967296
  omega

theorem vqshr (t1 : BitVec 8) (t0 : BitVec 8) : Statement (.vqshr t1 t0) := by
  have := t1.isLt
  have := t0.isLt
  show 0xccc60000 + t1.toNat * 256 + t0.toNat < 4294967296
  omega

theorem vfkey (pm : Pm) (n : Bool) (t1 : BitVec 8) (t0 : BitVec 8) : Statement (.vfkey pm n t1 t0) := by
  have := Pm.code_lt pm
  have := n.toNat_lt
  have := t1.isLt
  have := t0.isLt
  show 0xcd000000 + pm.code * 4194304 + n.toNat * 65536 + t1.toNat * 256 + t0.toNat < 4294967296
  omega

theorem qbfx (pm : Pm) (x : Bool) (t1 : BitVec 8) (t0 : BitVec 8) : Statement (.qbfx pm x t1 t0) := by
  have := Pm.code_lt pm
  have := x.toNat_lt
  have := t1.isLt
  have := t0.isLt
  show 0xce030000 + pm.code * 4194304 + x.toNat * 262144 + t1.toNat * 256 + t0.toNat < 4294967296
  omega

theorem dqbfx (pm : Pm) (x : Bool) (t1 : BitVec 8) (t0 : BitVec 8) : Statement (.dqbfx pm x t1 t0) := by
  have := Pm.code_lt pm
  have := x.toNat_lt
  have := t1.isLt
  have := t0.isLt
  show 0xcf030000 + pm.code * 4194304 + x.toNat * 262144 + t1.toNat * 256 + t0.toNat < 4294967296
  omega

theorem tld (pm : Pm) (td : BitVec 4) : Statement (.tld pm td) := by
  have := Pm.code_lt pm
  have := td.isLt
  show 0xd0000000 + pm.code * 4194304 + td.toNat * 262144 < 4294967296
  omega

theorem tst (pm : Pm) (ta : BitVec 4) : Statement (.tst pm ta) := by
  have := Pm.code_lt pm
  have := ta.isLt
  show 0xd1000000 + pm.code * 4194304 + ta.toNat * 16384 < 4294967296
  omega

theorem tzero (pm : Pm) (td : BitVec 4) : Statement (.tzero pm td) := by
  have := Pm.code_lt pm
  have := td.isLt
  show 0xd2000000 + pm.code * 4194304 + td.toNat * 262144 < 4294967296
  omega

theorem tmma (pm : Pm) (td : BitVec 4) (ta : BitVec 4) (tb : BitVec 4) (acc : BitVec 2) : Statement (.tmma pm td ta tb acc) := by
  have := Pm.code_lt pm
  have := td.isLt
  have := ta.isLt
  have := tb.isLt
  have := acc.isLt
  show 0xd3000000 + pm.code * 4194304 + td.toNat * 262144 + ta.toNat * 16384 + tb.toNat * 1024 + acc.toNat * 256 < 4294967296
  omega

theorem tmmas (pm : Pm) (td : BitVec 4) (ta : BitVec 4) (tb : BitVec 4) (acc : BitVec 2) : Statement (.tmmas pm td ta tb acc) := by
  have := Pm.code_lt pm
  have := td.isLt
  have := ta.isLt
  have := tb.isLt
  have := acc.isLt
  show 0xd4000000 + pm.code * 4194304 + td.toNat * 262144 + ta.toNat * 16384 + tb.toNat * 1024 + acc.toNat * 256 < 4294967296
  omega

theorem tmmac (pm : Pm) (td : BitVec 4) (ta : BitVec 4) (tb : BitVec 4) (acc : BitVec 2) : Statement (.tmmac pm td ta tb acc) := by
  have := Pm.code_lt pm
  have := td.isLt
  have := ta.isLt
  have := tb.isLt
  have := acc.isLt
  show 0xd5000000 + pm.code * 4194304 + td.toNat * 262144 + ta.toNat * 16384 + tb.toNat * 1024 + acc.toNat * 256 < 4294967296
  omega

theorem tckv (pm : Pm) (ta : BitVec 4) (g : BitVec 6) : Statement (.tckv pm ta g) := by
  have := Pm.code_lt pm
  have := ta.isLt
  have := g.isLt
  show 0xd6000000 + pm.code * 4194304 + ta.toNat * 16384 + g.toNat < 4294967296
  omega

theorem tadd (pm : Pm) (td : BitVec 4) (ta : BitVec 4) (tb : BitVec 4) : Statement (.tadd pm td ta tb) := by
  have := Pm.code_lt pm
  have := td.isLt
  have := ta.isLt
  have := tb.isLt
  show 0xd7000000 + pm.code * 4194304 + td.toNat * 262144 + ta.toNat * 16384 + tb.toNat * 1024 < 4294967296
  omega

theorem tcvt (pm : Pm) (td : BitVec 4) (ta : BitVec 4) : Statement (.tcvt pm td ta) := by
  have := Pm.code_lt pm
  have := td.isLt
  have := ta.isLt
  show 0xd8000000 + pm.code * 4194304 + td.toNat * 262144 + ta.toNat * 16384 < 4294967296
  omega

theorem ttrn (pm : Pm) (td : BitVec 4) (ta : BitVec 4) : Statement (.ttrn pm td ta) := by
  have := Pm.code_lt pm
  have := td.isLt
  have := ta.isLt
  show 0xd9000000 + pm.code * 4194304 + td.toNat * 262144 + ta.toNat * 16384 < 4294967296
  omega

theorem trow (pm : Pm) (ta : BitVec 4) (v : BitVec 4) : Statement (.trow pm ta v) := by
  have := Pm.code_lt pm
  have := ta.isLt
  have := v.isLt
  show 0xda000000 + pm.code * 4194304 + ta.toNat * 16384 + v.toNat < 4294967296
  omega

theorem tins (pm : Pm) (td : BitVec 4) : Statement (.tins pm td) := by
  have := Pm.code_lt pm
  have := td.isLt
  show 0xdb000000 + pm.code * 4194304 + td.toNat * 262144 < 4294967296
  omega

theorem ld (pm : Pm) (lsid : BitVec 5) (size : BitVec 2) (flag : Bool) (imm : BitVec 6) (t0 : BitVec 8) : Statement (.ld pm lsid size flag imm t0) := by
  have := Pm.code_lt pm
  have := lsid.isLt
  have := size.isLt
  have := flag.toNat_lt
  have := imm.isLt
  have := t0.isLt
  show 0xdc000000 + pm.code * 4194304 + lsid.toNat * 131072 + size.toNat * 32768 + flag.toNat * 16384 + imm.toNat * 256 + t0.toNat < 4294967296
  omega

theorem ldw (pm : Pm) (lsid : BitVec 5) (size : BitVec 2) (flag : Bool) (imm : BitVec 6) (t0 : BitVec 8) : Statement (.ldw pm lsid size flag imm t0) := by
  have := Pm.code_lt pm
  have := lsid.isLt
  have := size.isLt
  have := flag.toNat_lt
  have := imm.isLt
  have := t0.isLt
  show 0xdd000000 + pm.code * 4194304 + lsid.toNat * 131072 + size.toNat * 32768 + flag.toNat * 16384 + imm.toNat * 256 + t0.toNat < 4294967296
  omega

theorem st (pm : Pm) (lsid : BitVec 5) (size : BitVec 2) (flag : Bool) (imm : BitVec 6) : Statement (.st pm lsid size flag imm) := by
  have := Pm.code_lt pm
  have := lsid.isLt
  have := size.isLt
  have := flag.toNat_lt
  have := imm.isLt
  show 0xde000000 + pm.code * 4194304 + lsid.toNat * 131072 + size.toNat * 32768 + flag.toNat * 16384 + imm.toNat * 256 < 4294967296
  omega

theorem vld (pm : Pm) (lsid : BitVec 5) (size : BitVec 2) (flag : Bool) (imm : BitVec 6) (t0 : BitVec 8) : Statement (.vld pm lsid size flag imm t0) := by
  have := Pm.code_lt pm
  have := lsid.isLt
  have := size.isLt
  have := flag.toNat_lt
  have := imm.isLt
  have := t0.isLt
  show 0xdf000000 + pm.code * 4194304 + lsid.toNat * 131072 + size.toNat * 32768 + flag.toNat * 16384 + imm.toNat * 256 + t0.toNat < 4294967296
  omega

theorem vst (pm : Pm) (lsid : BitVec 5) (size : BitVec 2) (flag : Bool) (imm : BitVec 6) : Statement (.vst pm lsid size flag imm) := by
  have := Pm.code_lt pm
  have := lsid.isLt
  have := size.isLt
  have := flag.toNat_lt
  have := imm.isLt
  show 0xe0000000 + pm.code * 4194304 + lsid.toNat * 131072 + size.toNat * 32768 + flag.toNat * 16384 + imm.toNat * 256 < 4294967296
  omega

theorem join (pm : Pm) (lsid : BitVec 5) (size : BitVec 2) (flag : Bool) (imm : BitVec 6) : Statement (.join pm lsid size flag imm) := by
  have := Pm.code_lt pm
  have := lsid.isLt
  have := size.isLt
  have := flag.toNat_lt
  have := imm.isLt
  show 0xe4000000 + pm.code * 4194304 + lsid.toNat * 131072 + size.toNat * 32768 + flag.toNat * 16384 + imm.toNat * 256 < 4294967296
  omega

theorem vjoin (pm : Pm) (lsid : BitVec 5) (size : BitVec 2) (flag : Bool) (imm : BitVec 6) : Statement (.vjoin pm lsid size flag imm) := by
  have := Pm.code_lt pm
  have := lsid.isLt
  have := size.isLt
  have := flag.toNat_lt
  have := imm.isLt
  show 0xe5000000 + pm.code * 4194304 + lsid.toNat * 131072 + size.toNat * 32768 + flag.toNat * 16384 + imm.toNat * 256 < 4294967296
  omega

theorem waitt (pm : Pm) (g : BitVec 6) (c : BitVec 8) : Statement (.waitt pm g c) := by
  have := Pm.code_lt pm
  have := g.isLt
  have := c.isLt
  show 0xe6000000 + pm.code * 4194304 + g.toNat * 65536 + c.toNat * 256 < 4294967296
  omega

theorem xld (pm : Pm) (lsid : BitVec 5) (size : BitVec 2) (imm : BitVec 6) (t0 : BitVec 8) : Statement (.xld pm lsid size imm t0) := by
  have := Pm.code_lt pm
  have := lsid.isLt
  have := size.isLt
  have := imm.isLt
  have := t0.isLt
  show 0xe7000000 + pm.code * 4194304 + lsid.toNat * 131072 + size.toNat * 32768 + imm.toNat * 256 + t0.toNat < 4294967296
  omega

theorem vxld (pm : Pm) (lsid : BitVec 5) (size : BitVec 2) (imm : BitVec 6) (t0 : BitVec 8) : Statement (.vxld pm lsid size imm t0) := by
  have := Pm.code_lt pm
  have := lsid.isLt
  have := size.isLt
  have := imm.isLt
  have := t0.isLt
  show 0xe8000000 + pm.code * 4194304 + lsid.toNat * 131072 + size.toNat * 32768 + imm.toNat * 256 + t0.toNat < 4294967296
  omega

theorem freeze (pm : Pm) : Statement (.freeze pm) := by
  have := Pm.code_lt pm
  show 0xe9000000 + pm.code * 4194304 < 4294967296
  omega

theorem frzq (pm : Pm) : Statement (.frzq pm) := by
  have := Pm.code_lt pm
  show 0xe9010000 + pm.code * 4194304 < 4294967296
  omega

theorem faddb (g : BitVec 6) : Statement (.faddb g) := by
  have := g.isLt
  show 0xeac00000 + g.toNat * 65536 < 4294967296
  omega

theorem incw (pm : Pm) (g : BitVec 6) : Statement (.incw pm g) := by
  have := Pm.code_lt pm
  have := g.isLt
  show 0xeb000000 + pm.code * 4194304 + g.toNat * 65536 < 4294967296
  omega

theorem fillD (pm : Pm) (lsid : BitVec 5) (imm : BitVec 6) : Statement (.fillD pm lsid imm) := by
  have := Pm.code_lt pm
  have := lsid.isLt
  have := imm.isLt
  show 0xec018000 + pm.code * 4194304 + lsid.toNat * 131072 + imm.toNat * 256 < 4294967296
  omega

theorem fillV (pm : Pm) (lsid : BitVec 5) (imm : BitVec 6) : Statement (.fillV pm lsid imm) := by
  have := Pm.code_lt pm
  have := lsid.isLt
  have := imm.isLt
  show 0xec004000 + pm.code * 4194304 + lsid.toNat * 131072 + imm.toNat * 256 < 4294967296
  omega

theorem cpy (pm : Pm) (g : BitVec 6) : Statement (.cpy pm g) := by
  have := Pm.code_lt pm
  have := g.isLt
  show 0xed000000 + pm.code * 4194304 + g.toNat * 65536 < 4294967296
  omega

theorem cpyw (pm : Pm) (g : BitVec 6) : Statement (.cpyw pm g) := by
  have := Pm.code_lt pm
  have := g.isLt
  show 0xee000000 + pm.code * 4194304 + g.toNat * 65536 < 4294967296
  omega

theorem pop (pm : Pm) (d : Dir) (t1 : BitVec 8) (t0 : BitVec 8) : Statement (.pop pm d t1 t0) := by
  have := Pm.code_lt pm
  have := Dir.code_lt d
  have := t1.isLt
  have := t0.isLt
  show 0xf0000000 + pm.code * 4194304 + d.code * 65536 + t1.toNat * 256 + t0.toNat < 4294967296
  omega

theorem popMb (pm : Pm) (t1 : BitVec 8) (t0 : BitVec 8) : Statement (.popMb pm t1 t0) := by
  have := Pm.code_lt pm
  have := t1.isLt
  have := t0.isLt
  show 0xf0040000 + pm.code * 4194304 + t1.toNat * 256 + t0.toNat < 4294967296
  omega

theorem qstat (pm : Pm) (fn : BitVec 6) (t0 : BitVec 8) : Statement (.qstat pm fn t0) := by
  have := Pm.code_lt pm
  have := fn.isLt
  have := t0.isLt
  show 0xf1000000 + pm.code * 4194304 + fn.toNat * 65536 + t0.toNat < 4294967296
  omega

theorem send (pm : Pm) : Statement (.send pm) := by
  have := Pm.code_lt pm
  show 0xf2000000 + pm.code * 4194304 < 4294967296
  omega

theorem strm (pm : Pm) : Statement (.strm pm) := by
  have := Pm.code_lt pm
  show 0xf3000000 + pm.code * 4194304 < 4294967296
  omega

theorem mark (pm : Pm) : Statement (.mark pm) := by
  have := Pm.code_lt pm
  show 0xf3010000 + pm.code * 4194304 < 4294967296
  omega

theorem mig (pm : Pm) : Statement (.mig pm) := by
  have := Pm.code_lt pm
  show 0xf4000000 + pm.code * 4194304 < 4294967296
  omega

theorem deleg (pm : Pm) : Statement (.deleg pm) := by
  have := Pm.code_lt pm
  show 0xf5000000 + pm.code * 4194304 < 4294967296
  omega

theorem dcall (pm : Pm) (g : BitVec 6) : Statement (.dcall pm g) := by
  have := Pm.code_lt pm
  have := g.isLt
  show 0xf6000000 + pm.code * 4194304 + g.toNat * 65536 < 4294967296
  omega

theorem dret (pm : Pm) : Statement (.dret pm) := by
  have := Pm.code_lt pm
  show 0xf7000000 + pm.code * 4194304 < 4294967296
  omega

theorem binit (pm : Pm) : Statement (.binit pm) := by
  have := Pm.code_lt pm
  show 0xf8000000 + pm.code * 4194304 < 4294967296
  omega

theorem arv (pm : Pm) : Statement (.arv pm) := by
  have := Pm.code_lt pm
  show 0xf8010000 + pm.code * 4194304 < 4294967296
  omega

theorem arvd (pm : Pm) : Statement (.arvd pm) := by
  have := Pm.code_lt pm
  show 0xf8020000 + pm.code * 4194304 < 4294967296
  omega

theorem bwt (pm : Pm) : Statement (.bwt pm) := by
  have := Pm.code_lt pm
  show 0xf8030000 + pm.code * 4194304 < 4294967296
  omega

theorem rcnt (pm : Pm) (t0 : BitVec 8) : Statement (.rcnt pm t0) := by
  have := Pm.code_lt pm
  have := t0.isLt
  show 0xf9000000 + pm.code * 4194304 + t0.toNat < 4294967296
  omega

theorem wcnt (pm : Pm) : Statement (.wcnt pm) := by
  have := Pm.code_lt pm
  show 0xf9010000 + pm.code * 4194304 < 4294967296
  omega

theorem ecomb (pm : Pm) : Statement (.ecomb pm) := by
  have := Pm.code_lt pm
  show 0xf9020000 + pm.code * 4194304 < 4294967296
  omega

theorem hbt (pm : Pm) : Statement (.hbt pm) := by
  have := Pm.code_lt pm
  show 0xf9030000 + pm.code * 4194304 < 4294967296
  omega

theorem trmk (pm : Pm) : Statement (.trmk pm) := by
  have := Pm.code_lt pm
  show 0xf9040000 + pm.code * 4194304 < 4294967296
  omega

theorem digr (pm : Pm) (t0 : BitVec 8) : Statement (.digr pm t0) := by
  have := Pm.code_lt pm
  have := t0.isLt
  show 0xf9050000 + pm.code * 4194304 + t0.toNat < 4294967296
  omega

theorem rctl (pm : Pm) (cn : BitVec 12) (t0 : BitVec 8) : Statement (.rctl pm cn t0) := by
  have := Pm.code_lt pm
  have := cn.isLt
  have := t0.isLt
  show 0xfa000000 + pm.code * 4194304 + cn.toNat * 256 + t0.toNat < 4294967296
  omega

theorem wctl (pm : Pm) (cn : BitVec 12) : Statement (.wctl pm cn) := by
  have := Pm.code_lt pm
  have := cn.isLt
  show 0xfa100000 + pm.code * 4194304 + cn.toNat * 256 < 4294967296
  omega

theorem sctl (pm : Pm) (cn : BitVec 12) : Statement (.sctl pm cn) := by
  have := Pm.code_lt pm
  have := cn.isLt
  show 0xfa200000 + pm.code * 4194304 + cn.toNat * 256 < 4294967296
  omega

theorem cctl (pm : Pm) (cn : BitVec 12) : Statement (.cctl pm cn) := by
  have := Pm.code_lt pm
  have := cn.isLt
  show 0xfa300000 + pm.code * 4194304 + cn.toNat * 256 < 4294967296
  omega

theorem fork (pm : Pm) (t0 : BitVec 8) : Statement (.fork pm t0) := by
  have := Pm.code_lt pm
  have := t0.isLt
  show 0xfb000000 + pm.code * 4194304 + t0.toNat < 4294967296
  omega

theorem merge (pm : Pm) (g : BitVec 6) : Statement (.merge pm g) := by
  have := Pm.code_lt pm
  have := g.isLt
  show 0xfb010000 + pm.code * 4194304 + g.toNat < 4294967296
  omega

theorem exit (pm : Pm) : Statement (.exit pm) := by
  have := Pm.code_lt pm
  show 0xfb020000 + pm.code * 4194304 < 4294967296
  omega

theorem retain (pm : Pm) : Statement (.retain pm) := by
  have := Pm.code_lt pm
  show 0xfb030000 + pm.code * 4194304 < 4294967296
  omega

theorem start (pm : Pm) : Statement (.start pm) := by
  have := Pm.code_lt pm
  show 0xfc000000 + pm.code * 4194304 < 4294967296
  omega

theorem startComm (pm : Pm) : Statement (.startComm pm) := by
  have := Pm.code_lt pm
  show 0xfc000000 + pm.code * 4194304 < 4294967296
  omega

theorem reapDump (pm : Pm) : Statement (.reapDump pm) := by
  have := Pm.code_lt pm
  show 0xfc010000 + pm.code * 4194304 < 4294967296
  omega

theorem reapTrap (pm : Pm) : Statement (.reapTrap pm) := by
  have := Pm.code_lt pm
  show 0xfc010000 + pm.code * 4194304 < 4294967296
  omega

theorem kill (pm : Pm) : Statement (.kill pm) := by
  have := Pm.code_lt pm
  show 0xfc020000 + pm.code * 4194304 < 4294967296
  omega

theorem ackf (pm : Pm) : Statement (.ackf pm) := by
  have := Pm.code_lt pm
  show 0xfc030000 + pm.code * 4194304 < 4294967296
  omega

theorem eret (pm : Pm) : Statement (.eret pm) := by
  have := Pm.code_lt pm
  show 0xfc040000 + pm.code * 4194304 < 4294967296
  omega

theorem tlbi (pm : Pm) : Statement (.tlbi pm) := by
  have := Pm.code_lt pm
  show 0xfc050000 + pm.code * 4194304 < 4294967296
  omega

theorem genb (pm : Pm) : Statement (.genb pm) := by
  have := Pm.code_lt pm
  show 0xfc060000 + pm.code * 4194304 < 4294967296
  omega

theorem tblwTranslation (pm : Pm) : Statement (.tblwTranslation pm) := by
  have := Pm.code_lt pm
  show 0xfc070000 + pm.code * 4194304 < 4294967296
  omega

theorem tblwAsidRoot (pm : Pm) : Statement (.tblwAsidRoot pm) := by
  have := Pm.code_lt pm
  show 0xfc070000 + pm.code * 4194304 < 4294967296
  omega

theorem tblwStreamEntry (pm : Pm) : Statement (.tblwStreamEntry pm) := by
  have := Pm.code_lt pm
  show 0xfc070000 + pm.code * 4194304 < 4294967296
  omega

theorem tblwContainment (pm : Pm) : Statement (.tblwContainment pm) := by
  have := Pm.code_lt pm
  show 0xfc070000 + pm.code * 4194304 < 4294967296
  omega

theorem tblwFormatWindow (pm : Pm) : Statement (.tblwFormatWindow pm) := by
  have := Pm.code_lt pm
  show 0xfc070000 + pm.code * 4194304 < 4294967296
  omega

theorem tblwBreakpoint (pm : Pm) : Statement (.tblwBreakpoint pm) := by
  have := Pm.code_lt pm
  show 0xfc070000 + pm.code * 4194304 < 4294967296
  omega

theorem tblwCorrectionHistory (pm : Pm) : Statement (.tblwCorrectionHistory pm) := by
  have := Pm.code_lt pm
  show 0xfc070000 + pm.code * 4194304 < 4294967296
  omega

theorem tblwFrameState (pm : Pm) : Statement (.tblwFrameState pm) := by
  have := Pm.code_lt pm
  show 0xfc070000 + pm.code * 4194304 < 4294967296
  omega

theorem gstop (pm : Pm) : Statement (.gstop pm) := by
  have := Pm.code_lt pm
  show 0xfc080000 + pm.code * 4194304 < 4294967296
  omega

theorem gstopResume (pm : Pm) : Statement (.gstopResume pm) := by
  have := Pm.code_lt pm
  show 0xfc080000 + pm.code * 4194304 < 4294967296
  omega

theorem gsw (pm : Pm) : Statement (.gsw pm) := by
  have := Pm.code_lt pm
  show 0xfc090000 + pm.code * 4194304 < 4294967296
  omega

theorem trap (pm : Pm) (c : BitVec 6) : Statement (.trap pm c) := by
  have := Pm.code_lt pm
  have := c.isLt
  show 0xfd000000 + pm.code * 4194304 + c.toNat * 65536 < 4294967296
  omega

theorem seinjWrite : Statement .seinjWrite := Nat.one_pos

theorem ebudWrite : Statement .ebudWrite := Nat.one_pos

theorem hbiWrite : Statement .hbiWrite := Nat.one_pos

theorem tomWrite : Statement .tomWrite := Nat.one_pos

theorem blockFetch : Statement .blockFetch := Nat.one_pos

theorem blockCacheFill : Statement .blockCacheFill := Nat.one_pos

theorem translationWalk : Statement .translationWalk := Nat.one_pos

theorem blockCommit : Statement .blockCommit := Nat.one_pos

theorem blockStarved : Statement .blockStarved := Nat.one_pos

theorem rotationAccounting : Statement .rotationAccounting := Nat.one_pos

theorem producerCompletion : Statement .producerCompletion := Nat.one_pos

theorem loadResult : Statement .loadResult := Nat.one_pos

theorem acceptance : Statement .acceptance := Nat.one_pos

theorem deferredFault : Statement .deferredFault := Nat.one_pos

theorem trapRecordQueued : Statement .trapRecordQueued := Nat.one_pos

theorem trapHandlerEntry : Statement .trapHandlerEntry := Nat.one_pos

theorem taskAdmission : Statement .taskAdmission := Nat.one_pos

theorem privStoreDrain : Statement .privStoreDrain := Nat.one_pos

theorem privStoreApply : Statement .privStoreApply := Nat.one_pos

theorem privStoreAck : Statement .privStoreAck := Nat.one_pos

theorem readServe : Statement .readServe := Nat.one_pos

theorem combineMerge : Statement .combineMerge := Nat.one_pos

theorem combineHoldEnd : Statement .combineHoldEnd := Nat.one_pos

theorem joinApply : Statement .joinApply := Nat.one_pos

theorem fillApply : Statement .fillApply := Nat.one_pos

theorem waitServe : Statement .waitServe := Nat.one_pos

theorem freezeApply : Statement .freezeApply := Nat.one_pos

theorem exactReadServe : Statement .exactReadServe := Nat.one_pos

theorem schedApply : Statement .schedApply := Nat.one_pos

theorem dramLineFill : Statement .dramLineFill := Nat.one_pos

theorem overflowChainRead : Statement .overflowChainRead := Nat.one_pos

theorem faultQueueRepair : Statement .faultQueueRepair := Nat.one_pos

theorem frameReassign : Statement .frameReassign := Nat.one_pos

theorem scrub : Statement .scrub := Nat.one_pos

theorem genbApply : Statement .genbApply := Nat.one_pos

theorem systemOpComplete : Statement .systemOpComplete := Nat.one_pos

theorem tileOpBegin : Statement .tileOpBegin := Nat.one_pos

theorem tileOpComplete : Statement .tileOpComplete := Nat.one_pos

theorem copyCommandBegin : Statement .copyCommandBegin := Nat.one_pos

theorem copyRun : Statement .copyRun := Nat.one_pos

theorem copyCommandComplete : Statement .copyCommandComplete := Nat.one_pos

theorem streamFlitForward : Statement .streamFlitForward := Nat.one_pos

theorem streamCombine : Statement .streamCombine := Nat.one_pos

theorem markerStep : Statement .markerStep := Nat.one_pos

theorem continuationDepart : Statement .continuationDepart := Nat.one_pos

theorem continuationArrival : Statement .continuationArrival := Nat.one_pos

theorem continuationPlace : Statement .continuationPlace := Nat.one_pos

theorem continuationAccept : Statement .continuationAccept := Nat.one_pos

theorem continuationRefusal : Statement .continuationRefusal := Nat.one_pos

theorem continuationRetry : Statement .continuationRetry := Nat.one_pos

theorem sendArrival : Statement .sendArrival := Nat.one_pos

theorem sendRefusal : Statement .sendRefusal := Nat.one_pos

theorem sendRetry : Statement .sendRetry := Nat.one_pos

theorem delegationArrival : Statement .delegationArrival := Nat.one_pos

theorem delegationRefusal : Statement .delegationRefusal := Nat.one_pos

theorem delegationRetry : Statement .delegationRetry := Nat.one_pos

theorem delegationBegin : Statement .delegationBegin := Nat.one_pos

theorem dcallReply : Statement .dcallReply := Nat.one_pos

theorem routineFaultReply : Statement .routineFaultReply := Nat.one_pos

theorem spawnArrival : Statement .spawnArrival := Nat.one_pos

theorem spawnRefusal : Statement .spawnRefusal := Nat.one_pos

theorem spawnResend : Statement .spawnResend := Nat.one_pos

theorem exitMessageDepart : Statement .exitMessageDepart := Nat.one_pos

theorem exitMessageApply : Statement .exitMessageApply := Nat.one_pos

theorem binitTakeEffect : Statement .binitTakeEffect := Nat.one_pos

theorem barrierArrivalDepart : Statement .barrierArrivalDepart := Nat.one_pos

theorem phaseComplete : Statement .phaseComplete := Nat.one_pos

theorem phaseCompletionArrive : Statement .phaseCompletionArrive := Nat.one_pos

theorem ecombAdd : Statement .ecombAdd := Nat.one_pos

theorem heartbeatMiss : Statement .heartbeatMiss := Nat.one_pos

theorem watchdogPreempt : Statement .watchdogPreempt := Nat.one_pos

theorem watchdogKill : Statement .watchdogKill := Nat.one_pos

theorem watchdogFence : Statement .watchdogFence := Nat.one_pos

theorem energyWindowStart : Statement .energyWindowStart := Nat.one_pos

theorem energyEpochEnd : Statement .energyEpochEnd := Nat.one_pos

theorem digestSnapshot : Statement .digestSnapshot := Nat.one_pos

theorem quiescenceSum : Statement .quiescenceSum := Nat.one_pos

theorem podSums : Statement .podSums := Nat.one_pos

theorem quiescenceFound : Statement .quiescenceFound := Nat.one_pos

theorem launchStart : Statement .launchStart := Nat.one_pos

theorem launchEnd : Statement .launchEnd := Nat.one_pos

theorem twinCompare : Statement .twinCompare := Nat.one_pos

theorem fence : Statement .fence := Nat.one_pos

theorem gangStop : Statement .gangStop := Nat.one_pos

theorem gangStopResume : Statement .gangStopResume := Nat.one_pos

theorem gangSwitchRequest : Statement .gangSwitchRequest := Nat.one_pos

theorem gangSwitch : Statement .gangSwitch := Nat.one_pos

theorem switchImageWrite : Statement .switchImageWrite := Nat.one_pos

theorem resume : Statement .resume := Nat.one_pos

theorem traceSample : Statement .traceSample := Nat.one_pos

theorem traceFrameWrite : Statement .traceFrameWrite := Nat.one_pos

theorem cxlMemWrite : Statement .cxlMemWrite := Nat.one_pos

theorem cxlMemRead : Statement .cxlMemRead := Nat.one_pos

theorem submitLaunchRecord : Statement .submitLaunchRecord := Nat.one_pos

theorem readStatusRecord : Statement .readStatusRecord := Nat.one_pos

theorem managementRead : Statement .managementRead := Nat.one_pos

theorem managementWrite : Statement .managementWrite := Nat.one_pos

theorem bringUpReport : Statement .bringUpReport := Nat.one_pos

theorem hostErrorLog : Statement .hostErrorLog := Nat.one_pos

theorem boundaryScan : Statement .boundaryScan := Nat.one_pos

theorem codeword : Statement .codeword := Nat.one_pos

theorem nak : Statement .nak := Nat.one_pos

theorem timeSync : Statement .timeSync := Nat.one_pos

theorem timeSyncInterval : Statement .timeSyncInterval := Nat.one_pos

theorem capability : Statement .capability := Nat.one_pos

theorem portDown : Statement .portDown := Nat.one_pos

theorem powerUp : Statement .powerUp := Nat.one_pos

theorem cxlReset : Statement .cxlReset := Nat.one_pos

theorem gangSwitchComplete : Statement .gangSwitchComplete := Nat.one_pos

theorem retraining : Statement .retraining := Nat.one_pos

end Sys2Proof.Laws.Fits
end

