-- ==== Sys2Proof/Tests/Slice0.lean ====
section
/-!
SUPPORT. The model's own tests: ill-formed terms that WellFormed refuses, words written out from the spec's encodings, results of
the spec's worked examples, and for each statement a state that meets its hypotheses.
-/

namespace Sys2Proof.Tests

open Sys2Proof.Machine

/-! ### Ill-formed terms (R63, R64 to R75) -/

/-- pm 11 where the row has no ternary form; a register beyond its file. -/
theorem test_wf_predicate_and_register :
    (Instr.movh .ternary 1).wf = false ∧ (Instr.add .ternary .w32 0 0).wf = false ∧ (Instr.rd .pr 8 0 0).wf = false ∧
      (Instr.rdt .ox 8 0 0).wf = false ∧ (Instr.wr .vr 16).wf = false ∧ (Instr.wr .gr 63).wf = true := by decide

/-- Formats and operations that a vector row does not list. -/
theorem test_wf_vector :
    (Instr.vadd .always .bfx8 0 0).wf = false ∧ (Instr.vfma .i32 0 0).wf = false ∧ (Instr.vshl .always .f32 0 0).wf = false ∧
      (Instr.vdiv .always .i8 0 0).wf = false ∧ (Instr.vdot4 3 0 0).wf = false ∧ (Instr.vcmp .always 6 .i32 0 0).wf = false ∧
      (Instr.vcmp .always 6 .f32 0 0).wf = true ∧ (Instr.vred .always 5 .i32 0 0).wf = false ∧
      (Instr.vred .always 3 .f32 0 0).wf = false ∧ (Instr.vcvt .always .f32 .f32 0 0).wf = false ∧
      (Instr.vcvt .always .f32 .bfx4 0 0).wf = false := by decide

/-- Field values that a tile, memory or system row does not list. -/
theorem test_wf_fields :
    (Instr.tmma .always 0 0 0 3).wf = false ∧ (Instr.tckv .always 0 0).wf = false ∧ (Instr.vld .always 0 3 false 0 0).wf = false ∧
      (Instr.vst .always 0 3 false 0).wf = false ∧ (Instr.vst .always 0 1 false 0).wf = false ∧
      (Instr.vst .ternary 0 1 true 0).wf = false ∧ (Instr.vst .ternary 0 1 false 0).wf = true ∧
      (Instr.waitt .always 0 0).wf = false ∧ (Instr.waitt .always 1 5).wf = false ∧ (Instr.faddb 0).wf = false ∧
      (Instr.qstat .always 11 0).wf = false ∧ (Instr.dcall .always 0).wf = false ∧ (Instr.merge .always 0).wf = false ∧
      (Instr.rctl .always 0x00D 0).wf = false ∧ (Instr.wctl .always 0x014).wf = false ∧ (Instr.sctl .always 0x183).wf = false ∧
      (Instr.cctl .always 0x182).wf = true := by decide

/-- Units that the package does not have (R11 to R13, R384). -/
theorem test_wf_units :
    (Event.copyRun 26116).wf = false ∧ (Event.copyRun 26115).wf = true ∧ (Event.blockFetch 0 17).wf = false ∧
      (Event.energyWindowStart 24).wf = false ∧ (Event.faultQueueRepair 1536).wf = false ∧ (Event.launchStart 256).wf = false ∧
      (Event.portDown 0 64).wf = false ∧ (Event.portDown 0 63).wf = true ∧ (Event.cxlMemRead 0 0).wf = false ∧ (Event.cxlMemRead 26112 32).wf = false ∧
      (Event.cxlMemWrite 26112 64 []).wf = false := by decide

/-! ### Words from the spec's encodings -/

/-- Words of the scalar examples and of R120's call (05_scalar_instructions). -/
theorem test_decode_scalar :
    decodeTableWord 32 0x83000701 = some (.movi .always 7 1) ∧ decodeTableWord 32 0x84306C02 = some (.movhi .always 0x306C 2) ∧
      decodeTableWord 32 0x87000008 = some (.call .always 8) ∧ decodeTableWord 32 0x80034202 = some (.rd .gr 3 0x42 0x02) ∧
      decodeTableWord 32 0x98100003 = some (.mul .always .w64 0 3) ∧ decodeTableWord 16 0x5800 = some (.reth .always) := by decide

/-- The words of R177. -/
theorem test_decode_tile :
    decodeTableWord 32 0xD0040000 = some (.tld .always 1) ∧ decodeTableWord 32 0xD1004000 = some (.tst .always 1) ∧
      decodeTableWord 32 0xD2000000 = some (.tzero .always 0) ∧ decodeTableWord 32 0xD3004800 = some (.tmma .always 0 1 2 0) ∧
      decodeTableWord 32 0xD4004900 = some (.tmmas .always 0 1 2 1) ∧ decodeTableWord 32 0xD5004800 = some (.tmmac .always 0 1 2 0) ∧
      decodeTableWord 32 0xD6000005 = some (.tckv .always 0 5) ∧ decodeTableWord 32 0xD70C4800 = some (.tadd .always 3 1 2) ∧
      decodeTableWord 32 0xD8100000 = some (.tcvt .always 4 0) ∧ decodeTableWord 32 0xD9144000 = some (.ttrn .always 5 1) ∧
      decodeTableWord 32 0xDA000003 = some (.trow .always 0 3) ∧ decodeTableWord 32 0xDB000000 = some (.tins .always 0) := by decide

/-- Words that 11_lattice_instructions and 12_queues print. -/
theorem test_decode_lattice_and_queues :
    decodeTableWord 32 0xEC004000 = some (.fillV .always 0 0) ∧ decodeTableWord 32 0xE6050100 = some (.waitt .always 5 1) ∧
      decodeTableWord 32 0xE9000000 = some (.freeze .always) ∧ decodeTableWord 32 0xE9010000 = some (.frzq .always) ∧
      decodeTableWord 32 0xEAC60000 = some (.faddb 6) ∧ decodeTableWord 32 0xEB060000 = some (.incw .always 6) ∧
      decodeTableWord 32 0xED090000 = some (.cpy .always 9) ∧ decodeTableWord 32 0xEE000000 = some (.cpyw .always 0) ∧
      decodeTableWord 32 0xF0000003 = some (.pop .always .north 0 3) ∧ decodeTableWord 32 0xF2000000 = some (.send .always) ∧
      decodeTableWord 32 0xF3000000 = some (.strm .always) ∧ decodeTableWord 32 0xF3010000 = some (.mark .always) ∧
      decodeTableWord 32 0xF4000000 = some (.mig .always) ∧ decodeTableWord 32 0xF5000000 = some (.deleg .always) ∧
      decodeTableWord 32 0xF6060000 = some (.dcall .always 6) ∧ decodeTableWord 32 0xF7000000 = some (.dret .always) := by decide

/-- Words that 13_tables, 14_counters and 15_contexts print. -/
theorem test_decode_counters_and_contexts :
    decodeTableWord 32 0xF8000000 = some (.binit .always) ∧ decodeTableWord 32 0xF8010000 = some (.arv .always) ∧
      decodeTableWord 32 0xF8020000 = some (.arvd .always) ∧ decodeTableWord 32 0xF8030000 = some (.bwt .always) ∧
      decodeTableWord 32 0xF9010000 = some (.wcnt .always) ∧ decodeTableWord 32 0xF9020000 = some (.ecomb .always) ∧
      decodeTableWord 32 0xF9040000 = some (.trmk .always) ∧ decodeTableWord 32 0xF9050005 = some (.digr .always 5) ∧
      decodeTableWord 32 0xFB020000 = some (.exit .always) ∧ decodeTableWord 32 0xFB030000 = some (.retain .always) ∧
      decodeTableWord 32 0xFC000000 = some (.start .always) ∧ decodeTableWord 32 0xFC010000 = some (.reapDump .always) ∧
      decodeTableWord 32 0xFC030000 = some (.ackf .always) ∧ decodeTableWord 32 0xFC050000 = some (.tlbi .always) ∧
      decodeTableWord 32 0xFC060000 = some (.genb .always) ∧ decodeTableWord 32 0xFC070000 = some (.tblwTranslation .always) ∧
      decodeTableWord 32 0xFC080000 = some (.gstop .always) ∧ decodeTableWord 32 0xFC090000 = some (.gsw .always) ∧
      decodeTableWord 32 0xFD050000 = some (.trap .always 5) := by decide

/-- Words that name no instruction: an op7 that no table lists, a reserved fn, a field that must be zero (R63, R64). -/
theorem test_decode_refuses :
    decodeTableWord 32 0xFE000000 = none ∧ decodeTableWord 32 0x900E0000 = none ∧ decodeTableWord 32 0xFB020001 = none ∧
      decodeTableWord 16 0x5C00 = none := by decide

/-! ### Small states -/

/-- An instruction in the first slot of the window of a context of core 0, with scalar operands. -/
def place (i : Instr) (l r : W64) : State :=
  let s := State.reset.withFetchWord i.nbits i.encode
  let x := contextFor i
  let s := s.modBlock 0 x fun b => b.modSlot 0 fun q =>
    { q with l := { q.l with val := some (.scalar l) }, r := { q.r with val := some (.scalar r) } }
  { s with cur := ⟨0, x, 0⟩ }

/-- What a run sends to operand positions: cycle, slot, position, token. -/
def sent (o : Outcome) (x : Nat) : List Flight :=
  match o with
  | .next t => ((t.ctx 0 x).blk.map (·.flights)).getD []
  | _ => []

/-- The scalar tokens that a worker's instruction sends for operands L and R. -/
def scalarsSent (i : Instr) (l r : W64) : List (Option W64) :=
  (sent (exec i (place i l r)) 2).map fun f => match f.tok with
    | .scalar v => some v
    | _ => none

/-- R111 and R113 by the table of 05_scalar_instructions, L = 0xFFFF_FFFF_8000_0001. -/
theorem test_scalar_table :
    scalarsSent (.add .always .w32 0 1) 0xFFFFFFFF80000001 0x7FFFFFFF = [some 0] ∧
      scalarsSent (.shr .always .w32 0 1) 0xFFFFFFFF80000001 4 = [some 0x08000000] ∧
      scalarsSent (.sra .always .w32 0 1) 0xFFFFFFFF80000001 4 = [some 0xFFFFFFFFF8000000] ∧
      scalarsSent (.shl .always .w32 0 1) 0xFFFFFFFF80000001 32 = [some 0] ∧
      scalarsSent (.sra .always .w64 0 1) 0xFFFFFFFF80000001 70 = [some 0xFFFFFFFFFFFFFFFF] ∧
      scalarsSent (.rot .always .w32 0 1) 0xFFFFFFFF80000001 36 = [some 0x18] ∧
      scalarsSent (.rot .always .w64 0 1) 0xFFFFFFFF80000001 1 = [some 0xFFFFFFFF00000003] := by decide

/-- The rest of that table. -/
theorem test_scalar_table_products :
    scalarsSent (.mulh .always .w32 0 1) 0xFFFFFFFF80000001 2 = [some 0xFFFFFFFFFFFFFFFF] ∧
      scalarsSent (.mulhu .always .w32 0 1) 0xFFFFFFFF80000001 2 = [some 1] ∧
      scalarsSent (.div .always .w64 0 1) 0xFFFFFFFF80000001 0 = [some 0xFFFFFFFFFFFFFFFF] ∧
      scalarsSent (.rem .always .w64 0 1) 0xFFFFFFFF80000001 0 = [some 0xFFFFFFFF80000001] ∧
      scalarsSent (.minu .always .w32 0 1) 0xFFFFFFFF80000001 1 = [some 1] ∧
      scalarsSent (.min .always .w32 0 1) 0xFFFFFFFF80000001 1 = [some 0xFFFFFFFF80000001] ∧
      scalarsSent (.div .always .w64 0 1) 0x8000000000000000 0xFFFFFFFFFFFFFFFF = [some 0x8000000000000000] ∧
      scalarsSent (.rem .always .w64 0 1) 0x8000000000000000 0xFFFFFFFFFFFFFFFF = [some 0] := by decide

/-- The keys of R136 by its table, with both NaN policies. -/
theorem test_float_keys :
    floatKey 0xFF800000 false = 0x007FFFFF ∧ floatKey 0xBF800000 false = 0x407FFFFF ∧ floatKey 0x80000000 false = 0x80000000 ∧
      floatKey 0 false = 0x80000000 ∧ floatKey 1 false = 0x80000001 ∧ floatKey 0x3F800000 false = 0xBF800000 ∧
      floatKey 0x7F800000 true = 0xFF800000 ∧ floatKey 0x7FC00000 true = 0xFFFFFFFF ∧
      floatKey 0x7FC00000 false = 0 := by
  decide

/-! ### States that meet the hypotheses of the statements

One theorem for each statement that has hypotheses, under its name; each clause at a value on the edge of its range. -/

/-- Context `x` of core 0 with a window of one slot, whose operands are `l`, `r` and `p`; the firing position is that slot. -/
def stand (x : Nat) (l r p : Tok) : State :=
  let o (k : Tok) : Operand := { fan := 1, val := some k }
  let q : Slot := { l := o l, r := o r, p := o p }
  let b : Block := { addr := 0x100000, bytes := 16, hdr := 0xFF00000E, carry := 0, slots := [q], firstAt := 0 }
  { State.reset.modCore 0 fun k => { k with ctxs := [(x, { st := .active, blk := some b })] } with cur := ⟨0, x, 0⟩ }

/-- A worker with scalar operands. -/
def scal (l r : W64) : State := stand 2 (.scalar l) (.scalar r) (.scalar 1)

/-- A worker whose left operand is null. -/
def nullL : State := (scal 0 0).modBlock 0 2 fun b => b.modSlot 0 fun q => { q with l := { fan := 1, nulls := 1 } }

/-- A worker with vector operands of the lanes `m`, and the predicate operand `p`. -/
def vecs (x y : V1024) (m : W32) (p : Tok) : State := stand 2 (.vector x m) (.vector y m) p

/-- The same with `e` as the event being taken. -/
def taking (e : Event) (s : State) : State := { s with ev := e }

/-- The same with a changed context of core 0. -/
def ctx0 (x : Nat) (f : Ctx → Ctx) (s : State) : State := s.modCtx 0 x f

/-- The same with a changed core 0. -/
def core0 (f : Core → Core) (s : State) : State := s.modCore 0 f

/-- The same with the leaf `l` for `va` in the buffer of core 0. -/
def mapped (va : Nat) (l : Leaf) (s : State) : State := core0 (fun k => { k with tlb := ⟨0, 0, vpageOf l.big va, l⟩ :: k.tlb }) s

/-- A launch of 2 by 2 cores at the corner, running on package 0. -/
def run0 : Run := { rc := { lid := 1, width := 2, height := 2, asid := 0 } }

/-- The same with a strict launch on package 0. -/
def strictly (s : State) : State := s.modPkg 0 fun k => { k with runs := [{ run0 with rc := { run0.rc with strict := true } }] }

theorem witness_EncodedInstructionDecodes : (Instr.ld .always 31 3 true 63 255).wf = true ∧ (Instr.ld .always 31 3 true 63 255).nbits ≠ 0 ∧
    (Instr.reth .always).wf = true ∧ (Instr.reth .always).nbits = 16 := by decide

theorem witness_DecodedWordIsTheInstructionsWord : 0x83000201 < 2 ^ 32 ∧ decodeTableWord 32 0x83000201 = some (.movi .always 2 1) ∧
    0x5800 < 2 ^ 16 ∧ decodeTableWord 16 0x5800 = some (.reth .always) := by decide

/-- Scalar operands under each predicate mode; a zero divisor, the most negative dividend. -/
theorem witness_ScalarArithmetic : (scal 1 0).offScalar .always = false ∧ (scal 0x8000000000000000 (-1)).offScalar .onTrue = false ∧
    (stand 2 (.scalar 1) (.scalar 64) (.scalar 0)).offScalar .onFalse = false := by decide

theorem witness_ScalarUnaryTestsAndShortForms : (scal 0 0).offScalar .always = false ∧ (scal (-1) 0).offScalar .ternary = false := by decide

/-- A block whose only effect is a write of g0. -/
def ending (x : Nat) (e : Eff) (k : ExitKind) (target : Nat) : State :=
  taking (.blockCommit 0 x) ((stand x (.scalar 1) (.scalar 0) (.scalar 1)).modBlock 0 x fun b =>
    { b with exit := some { kind := k, target := target }, slots := [{ fired := true, eff := e, half := true, word := 0 }] })

theorem witness_HardwiredRegisters : let s := ending 2 (.wr .gr 0 (.scalar 7)) .br 0x100000
    s.ev = .blockCommit 0 2 ∧ (s.ctx 0 2).pair = false ∧ (s.ctx 0 2).blk.isSome = true ∧ s.mayCommit 0 2 s.cblk = true ∧
      s.cblk.taken = [] ∧ s.cblk.exit = some { kind := .br, target := 0x100000 } ∧
      (s.cblk.slots.all fun q => q.push == [] && q.eff == .wr .gr 0 (.scalar 7)) = true ∧
      (Instr.waitt .always 1 1).wf = true ∧ ({} : CopyCmd).g = 0 := by decide

theorem witness_RegisterReadsAndWrites : (scal 0 0).cctx.regState .gr 0 = .full ∧ (scal 0 0).cctx.regState .vr 63 = .invalid ∧
    (ctx0 2 (·.makeEmpty .gr 63) (scal 0 0)).cctx.regState .gr 63 = .empty := by decide

theorem witness_RegisterWriteRule : let s := ending 2 (.wr .gr 63 (.scalar 7)) .call 0x100000
    s.ev = .blockCommit 0 2 ∧ (s.ctx 0 2).pair = false ∧ (s.ctx 0 2).blk.isSome = true ∧ s.mayCommit 0 2 s.cblk = true ∧
      s.cblk.taken = [] ∧ (s.cblk.exit.map (·.kind)) = some .call ∧
      (s.cblk.slots.all fun q => q.push == [] && q.eff == .wr .gr 63 (.scalar 7)) = true ∧
      (63 : Nat) ≠ 0 ∧ (1 : W32) ≠ 0 ∧ ((RegFile.gr, 1) ≠ (RegFile.gr, 2)) := by decide

/-- Addresses at the edges: aligned and not, of 48 bits and above. -/
theorem witness_Branches : let s (l : W64) := scal l 0
    (s 0xFFFFFFFFFFF8).offScalar .always = false ∧ (s 0).cblk.exit = none ∧ 0xFFFFFFFFFFF8 % 8 = 0 ∧ 0xFFFFFFFFFFF8 < 2 ^ 48 ∧
      (s 0xFFFFFFFFFFF8).lval.toNat = 0xFFFFFFFFFFF8 ∧ (s 1).lval.toNat % 8 ≠ 0 ∧ (s 0x1000000000000).lval.toNat % 8 = 0 ∧
      2 ^ 48 ≤ (s 0x1000000000000).lval.toNat ∧ ((ending 2 .none .br 0).cblk.exit).isSome = true ∧
      (ending 2 .none .br 0).offScalar .always = false := by decide

theorem witness_ThreadExits : let s (x : Nat) (l : W64) := stand x (.scalar l) (.scalar 0) (.scalar 1)
    let head (h : Head) := core0 (fun k => { k with head := h }) (s 0 0)
    let tiled := core0 (fun k => { k with tom := 0x2 }) (s 2 0x65FF0)
    let enrolled := core0 (fun k => { k with enrol := [⟨256, 2, false, 0⟩] }) (s 2 0x65FF0)
    (s 2 0x7FE5FF0).offScalar .always = false ∧ (s 2 0).cblk.exit = none ∧ (s 2 0x7FE5FF0).lval.toNat = 255 * 2 ^ 19 + 26111 * 16 ∧
      (s 2 0).ccore.ownsTile 2 = false ∧ (s 2 0).ccore.enrolledOutside 0 2 (coreKey 255 26111) = false ∧ depthOf (s 2 0).cctx.gtid = 0 ∧
      (head { routine := some default }).ccore.head.routine.isSome = true ∧ (head {}).strict 0 0 = false ∧
      (head { handler := true }).ccore.head.handler = true ∧ (head {}).ccore.head.routine = none ∧ (head {}).ccore.head.handler = false ∧
      2 ^ 27 ≤ (s 2 0x8000000).lval.toNat ∧ (s 2 1).lval.toNat % 16 ≠ 0 ∧ 26112 ≤ (s 2 0x66000).lval.toNat / 16 % 2 ^ 15 ∧
      tiled.ccore.ownsTile 2 = true ∧ tiled.lval.toNat / 16 % 2 ^ 15 < 26112 ∧ enrolled.ccore.ownsTile 2 = false ∧
      enrolled.ccore.enrolledOutside 0 2 (coreKey 0 26111) = true ∧ tiled.offScalar .always = false ∧ enrolled.offScalar .always = false := by
  decide

theorem witness_ThreadExits_strict : let s := strictly (core0 (fun k => { k with head := { routine := some default }, lid := some 1 })
      (stand 0 (.scalar 0) (.scalar 0) (.scalar 1)))
    s.offScalar .always = false ∧ s.cur.ctx = 0 ∧ s.ccore.head.routine.isSome = true ∧ s.strict s.cur.core 0 = true := by decide

theorem witness_NullOperandsFireNull : nullL.offScalar .always = true ∧ laneWise (.vbcast .always .i32 0 1) = true ∧
    nullL.nullScalar (.vbcast .always .i32 0 1) = true ∧ (Instr.add .always .w32 0 1).nbits ≠ 0 ∧ laneWise (.add .always .w32 0 1) = false ∧
    (Instr.add .always .w32 0 1).wf = true ∧ (Instr.vbcast .always .i32 0 1).wf = true ∧ (Instr.nullh .always 1).wf = true ∧ (stand 2 (.scalar 1) (.scalar 1) (.scalar 0)).offScalar .onTrue = true := by decide

theorem witness_VectorIntegerAndBitResults : (vecs 1 (-1) 0xFFFFFFFF (.scalar 1)).offVector .always = false ∧ Fmt.i8 ∈ intFormats ∧
    (stand 2 (.vector 1 1) (.scalar 32) (.scalar 1)).offVector .always = false ∧ (2 : BitVec 2).toNat < 3 := by decide

theorem witness_VectorMoveResults : let s := stand 2 (.vector 1 0x80000001) (.scalar 31) (.scalar 1)
    s.nullScalar (.vslide .always false true 0 1) = false ∧ s.nullScalar (.vins .i32 0 1) = false ∧ s.nullScalar (.vextr .always .i8 0 1) = false ∧
    Fmt.i8 ∈ intFormats ++ floatFormats ∧ (vecs 1 31 0xFFFFFFFF (.scalar 1)).nullScalar (.vperm .always 0 1) = false ∧
    (scal 1 0).nullScalar (.vbcast .always .i8 0 1) = false := by decide

theorem witness_VectorFloatResults : (vecs 0x3F800000 0x7F800000 1 (.vector 0x7FC00000 1)).offVector .always = false ∧
    (∀ f ∈ floatFormats, f ∈ [Fmt.f32, .bf16, .f16]) := by decide

theorem witness_FloatSpecialsAndRounding : Fmt.f16 ∈ floatFormats ∧ (unpack .f16 0x7E00).isNan = true ∧
    2 * 5 + 2 ^ 1 = 2 * (roundNat false 5 1 false 0).1 * 2 ^ 1 + 0 * 2 ∨ 2 * 5 = 2 * (roundNat false 5 1 false 0).1 * 2 ^ 1 + 2 ^ 1 := by decide

/-- One valid lane, the last; and none. -/
theorem witness_VectorCompareAndReduce : let s (m : W32) := vecs 1 2 m (.scalar 1)
    (s 0x80000000).offVector .always = false ∧ (s 0).offVector .always = false ∧ Fmt.f32 ∈ floatFormats ∧ Fmt.i32 ∈ intFormats ∧
      ((s 0x80000000).laneIn .always 31 && (s 0x80000000).lok 31) = true ∧
      (∀ k, k < 32 → ((s 0).laneIn .always k && (s 0).lok k) = false) := by decide

theorem witness_VectorConvertResults : let s := stand 2 (.vector 0x3F800000 0xFFFFFFFF) (.scalar 0) (.scalar 0)
    s.nullScalar (.vcvt .always .i8 .f32 0 1) = false ∧ s.nullScalar (.qbfx .always true 0 1) = false ∧ s.nullScalar (.dqbfx .always false 0 1) = false ∧
    s.nullScalar (.vqshr 0 1) = false ∧ (stand 2 (.vector 1 0) (.scalar 1) (.scalar 0)).nullScalar (.vqshr 0 1) = false ∧ Fmt.f32 ∈ intFormats ++ floatFormats ∧
    Fmt.i8 ∈ intFormats ++ floatFormats ∧ Fmt.f32 ≠ .i8 := by decide

/-- A leading and a trailing context of a pair, whose leading context has passed on a value. -/
def paired (x : Nat) : State := ctx0 2 (fun t => { t with pair := true, lvq := [(0, .scalar 5)] })
  (ctx0 3 (fun t => { t with pair := true }) (stand x (.scalar 0) (.scalar 0) (.scalar 1)))

theorem witness_ReadsOfStateAndQueues : let s (l : W64) := scal l 0
    let comm := core0 (fun k => { k with linkIn := [(3, [⟨false, 0, 9⟩])] }) (stand 1 (.scalar 0) (.scalar 0) (.scalar 1))
    let mail := ctx0 2 (fun t => { t with mbox := [9] }) (s 0)
    let st := strictly (ctx0 2 (fun t => { t with gtid := 0x1000000000000 }) (s 0))
    (s 7).offScalar .always = false ∧ (s 7).trails = false ∧ (s 7).strict 0 2 = false ∧ (s 0x160).lval.toNat = 0x160 ∧
      (s 0x205FF).lval.toNat = 0x10000 + 0x105FF ∧ barOk 0x50F = true ∧ barOk 0x510 = false ∧ (s 0x10510).lval.toNat = 0x10000 + 0x510 ∧
      (s 0x2F).lval.toNat < 0x030 ∧ st.strict 0 2 = true ∧ st.offScalar .always = false ∧
      comm.cctx.blk.isSome = true ∧ comm.trails = false ∧ comm.offScalar .always = false ∧
      ((comm.ccore.linkIn.get [] 3).map (·.word))[comm.cblk.taken.get 0 3]? = some 9 ∧ mail.cctx.mbox[mail.cblk.taken.get 0 4]? = some 9 ∧
      (Instr.rcnt .always 1).passesValue = true ∧ (paired 3).trails = true ∧ (paired 3).offScalar .always = false ∧
      (Instr.rcnt .always 1).popQueue? = none ∧ (paired 3).strict 0 3 = false ∧
      (((paired 3).ctx 0 (leader 3)).lvq.find? fun e => e.1 == 0) = some (0, .scalar 5) := by decide

theorem witness_RecordedEffectsAndControlWrites : (scal 0x140 0).offScalar .always = false ∧ (scal 0x30 0).lval.toNat = 0x030 ∧
    (scal 0x803F 0).lval.toNat = 0x803F ∧ (scal 0x8160 0).lval.toNat - 0x8000 = 0x160 ∧ (scal 0x2F 0).lval.toNat < 0x030 ∧
    (scal 0x43 0).lval.toNat = 0x043 ∧ ((scal 0 0).core 0).delayed = [] := by decide

/-- Words at the edges of what MARK, SEND and STRM take. -/
theorem witness_MessageAndBarrierInstructions : let s (l : W64) := scal l 0
    (s 63).offScalar .always = false ∧ (s 63).lval.toNat < 64 ∧ (s 0x30).lval.toNat / 16 % 4 = 3 ∧ (s 0x2F).lval.toNat / 16 % 4 ≠ 3 ∧
      (stand 1 (.scalar 0) (.scalar 0) (.scalar 1)).cur.ctx = 1 ∧ (s 0).strict 0 2 = false ∧
      (s 0x7FE5FFF).lval.toNat = 255 * 2 ^ 19 + 26111 * 16 + 15 ∧ 2 ^ 27 ≤ (s 0x8000000).lval.toNat ∧
      26112 ≤ (s 0x66001).lval.toNat / 16 % 2 ^ 15 ∧ (s 0x10).lval.toNat % 16 = 0 := by decide

theorem witness_TileInstructions : let s (l : W64) := core0 (fun k => { k with tom := 0x2 }) (scal l 0)
    (s 0x5FFE0).offScalar .always = false ∧ (s 0x5FFE0).lval.toNat % 32 = 0 ∧ (s 0x5FFE0).lval.toNat < 0x60000 ∧
      0x60000 ≤ (s 0x60000).lval.toNat ∧ (s 0x5FFFF).lval.toNat % 32 ≠ 0 ∧ (s 0).ccore.tom.toNat / 16 ^ 0 % 16 = 2 := by decide

/-- A leaf of core 0's own PRIV page, writable. -/
def own : Leaf := { cls := .priv, wr := true, frame := 5 }

/-- A window of 16 bytes at the end of local memory. -/
def windowed (s : State) : State := ctx0 2 (fun t => { t with cwb0 := 0x5FFF0, cwl0 := 16 }) s

theorem witness_Loads : let s (l : W64) := scal l 0
    let v := stand 2 (.scalar 0x5FF80) (.vector 0 0xFFFFFFFF) (.scalar 1)
    let g := mapped 0x100000 own (s 0x100000)
    let p (k : PageClass) := mapped 0x100000 { own with cls := k } (s 0x100000)
    (s 0x5FFF8).offScalar .always = false ∧ (s 0x5FFF8).trails = false ∧ (s 0x5FFF8).lval.toNat + 8 ≤ 0x60000 ∧
      (windowed (s 8)).cctx.window 0 = (0x5FFF0, 16) ∧ 0x5FFF0 + 16 ≤ 0x60000 ∧ v.nullScalar (.vld .always 0 1 false 0 0) = false ∧ v.nullScalar (.vld .always 0 2 true 0 0) = false ∧ v.trails = false ∧ v.laneMask .always ≠ 0 ∧
      (∀ k, k < 32 → laneAddr 0 v.lval.toNat v.rval 0 k % 4 = 0 ∧ laneAddr 0 v.lval.toNat v.rval 0 k + 4 ≤ 0x60000) ∧
      g.leaf? 0 0 0 0x100000 = some own ∧ g.offScalar .always = false ∧ own.owner = g.cur.core ∧ g.cblk.loads = [] ∧
      (p .code).leaf? 0 0 0 0x100000 = some { own with cls := .code } ∧ (p .hostm).leaf? 0 0 0 0x100000 = some { own with cls := .hostm } ∧
      (p .hostm).strict 0 2 = false := by decide

theorem witness_Stores : let s (l : W64) := scal l 7
    let v (p : Tok) := stand 2 (.scalar 0x5FF80) (.vector 0 0xFFFFFFFF) p
    let g := mapped 0x100000 own (s 0x100000)
    let p (k : PageClass) := mapped 0x100000 { own with cls := k } (s 0x100000)
    let gv := mapped 0x100000 own (stand 2 (.scalar 0x100000) (.vector 0 0xFFFFFFFF) (.scalar 1))
    (s 0x5FFFF).offScalar .always = false ∧ (s 0x5FFFF).lval.toNat + 1 ≤ 0x60000 ∧ (windowed (s 8)).cctx.window 0 = (0x5FFF0, 16) ∧
      g.leaf? 0 0 0 0x100000 = some own ∧ (p .hostm).leaf? 0 0 0 0x100000 = some { own with cls := .hostm } ∧
      (v (.scalar 1)).nullScalar (.vst .ternary 0 1 false 0) = false ∧ (v (.vector 0 1)).nullScalar (.vst .ternary 0 2 true 0) = false ∧
      (∀ k, k < 32 → laneAddr 0 0x5FF80 1 0 k % 4 = 0 ∧ laneAddr 0 0x5FF80 1 0 k + 4 ≤ 0x60000) ∧
      gv.leaf? 0 0 0 0x100000 = some own ∧ gv.nullScalar (.vst .always 0 0 false 0) = false ∧ gv.lval.toNat % 128 = 0 ∧ own.owner = gv.cur.core := by decide

theorem witness_MemoryAccessExceptions : let s (l : W64) := scal l 0
    let p (l : Leaf) := mapped 0x100000 l (s 0x100000)
    let away : Leaf := { own with ocore := 1 }
    (s 0x5FFFC).offScalar .always = false ∧ (s 0x5FFFC).trails = false ∧ 0x60000 < 0x5FFFC + 8 ∧ 0xFFFFF < 0x100000 ∧
      2 ^ 48 ≤ (s 0x1000000000000).lval.toNat ∧ (s 0x5FFFE).lval.toNat + 2 ≤ 0x60000 ∧ (s 1).lval.toNat % 2 ≠ 0 ∧
      ((s 0).cctx.window 1).2 = 0 ∧ (windowed (s 1)).cctx.window 0 = (0x5FFF0, 16) ∧
      (p { own with isAlias := true }).leaf? 0 0 0 0x100000 = some { own with isAlias := true } ∧
      (p { own with cls := .sched }).leaf? 0 0 0 0x100000 = some { own with cls := .sched } ∧
      (p { own with wr := false }).leaf? 0 0 0 0x100000 = some { own with wr := false } ∧
      (strictly (ctx0 2 (fun t => { t with gtid := 0x1000000000000 }) (p { own with cls := .hostm }))).strict 0 2 = true ∧
      (p away).leaf? 0 0 0 0x100000 = some away ∧ away.owner ≠ (p away).cur.core ∧ (p away).cctx.pair = false ∧ (p away).cctx.pend = none ∧ (p away).cur.ctx ≠ 0 ∧ (p away).cblk.hdr % 2 = 0 ∧
      (p away).cblk.highPrologue = false ∧ (p away).ccore.ownsTile 2 = false ∧ (p away).ccore.enrolledOutside 0 2 away.owner = false ∧
      (s 0x100000).leaf? 0 0 0 0x100000 = none ∧ (s 0x100000).cctx.blk.isSome = true := by decide

/-- A writable LAT page of a type. -/
def lat (ty : LType) (w : Nat) : Leaf := { cls := .lat, lat := { ty := ty, width := w }, wr := true, frame := 5 }

theorem witness_LatticeInstructionsAndExactReads : let s (l : Leaf) (r : Tok) := mapped 0x100000 l (stand 2 (.scalar 0x100000) r (.scalar 1))
    let at_ (l : Leaf) (s : State) : Bool := decide (s.leaf? 0 0 0 0x100000 = some l) && !s.offScalar .always && !s.nullScalar (.vjoin .always 0 2 true 0) && !s.trails
    let sched : Leaf := { cls := .sched, wr := true, frame := 5 }
    let two := mapped 0x110000 (lat .max 2) (s (lat .max 2) (.scalar 2))
    let three := mapped 0x120000 (lat .max 2) (s (lat .max 2) (.scalar 3))
    at_ (lat .max 2) (s (lat .max 2) (.scalar 0xFFFFFFFF)) = true ∧ (0xFFFFFFFF : W64).toNat < 2 ^ 32 ∧ 0x100000 % 128 = 0 ∧
      at_ (lat .sum 3) (s (lat .sum 3) (.vector 1 3)) = true ∧ at_ (lat .fill 0) (s (lat .fill 0) (.scalar 1)) = true ∧
      at_ (lat .once 0) (ctx0 2 (·.setOx 1 1) (s (lat .once 0) (.scalar 0))) = true ∧
      ((ctx0 2 (·.setOx 1 1) (s (lat .once 0) (.scalar 0))).cctx.oxReg 1).st = .full ∧ [(0 : W64), 1].Nodup ∧
      at_ sched (s sched (.scalar 0)) = true ∧ (s sched (.scalar 0)).offScalar .ternary = false ∧ (s sched (.scalar 0)).strict 0 2 = false ∧
      256 < (257 : W64).toNat ∧ (s (lat .max 2) (.scalar 256)).rval.toNat ≤ 256 ∧ at_ (lat .max 2) two = true ∧ two.rval.toNat = 2 ∧
      (two.touchTlb 0 0 0 0x100000).leaf? 0 0 0 0x110000 = some (lat .max 2) ∧ two.lval.toNat % 65536 = 0 ∧
      (two.pageKnown 0x100000).isSome = true ∧ (two.pageKnown 0x110000).isSome = true ∧ three.rval.toNat = 3 ∧
      [0x100000, 0x110000, 0x120000].find? (fun p => (three.pageKnown p).isNone) = some 0x110000 ∧ three.cur.slot < three.cblk.slots.length ∧
      at_ { own with cls := .code } (s { own with cls := .code } (.scalar 1)) = true ∧
      (stand 2 (.scalar 0x100000) (.scalar 0) (.scalar 0xFF)).laneMask .onTrue = 0xFF := by decide

theorem witness_TaskAndDelegationInstructions : let s (l r : W64) := mapped 0x100000 own (scal l r)
    let area (r : Nat) (v : W64) := ctx0 2 (·.setOx r v) (s 0x100008 0)
    let child := ctx0 2 (fun t => { t with gtid := 0x0001010000000000 }) (area 6 0x1FFE000000100000)
    let args := ctx0 2 (fun t => (List.range 4).foldl (fun t r => t.setOx r 1) t) (s 0x5FFFF 8)
    (area 7 0x1FFE000000100000).leaf? 0 0 0 0x100000 = some own ∧ own.owner = 0 ∧ ((area 7 0x100000).cctx.oxReg 7).st = .full ∧
      (0x1FFE000000100000 : W64).toNat % 2 ^ 48 = 0x100000 ∧ (0x100000 + 8 + 8 * 0x1FFE) / 65536 = 0x100000 / 65536 ∧
      (area 7 0x100000).offScalar .always = false ∧ (area 7 0x100000).cctx.gtid.toNat / 2 ^ 40 % 256 ≠ 255 ∧
      (area 7 0x100000).lval.toNat % 8 = 0 ∧ child.cctx.gtid.toNat / 2 ^ 40 % 256 ≠ 0 ∧ (child.cctx.oxReg 6).st = .full ∧ child.cblk.exit = none ∧
      child.leaf? 0 0 0 0x100000 = some own ∧ (∀ r, r < 4 → (args.cctx.oxReg r).st = .full) ∧ args.rval.toNat % 8 = 0 ∧ args.lval.toNat < 0x60000 ∧
      args.strict 0 2 = false ∧ args.offScalar .always = false ∧ (s 0 1).rval.toNat % 8 ≠ 0 ∧ ((s 0 0).cctx.oxReg 0).st = .invalid ∧
      (s 0 0).cur.ctx ≠ 0 ∧ (s 0 0).offScalar .always = false ∧
      (core0 (fun k => { k with head := { routine := some default } }) (stand 0 (.scalar 0) (.scalar 0) (.scalar 1))).ccore.head.routine.isSome = true := by
  decide

/-- The head context with scalar operands, outside any routine. -/
def headed (l r : W64) : State := stand 0 (.scalar l) (.scalar r) (.scalar 1)

theorem witness_HeadInstructions :
    let full (l : W64) (ws : List W64) := ctx0 0 (fun t => (List.range 4).foldl (fun t r => t.setOx r (ws.getD r 0)) t) (headed l 0)
    let s := mapped 0x100400 own (headed 31 0x100400)
    let handler := core0 (fun k => { k with head := { handler := true } }) (headed 0 0)
    (headed 15 0).offScalar .always = false ∧ (headed 15 0).cur.ctx = 0 ∧ (headed 15 0).ccore.head.routine = none ∧
      (headed 0 0).lval.toNat = 0 ∧ (headed 1 0).lval.toNat = 1 ∧ handler.ccore.head.handler = true ∧ handler.cblk.exit = none ∧
      (headed 17 0).lval.toNat = 17 ∧ s.leaf? 0 0 0 0x100400 = some own ∧ s.rval.toNat % 1024 = 0 ∧ s.lval.toNat < 32 ∧
      (headed 0x8000000000000FFF 0).lval.toNat / 2 ^ 62 ≠ 3 ∧ (headed 0x8000000000000FFF 0).lval.toNat / 4096 % 2 ^ 50 = 0 ∧
      (headed 4095 0).lval.toNat < 4096 ∧ (full 0x0600000000000000 []).lval.toNat = 6 * 2 ^ 56 + 0 ∧
      (∀ r, r < 4 → ((full 0 []).cctx.oxReg r).st = .full) ∧
      (full 0x0300000000000000 [0x21EFC0000]).lval.toNat = 3 * 2 ^ 56 ∧
      ((0x21EFC0000 : Nat) / 2 ^ 18 % 256 ≤ 191 ∧ 0x21EFC0000 / 2 ^ 26 % 256 ≤ 135) := by
  decide

/-- Every hypothesis that names the event being taken is met by `taking`, whatever else the state holds. -/
theorem taking_ev (e : Event) (s : State) : (taking e s).ev = e := rfl

theorem witness_MessagesTravel : let m : NetMsg := .send { src := 0, sctx := 2, dst := 1, dctx := 2, lid := 0, word := 1 }
    let shut := core0 (fun k => { k with tails := [(1, 7)] }) (State.reset.modCore 1 fun k => { k with fenced := true })
    m.cls = 2 ∧ pkgOf 0 = pkgOf m.target ∧ m.event.isSome = true ∧ (shut.core m.target).fenced = true ∧ (shut.core 0).tails.get? 1 = some 7 ∧
      (State.reset.core 0).tails.get? 1 = none ∧ (State.reset.core 1).fenced = false ∧
      (NetMsg.accept ⟨26111, 2, 9, 0, 0, 0, none⟩ .ctx).cls ≠ 2 ∧ pkgOf 0 = pkgOf (NetMsg.accept ⟨26111, 2, 9, 0, 0, 0, none⟩ .ctx).target ∧
      (NetMsg.accept ⟨26111, 2, 9, 0, 0, 0, none⟩ .ctx).event.isSome = true ∧ pkgOf 0 = pkgOf (NetMsg.req 1535 { kind := .join, pa := 0 }).target := by
  decide

/-- Messages of both kinds for another package, with a way and without. -/
theorem witness_MessagesTravel_pods : let m : NetMsg := .send { src := 0, sctx := 2, dst := 32768, dctx := 2, lid := 0, word := 0 }
    let r : NetMsg := .req 2053 { kind := .join, pa := 2 ^ 44 + 0x50000, who := [⟨0, 2, 9, 0, 0, 0, none⟩] }
    let s := State.reset.modPkg 0 fun k => { k with portmap := [(1, 0x20)] }
    pkgOf 0 ≠ pkgOf m.target ∧ pkgOf 0 ≠ pkgOf r.target ∧ m.cls = 2 ∧ r.cls ≠ 2 ∧ ((s.pkg 0).portmap.get 0 1).getLsbD 5 = true ∧
      ((State.reset.pkg 0).portmap.get 0 1).getLsbD 5 = false := by decide

theorem witness_DelayedWritesAndRotationEnd : let s := taking (.hbiWrite 0 1) (ctx0 2 (fun t => { t with hb := 256 }) (scal 0 0))
    s.ev = .hbiWrite 0 1 ∧ (∃ e ∈ (s.core 0).ctxs, (1 : W32).toNat * 256 ≤ e.2.hb) ∧ s.cores.wf = true ∧ (0, s.core 0) ∈ s.cores := by decide

/-- A context whose fetch of the block at `a` begins now. -/
def fetching (a : Nat) : State := taking (.blockFetch 0 2) (ctx0 2 (fun t => { t with blk := none, fetch := some { addr := a, begins := 0 } }) (scal 0 0))

/-- The same with the page of `a` in the buffer and the line of `a` in the block cache, its header `h` and body zero. -/
def cached (a h : Nat) : State := mapped a { own with cls := .code } (core0 (fun k =>
  { k with bcache := [⟨0, 0, a, leBytes h 4 ++ List.replicate 60 0⟩] }) (fetching a))

theorem witness_BlockFetch :
    let brk (act : Nat) := (fetching 0x100000).modPkg 0 fun k => { k with bkpts := [(0, { v := true, any := true, act := act, blk := 0x100000 })] }
    let launch (s : State) := s.modPkg 0 fun k => { k with runs := [{ run0 with rc := { run0.rc with lid := 0 } }] }
    ((fetching 8).ctx 0 2).fetch = some { addr := 8 } ∧ (brk 1).bkptMatch 0 2 0x100000 = some 1 ∧ (brk 1).runOf 0 2 = none ∧
      (launch (brk 1)).runOf 0 2 = some { run0 with rc := { run0.rc with lid := 0 } } ∧ (fetching 8).bkptMatch 0 2 8 = none ∧ (7 : Nat) % 8 ≠ 0 ∧
      0x5FFF8 < 0x60000 ∧
      (fetching 0x100000).leaf? 0 0 0 0x100000 = none ∧ (cached 0x100000 0).leaf? 0 0 0 0x100000 = some { own with cls := .code } ∧
      (mapped 0x100000 own (fetching 0x100000)).leaf? 0 0 0 0x100000 = some own ∧ lineBytes [] 0 0 0x100000 8 = none ∧
      lineBytes ((cached 0x100000 0).core 0).bcache 0 0 0x100000 8 = some 0 ∧ headerOk 0 = false := by decide

/-- A header that is right, and a body of one word that is no instruction; the same of one branch. -/
theorem witness_BlockFetch_body : let lines (w : Nat) : List CacheLine := [⟨0, 0, 0x100000, leBytes 0xFF00000E 4 ++ leBytes 0 4 ++ leBytes w 4 ++ List.replicate 52 0⟩]
    (headerOk 0xFF00000E = true ∧ lineBytes (lines 0) 0 0 0x100000 8 = some 0xFF00000E) ∧
      (match parseBody (lines 0xFFFFFFFF) 0 0 0x100000 16385 0x100008 1 [] with | .bad k => k == .illeg || k == .blkfmt | _ => false) = true ∧
      (match parseBody (lines 0x85000004) 0 0 0x100000 16385 0x100008 1 [] with | .ok ks _ => ks.length == 1 | _ => false) = true := by decide

theorem witness_FillsAndWalks : let s := taking (.translationWalk 0 2 0 0 0 0x100000 (some 0)) (scal 0 0)
    s.ev = .translationWalk 0 2 0 0 0 0x100000 (some 0) ∧ (2 : Nat) ≠ 16 ∧ (s.ctx 0 2).serial = 0 ∧ (s.ctx 0 2).serial ≠ 1 := by decide

/-- A load of one part, and of two, in progress. -/
def loading (parts : Nat) : State := (scal 0 0).modBlock 0 2 fun b => { b with loads := [{ slot := 0, targets := [1], parts := parts }] }

theorem witness_ResponsesReachTheirContexts :
    let s := taking (.producerCompletion 0 2 .gr 5 0 true 9) (ctx0 2 (fun t => { t with prods := [⟨9, .gr, 5, .waitt, none⟩], outs := [(9, false)] }) (scal 0 0))
    ((loading 1).cblk.loads.find? (fun q => q.slot == 0)).map (·.parts) = some 1 ∧
      ((loading 2).cblk.loads.find? (fun q => q.slot == 0)).map (·.parts) = some 2 ∧
      isService 0 = false ∧ isService 26112 = true ∧ ((loading 1).ctx 0 2).serial = 0 ∧
      ((s.ctx 0 2).prods.any fun p => p.id == 9) = true ∧
      (((scal 0 0).ctx 0 2).prods.any fun p => p.id == 9) = false ∧ (((scal 0 0).ctx 0 2).outs.any fun o => o.1 == 9) = false ∧
      ((scal 0 0).core 0).held = [] := by decide

theorem witness_DeferredFaultsAndPrivateStores : let u (f : Ctx → Ctx) := (ctx0 2 f (scal 0 0)).ctx 0 2
    let e : PsbEntry := ⟨1, 0x50000, 0, 0, 0, [], false⟩
    ({ cause := .xlat } : TrapRec).cause ≠ .uecc ∧ (u id).pair = false ∧ (u id).prods = [] ∧ ((scal 0 0).core 0).held = [] ∧
      (u id).standing = .active ∧ (u fun t => { t with st := .latched }).standing = .latched ∧
      (u fun t => { t with st := .departing, depart := some ⟨1, 0, true, [], false, false, 0⟩ }).standing = .departing ∧
      (u fun t => { t with st := .switched, saved := .exiting }).standing = .exiting ∧ (u fun t => { t with st := .vacant }).standing = .vacant ∧
      ((u fun t => { t with prods := [⟨9, .gr, 5, .dcall, none⟩] }).prods.find? fun p => p.id == 9) = some ⟨9, .gr, 5, .dcall, none⟩ ∧
      ((core0 (fun k => { k with psb := [e] }) (scal 0 0)).core 0).psb.find? (fun e => !e.draining) = some e := by decide

theorem witness_TrapQueueAndHeadContext : let s (f : Core → Core) := core0 f (headed 0 0)
    let free := ctx0 0 (fun t => { t with blk := none }) (headed 0 0)
    let latched := core0 (fun k => { k with ctxs := [(2, { st := .latched, latch := some ⟨{}, 0, false⟩ })] }) (headed 0 0)
    16 ≤ ((s fun k => { k with trapq := List.replicate 16 {} }).core 0).trapq.length ∧
      ((s fun k => { k with trapq := List.replicate 15 {}, trapWait := [{}] }).core 0).trapWait = [{}] ∧ (latched.core 0).ctxs.wf = true ∧
      ((latched.core 0).ctx 2).latch = some ⟨{}, 0, false⟩ ∧ free.headFree 0 = true ∧ (headed 0 0).headFree 0 = false ∧ free.stopped 0 = false ∧
      ((core0 (fun k => { k with tvec := 8, trapq := [{}] }) free).core 0).tvec ≠ 0 ∧
      ((core0 (fun k => { k with delq := [default] }) free).core 0).delq = [default] ∧
      ((core0 (fun k => { k with head := { retBlk := some 8 } }) free).core 0).head.retBlk = some 8 := by decide

/-- A spawn entry, and a core whose queue holds it. -/
def child : Spawn := { gtid := 0x0001010000000000, entry := 0x100000, arg := 1, ordw := 2, asid := 0, gen := 0 }
def spawned : State := taking (.taskAdmission 0) (State.reset.modCore 0 fun k => { k with spawnq := [child] })

theorem witness_SpawnsAndAdmission :
    let launched := State.reset.modPkg 0 fun k => { k with runs := [{ run0 with rc := { run0.rc with centry := 8 } }] }
    let comm := launched.modCore 0 fun k => { k with lid := some 1, head := { commReq := some (1, 0) } }
    isService child.fromCore = false ∧ spawned.stopped 0 = false ∧ (spawned.core 0).fenced = false ∧ (spawned.core 0).head.commReq = none ∧
      ((spawned.core 0).spawnq.find? ((spawned.core 0).spawnFits 2)) = some child ∧ (spawned.core 0).contFits 2 = false ∧
      (∀ y, y < 2 → (spawned.core 0).spawnq.any ((spawned.core 0).spawnFits y) = false) ∧ spawned.admits 0 = true ∧
      (spawned.modDie 0 fun d => { d with erem := -1 }).admits 0 = false ∧
      (spawned.modCore 0 fun k => { k with fenced := true }).core 0 ≠ spawned.core 0 ∧ (comm.core 0).head.commReq = some (1, 0) ∧
      (comm.ctx 0 1).st = .vacant ∧ (comm.runOf 0 0).isSome = true ∧ ((comm.runOf 0 0).map (·.rc.centry)) = some 8 ∧ (comm.core 0).spawnq = [] ∧
      ([((0 : Nat), child, true)].any fun e => e.2.2 && e.2.1.gtid == child.gtid) = true := by decide

theorem witness_SendsAndDelegations : let m : SendMsg := { src := 0, sctx := 2, dst := 0, dctx := 2, lid := 0, word := 1 }
    let d : DelegMsg := { call := true, src := 0, sctx := 2, dst := 0, reg := 5, routine := 8, asid := 0, gen := 0, gtid := 0, addr := 0, args := [] }
    let known := State.reset.modPkg 0 fun k => { k with runs := [{ run0 with rc := { run0.rc with lid := 0 } }] }
    let u (f : Ctx → Ctx) := (ctx0 2 f (scal 0 0)).ctx 0 2
    let behind (e : Nat × Nat × Nat × Nat) : Bool := e.1 == m.src && e.2.1 == m.sctx && e.2.2.1 == m.dctx && decide (e.2.2.2 < { m with ord := 1 }.ord)
    let older := { m with ord := 1 }
    [((0 : Nat), (2 : Nat), (2 : Nat), (0 : Nat))].any behind = true ∧ [((0 : Nat), (2 : Nat), (2 : Nat), (1 : Nat))].any behind = false ∧
      ((scal 0 0).core 0).refused.any behind = false ∧ (u id).sends = [] ∧ (u id).delegs = [] ∧
      ([(older, true), (m, true)].find? fun q => q.1.dst == m.dst && q.1.dctx == m.dctx) ≠ some (m, true) ∧
      ([(m, true), (older, true)].find? fun q => q.1.dst == m.dst && q.1.dctx == m.dctx) = some (m, true) ∧
      ([(d, true)].find? fun q => q.1.dst == d.dst) = some (d, true) ∧ isService 0 = false ∧
    ((scal 0 0).core 0).fenced = false ∧ (u id).st ≠ .vacant ∧ (u id).gtid.toNat / 2 ^ 48 = m.lid ∧
      8 ≤ (u fun t => { t with mbox := List.replicate 8 0 }).mbox.length ∧ (u fun t => { t with mbox := List.replicate 7 0 }).mbox.length < 8 ∧
      { m with tries := 14 }.tries < 15 ∧ 15 ≤ { m with tries := 15 }.tries ∧ (u id).standing = .active ∧ (u id).pend = none ∧ (u id).gtid = m.gtid ∧
      (m, true) ∈ (u fun t => { t with sends := [(m, true)] }).sends ∧ ((known.pkg 0).run? (d.gtid.toNat / 2 ^ 48)).isSome = true ∧
      (State.reset.pkg 0).run? 0 = none ∧ (d, true) ∈ (u fun t => { t with delegs := [(d, true)] }).delegs ∧ (u id).gtid = d.gtid ∧
      (∃ p ∈ (u fun t => { t with prods := [⟨9, .gr, 5, .dcall, none⟩] }).prods, p.kind = .dcall ∧ p.file = .gr ∧ p.reg = d.reg) := by decide

theorem witness_ContinuationsAndExitMessages : let d : Depart := ⟨1, 8, true, [], false, false, 0⟩
    let k : Cont := { gtid := 0, blk := 8, asid := 0, gen := 0, dst := 0, src := 1, sctx := 2 }
    let s := ctx0 2 (fun t => { t with st := .departing, depart := some d }) (scal 0 0)
    let arrived := State.reset.modCore 0 fun q => { q with arrq := [k] }
    let ex := ctx0 2 (fun t => { t with st := .exiting, exitMsg := some { value := 1, slotPa := 0x50008, countPa := 0x50000, dst := 1 } }) (scal 0 0)
    ((s.team 0 2).all fun y => (s.ctx 0 y).settled) = true ∧ s.imagesAgree 0 2 d = true ∧ (s.ctx 0 2).depart = some d ∧ (s.ctx 0 2).pair = false ∧
      (s.ctx 0 2).st = .departing ∧ k.gen = (State.reset.pkg 0).gens.get 0 k.asid ∧ arrived.stopped 0 = false ∧
      (arrived.core 0).arrq.find? (fun k => ((arrived.core 0).placeFor k.pair).isSome) = some k ∧ (arrived.core 0).placeFor k.pair = some 2 ∧
      { d with tries := 14 }.tries < 15 ∧ 15 ≤ { d with tries := 15 }.tries ∧ { d with waiting := true }.waiting = true ∧ arrived.agenda = [] ∧
      ({ value := 1, slotPa := 0x50008, countPa := 0x50000, dst := 1 } : ExitMsg).taken = false ∧ (State.reset.core 1).fenced = false ∧
      ((State.reset.modCore 1 fun k => { k with fenced := true }).core 1).fenced = true ∧ (ex.core 0).tails.get? 1 = none ∧
      (ex.ctx 0 2).st = .exiting ∧ (ex.ctx 0 2).outs = [] ∧ (ex.ctx 0 2).exitAt ≤ ex.now ∧ (ex.ctx 0 2).pair = false ∧ (ex.core 0).psb = [] ∧
      0x50008 % 8 = 0 ∧ (0x50008 : Nat) ≠ 0x50000 ∧ (∀ e ∈ (ex.core 0).ctxs, e.2.pair = false) := by decide

theorem witness_ContinuationsAndExitMessages_merge : let t := (ctx0 2 (fun t => { t with prods := [⟨9, .gr, 5, .waitt, none⟩], merges := [⟨9, 0x50000, 1⟩] }) (scal 0 0)).ctx 0 2
    t.merges = [⟨9, 0x50000, 1⟩] ∧ t.prods = [⟨9, .gr, 5, .waitt, none⟩] ∧ (5 : Nat) ≠ 0 := by decide

/-- A request of core 0 for the location at `pa`, at the end of its service. -/
def asked (kind : ReqKind) (pa : Nat) : Req :=
  { kind := kind, pa := pa, lat := { ty := .max, width := 2 }, serving := true, who := [⟨0, 2, 9, 0, 0, 0, none⟩], n := 8 }

/-- A device whose frame at 0x50000 is a LAT frame of a type and width, frozen or not. -/
def framed (ty : LType) (w : Nat) (frozen : Bool) : State :=
  { State.reset with frames := [(5, ⟨some { ty := ty, width := w }, frozen⟩)] }

theorem witness_JoinsAndFills : let s := framed .max 2 true
    let r := { asked .join 0x50000 with val := 0xFFFFFFFF }
    let f := { asked .fill 0x50000 with lat := { ty := .fill }, bytes := List.replicate 8 (some 1) }
    homeOf 0x50000 = 5 ∧ 5 < 2 ^ 19 ∧ 5 % 2048 < 1536 ∧ r.serving = true ∧ r.queued = false ∧ (s.xtal 5).frameWait.get [] 5 = [] ∧
      (s.xtal 5).frameBusy.get 0 5 ≤ s.now ∧ s.rejects 5 r = none ∧ s.rejects 5 { r with gen := 1 } = some .stalegen ∧
      (framed .min 2 false).rejects 5 r = some .stalegen ∧ r.ret = .ctx ∧ r.lat.width < 4 ∧ r.val < 2 ^ (8 * 2 ^ 2) ∧ s.readN 0x50000 4 ≠ r.val ∧
      (s.frame 0x50000).frozen = true ∧ (framed .fill 0 false).rejects 5 f = none ∧ f.pa % 4 = 0 ∧ f.bytes.length % 4 = 0 ∧
      f.units = [(0x50000, [1, 1, 1, 1]), (0x50004, [1, 1, 1, 1])] ∧
      (f.units.filter fun u => (framed .fill 0 false).unitHere u.1 && (framed .fill 0 false).readMem u.1 4 != u.2) = [] := by decide

/-- A FILL unit that has arrived with other bytes. -/
theorem witness_JoinsAndFills_differs : let s := { framed .fill 0 false with arrived := [(0x14000, ())] }
    let f := { asked .fill 0x50000 with lat := { ty := .fill }, bytes := List.replicate 4 (some 1) }
    s.rejects 5 f = none ∧ (f.units.filter fun u => s.unitHere u.1 && s.readMem u.1 4 != u.2) ≠ [] ∧ s.tileConf 0x50000 = false := by decide

theorem witness_WaitsFreezesAndCounters : let s := framed .max 2 false
    let r := { asked .wait 0x50000 with trig := some [0xFFFFFFFF] }
    let o := { framed .once 2 false with once := [(0x50000, 1)] }
    let x := { asked .exact 0x50000 with ret := .load 0 0 1, bytes := List.replicate 8 (some 0) }
    s.rejects 5 r = none ∧ r.trig = some [0xFFFFFFFF] ∧ 0xFFFFFFFF < 2 ^ 32 ∧ s.readN 0x50000 4 < 2 ^ 32 ∧ (s.xtal 5).waiters.length < 4096 ∧
      o.once.get 0 0x50000 = 1 ∧ o.rejects 5 { r with lat := { ty := .once, width := 2 } } = none ∧ o.readN 0x50000 4 ∈ [0, 1] ∧ [0, 1].Nodup ∧ [0, 1].length ≤ 4 ∧
      s.rejects 5 (asked .freeze 0x50000) = none ∧ s.rejects 5 x = none ∧ (∀ w ∈ x.who, w.copy = none) ∧
      s.unreadable x.lat 0x50000 = some .xnf ∧ (framed .max 2 true).unreadable x.lat 0x50007 = none ∧ (x.bytes.getD 7 none).isSome = true ∧
      State.reset.rejects 5 { asked .faddb 0x50000 with bound := 2 ^ 64 - 1 } = none ∧ (0 : Nat) < 2 ^ 64 := by decide

theorem witness_ReadsAndStoresAtTheirHomes : let r := { asked .read 0x50000 with ret := .host 0 }
    let marked := State.reset.modPkg 0 fun k => { k with runs := [{ run0 with privs := [(5, 1)] }] }
    let w := { asked .store 0x50000 with bytes := [some 1, none], ret := .psb 3 }
    State.reset.rejects 5 r = none ∧ marked.privMark 0x50000 = true ∧ State.reset.privMark 0x50000 = false ∧ (marked.frame 0x50000).lat = none ∧
      State.reset.rejects 5 w = none ∧ (∀ q ∈ w.who, q.copy = none) ∧ isService 26112 = true ∧ pkgOf 0 = pkgOf 26112 ∧ r.gen < 65536 := by decide

theorem witness_RoutersAndPorts : let r := asked .join 0x50000
    let e : CombEntry := ⟨1, 16, 5, r⟩
    let s (n : Nat) := State.reset.modCore 0 fun k => { k with comb := List.replicate n e }
    let held := { asked .join 0x50040 with held := true }
    mergeable r r = true ∧ mergeable r held = false ∧ ((s 1).core 0).comb.find? (fun e => mergeable e.req r) = some e ∧
      ((s 15).core 0).comb.length < 16 ∧ 16 ≤ ((s 16).core 0).comb.length ∧ (∀ e ∈ ((s 16).core 0).comb, mergeable e.req held = false) ∧
      ((s 1).core 0).comb.find? (fun e => e.id == 1) = some e ∧ (∀ d ∈ ((s 1).core 0).comb, d.id ≠ 2) ∧ pkgOf 0 = 5 / 2048 ∧
      { r with serving := false }.serving = false ∧ (5 : Nat) < 2 ^ 24 ∧ (State.reset.xtal 5).faultq.length < 64 ∧
      ((State.reset.modXtal 5 fun k => { k with faultq := List.replicate 64 r }).xtal 5).faultq.length = 64 ∧
      (State.reset.xtal 5).lineWait.get? 0x1400 = none ∧ (State.reset.xtal 5).portq = [] ∧ (State.reset.xtal 5).slice = [] ∧
      0x1400 ∈ ((State.reset.modXtal 5 fun k => { k with slice := [0x1400] }).xtal 5).slice ∧
      ((State.reset.modXtal 5 fun k => { k with portq := [r] }).xtal 5).portq ≠ [] ∧
      (∀ q ∈ [r], q.pa / 64 = 0x1400) ∧ ((State.reset.xtal 5).lineBusy.get? 0x1400).all (fun u => decide (u < 4)) = true ∧
      (State.reset.agenda.all fun e => e.2.arriving.isNone) = true ∧ pkgOf 0 = 5 / 2048 ∧
      ((State.reset.modXtal 5 fun k => { k with lineBusy := [(0x1400, 9)] }).xtal 5).lineBusy.get? 0x1400 = some 9 := by
  decide

/-- What the open choices name is unknown; every case of them has its clause. -/
theorem witness_openChoices : (Config.lineCase 0 % 4 = 0 ∨ Config.lineCase 0 % 4 ≠ 0) ∧
    (Config.lineOutcome 0 = 1 ∨ Config.lineOutcome 0 = 2 ∨ Config.lineOutcome 0 ≠ 1 ∧ Config.lineOutcome 0 ≠ 2) ∧
    (Config.streamCable 0 0 = none ∨ ∃ f, Config.streamCable 0 0 = some f) := by
  refine ⟨by omega, by omega, ?_⟩
  cases Config.streamCable 0 0 <;> simp

theorem witness_TablesAndGenerations : let g : Genb := { asid := 0, core := some 0, next := 0 }
    let s := State.reset.modPkg 0 fun k => { k with genbs := [g] }
    let psb := s.modCore 0 fun k => { k with psb := [⟨1, 0x50000, 0, 0, 0, [], false⟩] }
    let sys (o : Nat × Bool × SysOp) := (ctx0 0 (fun t => { t with after := [.sys] }) State.reset).modCore 0 fun k => { k with sysops := [o] }
    let full := State.reset.modXtal 5 fun k => { k with history := [(0, 1)] }
    (s.pkg 0).genbs.find? (fun g => g.asid == 0 && g.next == s.now) = some g ∧
      (g.waiting.getD (s.psbCores 0 0)).filter (s.psbCores 0 0).contains = [] ∧
      (g.waiting.getD (psb.psbCores 0 0)).filter (psb.psbCores 0 0).contains ≠ [] ∧ { g with phase := 2 }.phase = 2 ∧
      (∀ o ∈ ((sys (0, true, .genb 0)).core 0).sysops, o.2.1 = true) ∧ ((sys (0, true, .genb 0)).ctx 0 0).after = [.sys] ∧
      ((sys (0, false, .genb 0)).core 0).sysops = [(0, false, .genb 0)] ∧ (State.reset.pkg 0).genbs = [] ∧
      ((full.xtal 5).history.get 0 0).getLsbD 0 = true ∧ ((full.xtal 5).history.get 0 1).getLsbD 0 = false ∧
      ((State.reset.pkg 0).rects.get {} 0).fenced = false ∧ (5 : Nat) < 2 ^ 19 ∧ State.reset.homePath 0 0x50000 = some (meshTime 0 (xtalRouter 5)) ∧
      isService 26112 = true ∧ ((State.reset.modPkg 0 fun k => { k with cmds := [(26112, [])] }).pkg 0).cmds.get? 26112 = some [] ∧
      ((sys (0, false, .tblw 2 0 [])).core 0).sysops = [(0, false, .tblw 2 0 [])] ∧
      ((sys (5, false, .genb 0)).core 0).sysops.filter (fun o => decide (0 < o.1)) ≠ [] := by decide

/-- Core 0 with an entry at the head of the engine's FIFO. -/
def enqueued (e : TileEntry) (r : Option EngineRun) : State :=
  core0 (fun k => { k with fifo := [e], fifoAt := [0], engine := r }) (scal 0 0)

theorem witness_MatrixEngine_fifo (e : TileEntry) (r : Option EngineRun) : ((enqueued e r).core 0).fifo = [e] := rfl

theorem witness_MatrixEngine : let z : TileEntry := { op := .tzero, shD := 0x4000, ctx := 2 }
    let bad : TileEntry := { op := .tzero, shD := 0xF000, ctx := 2 }
    let run : EngineRun := { start := 0, ends := 0 }
    let ok (s : State) (e : TileEntry) : Bool := match (s.core 0).tileCheck e with | .ok _ => true | .error _ => false
    ok (enqueued z none) z = true ∧ ok (enqueued bad none) bad = false ∧ ((enqueued z none).core 0).engine = none ∧
      ((enqueued z none).core 0).fifoAt = [0] ∧ (enqueued z none).stopped 0 = false ∧
      z.op.writesTile = true ∧ ((enqueued z none).ctx 0 z.ctx).standing = .active ∧ ((enqueued z none).ctx 0 z.ctx).pair = false ∧
      ((enqueued z none).ctx 0 z.ctx).pend = none ∧ ((enqueued z (some run)).core 0).engine = some run ∧ run.group = run.groups ∧ run.ends = 0 ∧
      (z.compute [] [] []).isSome = true ∧ mulShapes false false (shapeOf 0x4000) (shapeOf 0x6000) (shapeOf 0x6000) = true ∧
      (shapeOf 0x6000).code = 6 ∧ (addTiles (shapeOf 0x4000) (shapeOf 0x4000) (shapeOf 0x4000) [] []).isSome = true ∧
      (transposeTile (shapeOf 0x4000) (shapeOf 0x4000) []).isSome = true ∧ rowSegment (shapeOf 0x4000) 0 = some (0, 0) := by decide

/-- A command that copies one byte, with its descriptor's words. -/
def copying (ws : List W64) : CopyCmd := { id := 9, g := 5, ctx := 2, ox := ws.map fun v => ⟨.full, v⟩ }

theorem witness_CopyEngine : let m := copying [0, 32, 0x0000000100010001, 0x0000000100010001, 0, 0, 0, 0]
    let r : CopyRun := { cmd := m }
    let s (f : Core → Core) := ctx0 2 (fun t => { t with prods := [⟨9, .gr, 5, .waitt, none⟩] }) (core0 f (scal 0 0))
    let p : CopyPend := { run := 0, k := 0, len := 1, dst := 32, parts := 1 }
    let ok (o : Except Nat (Option Cause)) : Bool := match o with | .ok none => true | _ => false
    let bad (o : Except Nat (Option Cause)) : Bool := match o with | .ok (some _) => true | _ => false
    m.count = 1 ∧ m.runFrom 31 0 = 1 ∧ ((s fun k => { k with copyq := [m] }).core 0).copyq = [m] ∧ m.ready = 0 ∧
      ok ((s fun k => { k with copyq := [m] }).checkCopy 0 m) = true ∧ bad ((s id).checkCopy 0 (copying [])) = true ∧ (s id).stopped 0 = false ∧
      ((s id).core 0).copying = [] ∧ m.g ≠ 0 ∧ ((s id).ctx 0 m.ctx).gtid = m.gtid ∧ ((s id).ctx 0 m.ctx).standing = .active ∧
      (⟨9, .gr, 5, .waitt, none⟩ : Producer) ∈ ((s id).ctx 0 m.ctx).prods ∧
      ((s fun k => { k with copying := [r] }).core 0).copying.find? (fun r => !r.readDone) = some r ∧
      r.walking = false ∧ m.src 0 % m.size = 0 ∧ m.dst 0 % m.size = 0 ∧ heldBanks 0 ((s id).core 0).banks = [] ∧ ((s id).core 0).engine = none ∧
      { r with pend := [p] }.pend.find? (fun p => p.run == 0) = some p ∧ p.dst < 0x60000 ∧ { r with readDone := true }.moved = true ∧ m.cmode = 0 ∧
      p.parts = 1 ∧ overlap (p.dst, p.len * m.size) (32, 1) = true ∧ overlap (p.dst, p.len * m.size) (33, 1) = false ∧ m.srcAlias = false ∧
      m.dstAlias = false ∧ { m with cleaf := some (lat .max 2) }.cleaf = some (lat .max 2) ∧ { m with walking := true }.walking = true ∧
      ((s fun k => { k with copying := [r] }).ctx 0 m.ctx).pend = none ∧ isService 0 = false ∧
      (copying [0, 32, 0x0100000100010001]).cmode = 1 ∧ (mapped 0x100000 (lat .max 2) (s id)).copyLeaf 0 m 0x100000 = some (lat .max 2) := by decide

/-- The sides of a run: local memory, a page of plain data, one that faults, a store that is still buffered. -/
theorem witness_CopyEngine_sides : let m := copying [0, 32, 0x0000000100010001, 0x0000000100010001, 0, 0, 0, 0]
    let r : CopyRun := { cmd := m }
    let s := mapped 0x100000 own (scal 0 0)
    let is (x y : Side) : Bool := match x, y with | .local, .local => true | .page l, .page m => l == m | .fault f, .fault g => f == g | .wait, .wait => true | _, _ => false
    is (s.copySide 0 r 0x5FFFF 1 false) .local = true ∧ is (s.copySide 0 r 0x100000 1 false) (.page own) = true ∧
      is (s.copySide 0 r 0x60000 1 true) (.fault .lbound) = true ∧
      is ((core0 (fun k => { k with psb := [⟨1, 0x50000, 0, 0, 0, [], false⟩] }) s).copySide 0 r 0x100000 1 false) .wait = true := by decide

theorem witness_StreamRouters : let f : Flit := ⟨false, 0, 1⟩
    let step : Flit := ⟨true, 0, 0⟩
    let e (op : Nat) : StreamEntry := { v := true, sets := [{ op := op, width := 3, inp := 3, out := 4 }] }
    let s (op : Nat) (q : Tbl (List Flit)) := State.reset.modCore 0 fun k => { k with streams := [(0, e op)], streamIn := q }
    let set (op : Nat) : StreamSet := { op := op, width := 3, inp := 3, out := 4 }
    neighbour 0 .east = some 1 ∧ neighbour 0 .north = none ∧ 16 ≤ 16 + 1 ∧ step.isStep = true ∧ (⟨true, 0, 16⟩ : Flit).word.toNat / 16 % 4 = 1 ∧
      (⟨true, 0, 32⟩ : Flit).word.toNat / 16 % 4 = 2 ∧ (set 8).ins = [0, 1] ∧ 1 ∈ (set 8).ins ∧ bitOf (set 8).out 5 = false ∧
      ((s 8 []).core 0).streams.get {} 0 = e 8 ∧ (s 8 []).entryWriteDue 0 0 = false ∧ (s 0 []).waitingAt 0 0 0 = [] ∧
      (s 8 [(0, [f]), (1, [f])]).waitingAt 0 0 0 = [f] ∧ (s 8 [(0, [f]), (1, [f])]).waitingAt 0 0 1 = [f] ∧
      (s 8 [(0, [step]), (1, [step])]).waitingAt 0 0 1 = [step] ∧ (∀ p, p < 8 → p ∉ (set 8).ins → (s 8 []).waitingAt 0 0 p = []) := by decide

theorem witness_BarrierObjects : let o : Bar := { init := true, e := 2, counts := [(0, 2)], news := [(0, 2, 0, [])] }
    let s (o : Bar) := { State.reset with bars := [(barKey 0 256, o)] }
    let exp (o : Bar) (p : Nat) : Int := o.e - ((o.reds.filter fun r => decide (r.1 ≤ p)).map fun r => (r.2 : Int)).sum
    let enrolled := core0 (fun k => { k with enrol := [⟨256, 2, true, 3⟩] }) (scal 0 0)
    ((enrolled.core 0).enrolOf 2 256).any (·.dropped) = true ∧ enrolled.nextPhase 0 2 256 = 3 ∧ [((0 : Nat), (2 : Nat))] ≠ [] ∧
    { o with reds := [(0, 1)] }.reds.get 0 0 = 1 ∧ exp { o with reds := [(0, 1)] } 0 = 1 ∧
    barHas (barKey 0 256) 0 = true ∧ (∀ e ∈ (State.reset.core 0).ctxs, e.2.blk = none) ∧ exp o 0 < o.counts.get 0 0 + 1 ∧
      ({ o with counts := [(0, 1)] }).counts.get 0 0 + 1 ≤ exp o 0 ∧ ((s o).bar (barKey 0 256)).init = true ∧ (0 : Int) < o.e ∧
      ((o.counts.get 0 o.p : Nat) : Int) = o.e ∧ o.news.get? 0 = some (2, 0, []) ∧ (List.replicate 16 0).length = 16 := by decide

theorem witness_ClockEvents : let s := State.reset.modPkg 0 fun k => { k with runs := [run0] }
    (s.core 0).fenced = false ∧ (s.pkg 0).run? 1 = some run0 ∧ (s.pkg 0).run? 2 = none := by decide

theorem witness_Quiescence : let sm : Sums := { tb := 1 }
    let s (r : Run) := State.reset.modPkg 0 fun k => { k with runs := [r] }
    let pod : Run := { run0 with rc := { run0.rc with pods := 3 }, newSums := some sm }
    (s run0).allRunning 0 1 = true ∧ (s { run0 with st := .stopped }).allRunning 0 1 = false ∧ (s run0).tbase 0 % 1024 = 0 ∧
      ({ s run0 with now := 256 } : State).tbase 0 % 1024 ≠ 0 ∧ 
      ((s { run0 with newSums := some sm }).pkg 0).run? 1 = some { run0 with newSums := some sm } ∧ run0.rc.packages 0 = [0] ∧
      2 ≤ (pod.rc.packages 0).length ∧ (s pod).allRunning 0 1 = true ∧ ((s run0).pkg 0).run? 2 = none ∧ (s run0).allExited 0 1 = true ∧
      (core0 (fun k => { k with ctxs := [(2, { st := .active })], lid := some 1 }) (s run0)).allExited 0 1 = false ∧
      rangesOf [{ run0 with frzq := [(1, [0x50000])] }] = [(1, 0, [0x50000])] ∧ homeOf 0x50000 / 2048 = 0 ∧ homeOf 0x50000 % 2048 < 1536 := by
  decide

theorem witness_LaunchLifecycle : let l := { run0.rc with centry := 8 }
    let k (q : Nat × Launch × Bool) (rs : List Run) : Package := { queue := [q], runs := rs }
    let eight := (List.range 8).map fun i => { run0 with rc := { run0.rc with lid := 2, col0 := 4 }, slot := i }
    let twin (lid : Nat) (x : Nat) : Run := { run0 with rc := { run0.rc with lid := lid, twin := 1 }, copy := 1, result := some (none, x, 0) }
    (k (26112, l, false) []).clear l = true ∧ (k (26112, l, false) [run0]).clear l = false ∧
      (k (26112, l, false) []).freeSlots = [0, 1, 2, 3, 4, 5, 6, 7] ∧
      (l.rect.cores 0).all (fun c => !(State.reset.core c).fenced && ((State.reset.core 26112).tails.get? c).isNone) = true ∧
      (k (26112, l, false) eight).clear l = true ∧ (k (26112, l, false) eight).freeSlots = [] ∧ isService 26112 = true ∧ pkgOf 26112 = 0 ∧
      partOk l.col0 l.row0 l.width l.height = true ∧ l.twin ≤ 1 ∧
      (k (26112, { l with twin := 2, mcol0 := 2 }, false) []).clear { l with twin := 2, mcol0 := 2 } = true ∧
      (k (26112, l, true) [{ run0 with st := .out }]).clear l = true ∧ ([run0].filter fun r => r.rc.lid == 1 && r.st != .ended) = [run0] ∧
      ({} : Tbl Bar).wf = true ∧
      ([twin 1 5, twin 1 6].filter fun r => r.rc.lid == 1) = [twin 1 5, twin 1 6] ∧ (twin 1 5).result ≠ (twin 1 6).result := by decide

theorem witness_FenceResets : let s := core0 (fun k => { k with lid := some 1, enrol := [⟨256, 2, false, 0⟩] }) ((scal 0 0).modPkg 0 fun k => { k with runs := [run0] })
    0 ∈ (⟨0, 0, 0, 0⟩ : Rect).cores 0 ∧ 1 ∉ (⟨0, 0, 0, 0⟩ : Rect).cores 0 ∧ (2 ∈ (s.core 0).ctxs.map (·.1)) ∧
      (s.core 0).enrol = [⟨256, 2, false, 0⟩] ∧
      (⟨0, 0, 0, 0⟩ : Rect).has 0 = true ∧ (s.ctx 0 2).st ≠ .vacant ∧ (s.pkg 0).run? 1 = some run0 ∧ (2 : Nat) ≠ 0 ∧
      (s.core 0).lid = some 1 ∧ lidOf (ctx0 2 (fun t => { t with gtid := 0x1000000000000 }) s |>.ctx 0 2).gtid = 1 := by decide

theorem witness_GangStopsAndSwitches : let s (r : Run) := core0 (fun k => { k with lid := some 1 }) ((scal 0 0).modPkg 0 fun k => { k with runs := [r] })
    let st := core0 (fun k => { k with stopAt := some 0 }) (s run0)
    let out := { State.reset with images := [(1, 1, { ctxs := [(2, { st := .switched, saved := .active, resumeBlk := some 8 })] })] }
    ((s run0).core 0).stopAt = none ∧
      (st.cores.filter fun e => pkgOf e.1 == 0 && (⟨0, 0, 1, 1⟩ : Rect).has e.1 && e.2.stopAt.isSome && !st.switching e.1).map (·.1) = [0] ∧
      (st.core 0).startAt = none ∧ ((s run0).pkg 0).run? 1 = some run0 ∧ run0.st = .running ∧ run0.requested = false ∧
      ((s run0).launchCores 0 1).Nodup ∧
      (((s { run0 with st := .switching }).pkg 0).runAt? 1 0).map (·.st) = some .switching ∧ ((s run0).core 0).engine = none ∧
      ((s run0).core 0).psb = [] ∧
      ((s run0).core 0).copying = [] ∧ ((s run0).core 0).copyEnded = [] ∧ ((s run0).core 0).sysops = [] ∧ ((s run0).core 0).delayed = [] ∧
      (core0 (fun k => { k with startAt := some 0 }) st).core 0 ≠ st.core 0 ∧ run0.meets ⟨0, 0, 1, 1⟩ = true ∧
      { run0 with saved := 2 }.saved + 1 < ((s run0).launchCores 0 1).length ∧
      ((s run0).launchCores 0 1).length ≤ { run0 with saved := 3 }.saved + 1 ∧
      ((s { run0 with st := .resuming }).pkg 0).runsOf 1 = [{ run0 with st := .resuming }] ∧ (∀ i ∈ out.images, ∀ e ∈ i.2.2.ctxs, e.2.pend = none) ∧
      out.images.get? (0 * 65536 + 1) = some (1, { ctxs := [(2, { st := .switched, saved := .active, resumeBlk := some 8 })] }) := by decide

theorem witness_TraceRecords : let d (f : Die → Die) := State.reset.modDie 0 f
    let tc : BitVec 128 := 0x0000000000100000_0000020010200001
    let ring : BitVec 128 := 0x0000000000100000_0000020000200001
    let f : TraceFrame := { recs := [], bytes := [] }
    tc.toNat % 2 = 1 ∧ tc.toNat / 2 ^ 21 % 2 = 1 ∧ tc.toNat / 2 ^ 28 % 2 = 1 ∧ ring.toNat / 2 ^ 28 % 2 = 0 ∧ 2 ≤ ring.toNat / 2 ^ 40 % 2 ^ 24 ∧
      (0 + 1) % (ring.toNat / 2 ^ 40 % 2 ^ 24) ≠ 0 ∧ ((d fun k => { k with trace := ring, full := [f] }).die 0).full = [f] ∧
      ((State.reset.pkg 0).ports.get {} 0).up = true ∧ 0 < ((State.reset.pkg 0).ports.get {} 0).credits.get 64 3 ∧ f.bytes.length ≤ 4064 ∧
      (1 + 1) % 2 ≠ 1 := by decide

theorem witness_HostLink : let safe := State.reset.modPkg 0 fun k => { k with safe := true }
    let ws : List W64 := [0, 0, 0, 0x0002000200000000, 0x0001000000000000, 0, 0, 0, 0, 0, 0, 0, 0, 0, 0, 0]
    (safe.pkg 0).safe = true ∧ 26112 % 32768 = 26112 ∧ 26113 % 32768 ≠ 26112 ∧ (State.reset.pkg 0).safe = false ∧
      homeOf (0 * 2 ^ 44 + 0x50000) / 2048 = 0 ∧
      (launchOf ws).width = 2 ∧ (launchOf ws).height = 2 ∧ (launchOf ws).lid = 1 ∧ (launchOf ws).rsv = false ∧ ws.length = 16 ∧
      (State.reset.ctx 0 2).pair = false ∧ ((scal 0 0).ctx 0 2).standing = .active ∧ (State.reset.pkg 0).statuses.get? 1 = none ∧
      ((State.reset.modPkg 0 fun k => { k with cmds := [(26112, [])] }).pkg 0).cmds.get? 26112 = some [] ∧
      (State.reset.pkg 0).cmds.get? 26112 = none ∧ (State.reset.pkg 0).hostq.get [] 26112 = [] ∧
      ((State.reset.modPkg 0 fun k => { k with hostq := [(26112, [8, 9])] }).pkg 0).hostq.get [] 26112 = [8, 9] ∧ (0x3F : Nat) < 64 ∧
      tableData 1 [1, 0] = true ∧ (4095 : Nat) < 4096 ∧ (⟨0, 0, 1, 1⟩ : Rect).has 0 = true := by decide

theorem witness_BringUp : (255 : Nat) < 256 ∧ (∃ f ∈ [((0x50 : Nat), (0 : Nat), (0 : Nat))], f.1 = 0x50 ∧ f.2.2 = 0) ∧
    (∀ f ∈ [((0x60 : Nat), (0 : Nat), (3 : Nat))], ¬ (f.1 ∈ [0x01, 0x10, 0x20, 0x30, 0x40] ∨ (f.1 = 0x50 ∧ f.2.2 = 0))) := by decide

/-- A codeword that a port takes: its leg, its number and its messages. -/
def word (leg : Leg) (seq : Option Nat) (ms : List NetMsg) : Codeword :=
  { leg := leg, seq := seq, ack := 0, msgs := ms.map fun m => (0, m), src := (1, 0), dst := (0, 0) }

/-- Package 0 with port `n` as `f` makes it, where a codeword comes. -/
def porting (n : Nat) (w : Codeword) (f : Port → Port) : State :=
  taking (.codeword 0 n w true) (State.reset.modPkg 0 fun k => { k with ports := k.ports.put n (f (k.ports.get {} n)) })

set_option maxRecDepth 10000 in
/-- A port at each end of a switch's cable; numbers that are early and late; room, and none; a request and other messages. -/
theorem witness_BrinelinePorts : let m : NetMsg := .accept ⟨0, 2, 9, 0, 0, 0, none⟩ .ctx
    let r : Req := { asked .wait 0x50000 with lid := 1, who := [⟨32768, 2, 9, 0, 0, 0, none⟩] }
    let mapped := State.reset.modPkg 0 fun k => { k with portmap := [(1, 0x20)] }
    let s (f : Port → Port) := porting 0 (word .link (some 0) [m]) fun q => f { q with switched := true }
    let q (f : Port → Port) := ((s f).pkg 0).ports.get {} 0
    let early (m : Nat) : Bool := m != (q id).exp && decide ((m + 256 - (q id).exp) % 256 < 128)
    let send : NetMsg := .send { src := 0, sctx := 2, dst := 0, dctx := 2, lid := 1, word := 0 }
    let held := State.reset.modPkg 0 fun k => { k with runs := [{ run0 with st := .stopped }] }
    (porting 32 (word .into none [m]) id).farEnd 0 32 = some (0, 0) ∧ (s id).farEnd 0 0 = some (0, 32) ∧ (0, 32) ≠ ((0 : Nat), (0 : Nat)) ∧
      (q id).up = true ∧ (q id).training = false ∧ (q id).replay.length < 128 ∧ (q id).filling = none ∧ (s id).agenda = [] ∧
      (q fun q => { q with up := false }).up = false ∧ (q fun q => { q with replay := List.replicate 128 (word .link (some 0) []) }).replay.length = 128 ∧
      early 127 = true ∧ early 128 = false ∧ 128 ≤ (128 + 256 - (q id).exp) % 256 ∧ (word .link (some 0) [m]).seq = some (q id).exp ∧
      (q id).waiting = [] ∧ (q id).owed = [] ∧ m.flits ≤ (q id).credits.get 64 m.cls ∧ 0 < m.flits ∧ m.flits < 16 ∧
      ¬ m.flits ≤ (q fun q => { q with credits := [(1, 0)] }).credits.get 64 m.cls ∧ m.cls = 1 ∧
      State.reset.foreign 0 (.req 5 r) = true ∧ r.who.map (fun w => pkgOf w.core) = [1] ∧ ((mapped.pkg 0).portmap.get 0 1).getLsbD 5 = true ∧ State.reset.foreign 0 m = false ∧
      State.reset.portHolds 0 0 m = false ∧ held.portHolds 0 0 send = true ∧ State.reset.portHolds 0 0 send = false ∧ send.cls = 2 ∧
      m.event.isSome = true ∧ send.event.isSome = true ∧ pkgOf m.target = 0 ∧ (State.reset.core 0).fenced = false ∧
      routerOf (portRouter 0 0) ≠ xtalRouter 5 ∧ (State.reset.pkg 0).agreed = true ∧ (State.reset.pkg 0).safe = false ∧
      ((State.reset.modPkg 0 fun k => { k with agreed := false }).pkg 0).agreed = false := by decide

/-- A switch's port with a flit and nothing planned; a barrier's way to another package. -/
theorem witness_BrinelinePorts_switch : let s := porting 32 (word .into none [.flit ⟨false, 0, 1⟩]) id
    let p := (porting 0 (word .out none []) id).modPkg 0 fun k => { k with portmap := [(1, 0x20)] }
    s.agenda = [] ∧ (word .into none [.flit ⟨false, 0, 1⟩]).leg = .into ∧ ((p.pkg 0).portmap.get 0 1).getLsbD 5 = true ∧
      ((p.pkg 0).portmap.get 0 1).toNat % 32 = 0 ∧ ((p.pkg 0).portmap.get 0 2).getLsbD 5 = false := by decide

/-- The turns of a cycle with an instruction in a window, and with an event that is due besides. -/
def turning (a : List (Nat × Event)) : State := { place (.add .always .w32 0 1) 1 2 with agenda := a }

theorem witness_StepRunsTheDecodedInstruction : let e : Event := .heartbeatMiss 0
    let s := turning [(0, e)]
    s.phase ≠ .start ∧ (0 : Nat) ≤ s.now ∧ e.wf = true ∧ (s.spilled e).isNone = true ∧ (s.imageOf e).isNone = true := by decide

/-- An arrival at a core that is being switched, and a reply for a requester whose launch is switched out. -/
theorem witness_StepRunsTheDecodedInstruction_switched : let s := turning []
    let away := s.modPkg 0 fun k => { k with runs := [{ run0 with st := .switching }] }
    let out := { s with images := [(1, 1, { ctxs := [(2, { prods := [⟨9, .gr, 5, .dcall, none⟩] })] })] }
    away.spilled (.spawnArrival 0 child) = some 0 ∧ s.spilled (.spawnArrival 0 child) = none ∧ (Event.dcallReply 0 2 5 7).wf = true ∧
      out.spilled (.dcallReply 0 2 5 7) = none ∧ out.imageOf (.dcallReply 0 2 5 7) = some (0, 1) := by decide

/-- What core 0 has to do in its turn: a fault that has reached a slot, an instruction whose translation has come, and the window's choice. -/
def turnOf (f : State → State) : State := State.beginTurn (f { turning [] with phase := .turns 0 }) 0

set_option maxRecDepth 10000 in
theorem witness_StepRunsTheDecodedInstruction_turn : let s := turning []
    let is (v : State) (k : Nat) (j : Job) : Bool := match v.jobs 0 false, j with
      | [(0, 2, .use (.issue 0))], .use _ => k == 0
      | (0, 2, .doom e) :: _, .doom f => e == f
      | (0, 2, .replay n) :: _, .replay m => n == m
      | _, _ => false
    let doomed (s : State) := s.doom 0 2 0 { code := .lbound }
    let again (s : State) : State := { s with replay := [(0, 2, (s.ctx 0 2).serial, 0)] }
    (s.cores.find? fun e => decide (0 ≤ e.1)).map (·.1) = some 0 ∧ (s.pkg (pkgOf 0)).on = true ∧ ((turnOf id).ctx 0 2).blk.isSome = true ∧
      (match (turnOf id).chooseCtx 0 with | some (2, .issue 0) => true | _ => false) = true ∧ is (turnOf id) 0 (.use (.issue 0)) = true ∧
      is (turnOf doomed) 0 (.doom { code := .lbound }) = true ∧
      is (turnOf again) 0 (.replay ((turnOf again).ctx 0 2).serial) = true ∧ ((turnOf again).ctx 0 2).serial ≠ 9 ∧
      ((turnOf id).modPkg 0 fun k => { k with on := false }).pkg 0 ≠ (turnOf id).pkg 0 := by decide

theorem witness_StepRunsTheDecodedInstruction_end : ((turning []).cores.find? fun e => decide (1 ≤ e.1)).isNone = true ∧
    (decodeTableWord 32 (Instr.add .always .w32 0 1).encode).isSome = true := by decide

theorem witness_StepKeepsMemoryCanonical : Memory.wf State.reset = true ∧
      (match step State.reset with | .next _ => true | _ => false) = true := by decide

theorem witness_TakingAFault : let m : DelegMsg := default
    let s := core0 (fun k => { k with head := { routine := some m } }) (headed 0 0)
    (State.reset.die (dieOf 0)).trace.getLsbD 0 = false ∧ ((headed 0 0).core 0).head.routine = none ∧ (s.core 0).head.routine = some m ∧
      pkgOf 0 = pkgOf m.src ∧ ((scal 0 0).ctx 0 2).pair = false ∧ (s.core 0).tails.get? m.src = none ∧ (s.core m.src).fenced = false ∧
      ((ctx0 2 (fun t => { t with st := .latched, latch := some ⟨{}, 0, true⟩ }) (scal 0 0)).ctx 0 2).latch = some ⟨{}, 0, true⟩ := by decide

theorem witness_BlockCommits : let s := ending 2 .none .mig 1
    (s.ctx 0 2).pair = false ∧ s.mayCommit 0 2 s.cblk = true ∧ s.cblk.taken = [] ∧
      (s.cblk.slots.all fun q => q.push == [] && match q.eff with | .none => true | _ => false) = true := by decide

theorem witness_BlockCommits_exit : (ending 2 .none .exit 0).mayCommit 0 2 (ending 2 .none .exit 0).cblk = true ∧
    (ending 2 .none .exit 0).ev = .blockCommit 0 2 := by decide

/-- A head context in a handler, and in a routine, at the end of its block. -/
theorem witness_BlockCommits_head : let h (f : Head) (k : ExitKind) := core0 (fun q => { q with head := f }) (ending 0 .none k 0)
    let e := h { handler := true } .eret
    let d := h { routine := some default } .dret
    e.mayCommit 0 0 e.cblk = true ∧ (e.core 0).head.routine = none ∧ (e.core 0).delq = [] ∧ (e.core 0).tvec = 0 ∧
      d.mayCommit 0 0 d.cblk = true ∧ (d.core 0).head.routine = some default ∧ (d.core 0).head.handler = false ∧
      (d.core 0).tails.get? (default : DelegMsg).src = none ∧ (d.core (default : DelegMsg).src).fenced = false := by decide

/-- A block that stores, to local memory or to a PRIV page, and a die that traces each end of a block, with its kind. -/
theorem witness_BlockCommits_stores : let s (e : Eff) := ending 2 e .br 0x100000
    let one (e : Eff) : Bool := (s e).mayCommit 0 2 (s e).cblk && (s e).cblk.slots.countP (fun q => q.eff != .none) == 1
    one (.localStore [(0x5FFFF, 1)]) = true ∧ one (.privStore [(0x5FFFF, 1)]) = true ∧ (2 : Nat) ≠ 0 ∧
      ((s .none).core 0).oldByte 0 0x5FFFF = none ∧ (((s .none).core 0).psb.map (·.id)).Nodup ∧
      ((0x10001 : BitVec 128).getLsbD 0 && (0x10001 : BitVec 128).getLsbD 16) = true := by decide

/-- A vector read of a page, with every lane and with none, and of local memory with none. -/
theorem witness_Loads_vectors : let v (k : PageClass) (p : Tok) := mapped 0x100000 { own with cls := k } (stand 2 (.scalar 0x100000) (.vector 0 0xFFFFFFFF) p)
    let near := stand 2 (.scalar 0x5FF80) (.vector 0 0) (.scalar 0)
    let groups (m : W32) := (List.range 4).filter fun k => (List.range 8).any fun j => m.getLsbD (8 * k + j)
    (v .code (.scalar 1)).nullScalar (.vld .always 0 0 false 0 0) = false ∧ (v .code (.scalar 1)).trails = false ∧ own.isAlias = false ∧
      (v .code (.scalar 1)).leaf? 0 0 0 0x100000 = some { own with cls := .code } ∧ (0x100000 : Nat) % 128 = 0 ∧
      ((v .code (.scalar 1)).cblk.loads = []) ∧ groups ((v .code (.scalar 1)).laneMask .always) = [0, 1, 2, 3] ∧
      groups ((v .priv (.scalar 0)).laneMask .onTrue) = [] ∧ groups 0x80000001 = [0, 3] ∧ own.owner = (v .priv (.scalar 0)).cur.core ∧
      near.laneMask .onTrue = 0 ∧ (near.lval.toNat + 0) % 2 ^ 64 < 0x100000 ∧ near.slot.r.tok.vec.2 = 0 ∧
      near.nullScalar (.vld .onTrue 0 2 false 0 0) = false ∧ (windowed near).cctx.window 0 = (0x5FFF0, 16) := by decide

/-- Headers and blocks that pass the checks, and others that each break one (R41, R42). -/
theorem witness_BlockFetch_checks : let b : Instr := .br .always 0
    let sum (x y z : BitVec 8) : List Instr := [.movi .always 1 x, .movi .always 1 y, .add .always .w32 z 0, b]
    let h := 0xFF000006
    headerOk 0xFF00000E = true ∧ headerOk 0xFE00000E = false ∧ headerOk 0xFF00001E = false ∧ headerOk 0xFF002006 = false ∧
      headerOk 0xFF00110E = false ∧ blockOk h 2 [b] = true ∧ blockOk h 2 [] = false ∧ blockOk h 2 (sum 2 66 0) = true ∧
      blockOk h 2 (sum 2 2 0) = false ∧ blockOk h 2 (sum 2 66 1) = false ∧ blockOk h 2 (sum 2 66 0xC0) = false ∧ blockOk h 1 (sum 2 66 0xC3) = true ∧
      blockOk h 2 [.movi .always 1 0, .rd .gr 1 0 0, b] = false ∧ blockOk h 2 [.call .always 0, .call .always 0] = true := by decide

/-- A frame's attributes and others; a host write that covers one location whole, or a part of it. -/
theorem witness_JoinsAndFills_rejects : let s := framed .max 2 false
    let r := asked .join 0x50000
    let h (bs : List (Option Byte)) := { asked .store 0x50000 with ret := .host 0, bytes := bs, who := [⟨26112, 0, 9, 0, 0, 0, none⟩] }
    (∀ r' ∈ [.join, .fill, .wait, .exact], (asked r' 0x50000).code = false) ∧ r.gen = (s.pkg (5 / 2048)).gens.get 0 r.asid ∧
      (s.frame r.pa).lat = some r.lat ∧ State.reset.rejects 5 r = some .stalegen ∧ s.rejects 5 { r with lat := { ty := .max, width := 2, sgn := true } } = some .stalegen ∧
      s.rejects 5 { r with lat := { ty := .max, width := 2, fsz := 3 } } = none ∧ State.reset.rejects 5 (asked .store 0x50000) = none ∧
      s.hostTurn (h []) = true ∧ (∀ w ∈ (h []).who, w.copy = none) ∧ (List.replicate 8 (some (1 : Byte))).length % 4 = 0 ∧
      (State.hostTurn (s.modPkg 0 fun k => { k with hostq := [(26112, [8, 9])] }) (h [])) = false ∧ (h [some 1, none, none, none]).bytes.length % 4 = 0 := by decide

/-- Shapes of a sparse, of an extended and of a floating-point product, of a sum and a conversion, and of a tile that TCKV takes. -/
theorem witness_MatrixEngine_shapes : let d : Shape := ⟨3, 5, 4, false, false⟩
    let f : Shape := ⟨3, 5, 0, false, true⟩
    mulShapes true false d ⟨3, 12, 6, true, false⟩ ⟨24, 5, 6, false, false⟩ = true ∧
      mulShapes false true { d with ck := true } ⟨3, 7, 6, false, false⟩ ⟨7, 5, 6, false, false⟩ = true ∧
      mulShapes false true f ⟨3, 64, 1, false, false⟩ ⟨64, 5, 1, false, false⟩ = true ∧
      mulShapes true false { f with ck := false } ⟨3, 12, 2, true, false⟩ ⟨24, 5, 2, false, false⟩ = true ∧ f.fmt.isFloat = true ∧
      f.valid = true ∧ f.ck = true ∧ d.bfx = false ∧ (⟨2, 64, 7, false, false⟩ : Shape).bfx = true ∧ (convertTile ⟨1, 1, 0, false, false⟩ ⟨1, 1, 0, false, false⟩ [] 0).isSome = true ∧
      (addTiles ⟨1, 1, 0, false, false⟩ ⟨1, 1, 0, false, false⟩ ⟨1, 1, 0, false, false⟩ [] []).isSome = true ∧
      (rowSegment ⟨2, 64, 0, false, false⟩ 64) = some (0, 1) := by decide

set_option maxRecDepth 10000 in
/-- Completion locations at the edges of the ranges of addresses, and what a command's checks need (R255). -/
theorem test_copy_completion_checks : let m (a : Nat) := copying [0, 32, 0x0100000100010001, 0x0000000100010001, 0, 0, 0, BitVec.ofNat 64 a]
    let is (o : Except Nat (Option Cause)) (k : FaultCode) (va : Nat) : Bool := match o with | .ok (some e) => e.code == k && e.va == va | _ => false
    let s (l : Leaf) := mapped 0x100000 l (scal 0 0)
    is ((scal 0 0).checkCopy 0 (m 0x5FFFF)) .prot 0x5FFFF = true ∧ is ((scal 0 0).checkCopy 0 (m 0x60000)) .lbound 0x60000 = true ∧
      is ((scal 0 0).checkCopy 0 (m (2 ^ 48))) .xlat (2 ^ 48) = true ∧ ((s own).copyPage 0 (m 0) 0x100000).isSome = true ∧
      is ((s (lat .max 2)).checkCopy 0 (m 0x100000)) .ltype 0x100000 = true ∧ is ((s (lat .cnt 2)).checkCopy 0 (m 0x100001)) .align 0x100001 = true ∧
      is ((s own).checkCopy 0 (m 0x100000)) .prot 0x100000 = true := by decide


/-- Ranges on both packages of a pod. -/
theorem witness_Quiescence_pod : let r (p : Nat) : Run := { run0 with rc := { run0.rc with pods := 3 }, frzq := [(1, [p * 2 ^ 44 + 0x50000])] }
    let s := (State.reset.modPkg 0 fun k => { k with runs := [r 0] }).modPkg 1 fun k => { k with runs := [r 1] }
    (r 0).rc.packages 0 = [0, 1] ∧ s.allRunning 0 1 = true ∧ (∃ q ∈ [0, 1], ∃ x ∈ (s.pkg q).runsOf 1, x.frzq ≠ []) ∧
      homeOf (2 ^ 44 + 0x50000) / 2048 = 1 ∧ homeOf (2 ^ 44 + 0x50000) % 2048 < 1536 := by decide

/-- A thread whose first RD names an EMPTY register. -/
def awaiting : State := ctx0 2 (fun u => { u with g := [(5, { st := .empty })], prods := [⟨9, .gr, 5, .waitt, none⟩] })
  ((scal 0 0).modBlock 0 2 fun b => { b with slots := [{ word := 2147811328 }] })

set_option maxRecDepth 20000 in
theorem witness_Quiescence_waits : awaiting.cblk.slots.map (·.instr?) = [some (.rd .gr 5 0 0)] ∧ (awaiting.ctx 0 2).regState .gr 5 = .empty ∧
    awaiting.cblk.complete = false ∧ awaiting.cblk.loads = [] ∧ awaiting.cblk.firstAt ≤ awaiting.now ∧ (awaiting.ctx 0 2).after = [] ∧
    (awaiting.waitOf 0 2).map (·.on) = some (.reg .gr 5 (some .waitt) none) := by decide

/-- A pair that departs, and one that exits with a message for another package. -/
theorem witness_ContinuationsAndExitMessages_pair : let d : Depart := ⟨1, 8, true, [], false, false, 15⟩
    let u : Ctx := { st := .departing, pair := true, depart := some d }
    let s := { State.reset with cores := [(0, { ctxs := [(2, u), (3, u)] })] }
    let m : ExitMsg := { (default : ExitMsg) with dst := 32768 }
    let x := ctx0 2 (fun t => { t with st := .exiting, depart := none, exitMsg := some m }) s
    let y := x.modPkg 0 fun k => { k with portmap := [(1, 0x20)] }
    s.team 0 2 = [2, 3] ∧ (s.ctx 0 2).depart = some d ∧ 15 ≤ d.tries ∧ (y.ctx 0 2).exitMsg = some m ∧ pkgOf m.dst ≠ pkgOf 0 ∧
      ((y.pkg (pkgOf 0)).portmap.get 0 (pkgOf m.dst)).getLsbD 5 = true ∧ (y.ctx 0 2).st = .exiting ∧ (y.ctx 0 2).outs = [] ∧ (y.ctx 0 2).exitAt ≤ y.now := by
  decide

/-- A fenced core, and a fence entry that is lifted while another still holds the same core. -/
theorem witness_FencedCores : let s := core0 (fun k => { k with fenced := true }) State.reset
    let two := State.reset.modPkg 0 fun k => { k with rects := [(0, { v := true, rect := ⟨0, 0, 1, 1⟩, fenced := true })] }
    (s.core 0).fenced = true ∧ (State.reset.core 0).fenced = false ∧ isService 26112 = true ∧ isService 0 = false ∧
      (∃ q ∈ (two.pkg 0).rects, q.2.v = true ∧ q.2.fenced = true ∧ q.2.rect.has 0 = true) := by decide

/-- Tables of a package, of a router and of a home, and words that no table takes (R288). -/
theorem witness_HostLink_tables : tableWords 1 = 2 ∧ tableWords 3 = 1 ∧ tableWords 4 = 4 ∧ tableData 1 [1, 0] = true ∧ tableData 3 [0] = true ∧
    tableData 2 [0, 0] = true ∧ tableData 6 [0] = true ∧ tableData 0 [0, 0] = true ∧ paOk 0x50000 = true ∧ paPkg 0x50000 = 0 ∧ (0x50000 : Nat) % 65536 = 0 ∧
    tableData 1 [2, 0] = false ∧ tableSize 1 ≤ 4096 ∧ (16 : Nat) + 1 < 24 := by decide

/-- A core whose image is written: its ring is done in time, and not yet. -/
theorem witness_GangStopsAndSwitches_ring : let s := State.reset.modPkg 0 fun k => { k with runs := [{ run0 with st := .switching, saved := 3 }] }
    let w := core0 (fun k => { k with ringAt := some 0 }) s
    (s.core 0).ringAt = none ∧ s.ringDone 0 1 0 = 0 ∧ (∀ c ∈ s.launchCores 0 1, s.ringDone 0 1 c ≤ s.now) ∧ (w.core 0).ringAt = some 0 ∧
      ((w.pkg 0).runAt? 1 0).isSome = true := by decide

/-- A state in which a launch is being resumed whose image is in memory as its core wrote it. -/
theorem witness_GangStopsAndSwitches_resume : ∃ s : State, s.ev = .resume 0 1 ∧
    (s.pkg 0).runsOf 1 = [{ run0 with st := .resuming }] ∧
    (∀ c ∈ run0.rc.rect.cores 0, ∀ l img, s.images.get? (c * 65536 + 1) = some (l, img) →
      s.readMem (imageBase run0.rc c + 122880) 4096 = img.imageQueues) ∧ ∃ l img, s.images.get? (0 * 65536 + 1) = some (l, img) := by
  let img : Core := { ctxs := [(2, { st := .switched, saved := .active, resumeBlk := some 8 })] }
  let at_ : Nat := imageBase run0.rc 0 + 122880
  refine ⟨({ State.reset with
    ev := .resume 0 1, images := [(1, 1, img)]
    pkgs := [(0, { (State.reset.pkg 0) with runs := [{ run0 with st := .resuming }] })] } : State).writeMem at_ img.imageQueues, rfl, by decide, ?_,
    1, img, rfl⟩
  intro c _ l i h
  change List.lookup (c * 65536 + 1) [((1 : Nat), (1 : Nat), img)] = some (l, i) at h
  rcases Nat.eq_zero_or_pos c with rfl | hc
  · have hi : img = i := by simpa [List.lookup] using (congrArg (Option.map Prod.snd) h)
    subst hi
    exact (congrArg _ (by simp [Core.imageQueues])).trans (Laws.readMem_writeMem _ at_ img.imageQueues)
  · have hn : (c * 65536 + 1 == 1) = false := by simp; omega
    simp [List.lookup, hn] at h

end Sys2Proof.Tests
end

/-! # Registers: g0 and p0, and what a WR writes at commit -/

section

namespace Sys2Proof.Registers

open Sys2Proof.Machine Sys2Proof.Laws

/-! ### One register written

What each write of a register file leaves unchanged, and what the registers read after a token is written (R81, R86). -/

section Writes

variable (t : Ctx) (f : RegFile) (r : Nat) (v : W64) (x : V1024) (m : W32) (k : Tok)

@[simp] theorem otherFiles_setG : (t.setG r v).pReg = t.pReg ∧ (t.setG r v).vReg = t.vReg ∧ (t.setG r v).oxReg = t.oxReg := by
  unfold Ctx.setG
  split <;> exact ⟨rfl, rfl, rfl⟩

@[simp] theorem otherFiles_setP : (t.setP r v).gReg = t.gReg ∧ (t.setP r v).vReg = t.vReg ∧ (t.setP r v).oxReg = t.oxReg := by
  unfold Ctx.setP
  split <;> exact ⟨rfl, rfl, rfl⟩

@[simp] theorem otherFiles_setOx : (t.setOx r v).gReg = t.gReg ∧ (t.setOx r v).pReg = t.pReg ∧ (t.setOx r v).vReg = t.vReg :=
  ⟨rfl, rfl, rfl⟩

@[simp] theorem otherFiles_setV : (t.setV r x m).gReg = t.gReg ∧ (t.setV r x m).pReg = t.pReg ∧ (t.setV r x m).oxReg = t.oxReg := by
  unfold Ctx.setV
  split <;> exact ⟨rfl, rfl, rfl⟩

@[simp] theorem setV_zero : t.setV r x 0 = t := rfl

theorem vReg_setV_self (h : m ≠ 0) :
    (t.setV r x m).vReg r = ⟨.full, (x &&& laneBits m) ||| ((t.vReg r).val &&& ~~~ laneBits m)⟩ := by
  unfold Ctx.setV
  rw [if_neg h]
  exact get_put_self _ _ _ _

theorem vReg_setV_ne {q : Nat} (h : q ≠ r) : (t.setV r x m).vReg q = t.vReg q := by
  unfold Ctx.setV
  split
  · rfl
  · exact get_put_ne _ _ _ h

/-- A context reads the same state and content in the register `r` of the file `f` as another. -/
def SameReg (t u : Ctx) (f : RegFile) (r : Nat) : Prop := t.regState f r = u.regState f r ∧ t.regTok f r = u.regTok f r

variable {f' : RegFile} {r' : Nat}

theorem sameReg_setG (h : f' = .gr → r' ≠ r) : SameReg (t.setG r v) t f' r' := by
  cases f' with
  | gr => simp [SameReg, Ctx.regState, Ctx.regTok, gReg_setG_ne t r r' v (h rfl)]
  | pr | vr | ox => simp [SameReg, Ctx.regState, Ctx.regTok]

theorem sameReg_setP (h : f' = .pr → r' ≠ r) : SameReg (t.setP r v) t f' r' := by
  cases f' with
  | pr => simp [SameReg, Ctx.regState, Ctx.regTok, pReg_setP_ne t r r' v (h rfl)]
  | gr | vr | ox => simp [SameReg, Ctx.regState, Ctx.regTok]

theorem sameReg_setOx (h : f' = .ox → r' ≠ r) : SameReg (t.setOx r v) t f' r' := by
  cases f' with
  | ox => simp [SameReg, Ctx.regState, Ctx.regTok, oxReg_setOx, h rfl]
  | gr | pr | vr => simp [SameReg, Ctx.regState, Ctx.regTok]

theorem sameReg_setV (h : f' = .vr → r' ≠ r) : SameReg (t.setV r x m) t f' r' := by
  cases f' with
  | vr => simp [SameReg, Ctx.regState, Ctx.regTok, vReg_setV_ne t r x m (h rfl)]
  | gr | pr | ox => simp [SameReg, Ctx.regState, Ctx.regTok]

/-- A token of a kind that a file does not take is not written; one that it takes is written by the file's own operation. -/
theorem writeTok_cases (P : Ctx → Prop) (hself : P t) (hg : ∀ v, f = .gr → P (t.setG r v)) (hp : ∀ v, f = .pr → P (t.setP r v))
    (ho : ∀ v, f = .ox → P (t.setOx r v)) (hv : ∀ x m, f = .vr → P (t.setV r x m)) : P (t.writeTok f r k) := by
  cases k with
  | null => cases f <;> exact hself
  | scalar v =>
    cases f with
    | gr => exact hg v rfl
    | pr => exact hp v rfl
    | vr => exact hself
    | ox => exact ho v rfl
  | vector x m =>
    cases f with
    | vr => exact hv x m rfl
    | gr | pr | ox => exact hself

/-- A write of a register leaves every other one (R86). -/
theorem sameReg_writeTok_ne (h : (f, r) ≠ (f', r')) : SameReg (t.writeTok f r k) t f' r' := by
  have hr : f' = f → r' ≠ r := fun hf hr => h (by rw [hf, hr])
  refine writeTok_cases t f r k (SameReg · t f' r') ⟨rfl, rfl⟩ ?_ ?_ ?_ ?_
  · rintro v rfl; exact sameReg_setG t r v hr
  · rintro v rfl; exact sameReg_setP t r v hr
  · rintro v rfl; exact sameReg_setOx t r v hr
  · rintro x m rfl; exact sameReg_setV t r x m hr

@[simp] theorem writeTok_null : t.writeTok f r .null = t := by cases f <;> rfl

/-- R81: g0 and p0 take no write. -/
@[simp] theorem writeTok_g0 : t.writeTok .gr 0 k = t := by cases k <;> rfl
@[simp] theorem writeTok_p0 : t.writeTok .pr 0 k = t := by cases k <;> rfl

/-- A context with no register written: its thread, its window and what else is no register. -/
def withoutRegs (t : Ctx) : Ctx := { t with g := [], p := [], v := [], ox := [] }

@[simp] theorem withoutRegs_setG : withoutRegs (t.setG r v) = withoutRegs t := by
  unfold Ctx.setG
  split <;> rfl

@[simp] theorem withoutRegs_writeTok : withoutRegs (t.writeTok f r k) = withoutRegs t := by
  refine writeTok_cases t f r k (withoutRegs · = withoutRegs t) rfl ?_ ?_ ?_ ?_
  · exact fun v _ => withoutRegs_setG t r v
  · intro v _; unfold Ctx.setP; split <;> rfl
  · exact fun v _ => rfl
  · intro x m _; unfold Ctx.setV; split <;> rfl

end Writes

/-! ### The lanes of a vector write -/

/-- The bits of one lane. -/
theorem getLsbD_oneLane (n i : Nat) (hn : n < 32) : (0xFFFFFFFF#1024 <<< (32 * n)).getLsbD i = decide (i / 32 = n) := by
  have hones : (0xFFFFFFFF#1024).getLsbD (i - 32 * n) = (decide (i - 32 * n < 1024) && decide (i - 32 * n < 32)) := by
    rw [BitVec.getLsbD_ofNat, show 0xFFFFFFFF = 2 ^ 32 - 1 from rfl, Nat.testBit_two_pow_sub_one]
  rw [BitVec.getLsbD_shiftLeft, hones, Bool.eq_iff_iff]
  simp only [Bool.and_eq_true, Bool.not_eq_true', decide_eq_true_eq, decide_eq_false_iff_not]
  omega

/-- The bits of the valid lanes among the first `n`. -/
theorem getLsbD_laneBits_below (m : W32) (n i : Nat) (hn : n ≤ 32) :
    ((List.range n).foldl (fun acc j => if m.getLsbD j then acc ||| (0xFFFFFFFF#1024 <<< (32 * j)) else acc) (0 : V1024)).getLsbD i =
      (decide (i / 32 < n) && m.getLsbD (i / 32)) := by
  induction n with
  | zero => simp
  | succ n ih =>
    rw [List.range_succ, List.foldl_append, List.foldl_cons, List.foldl_nil, apply_ite (BitVec.getLsbD · i), BitVec.getLsbD_or,
      ih (by omega), getLsbD_oneLane n i (by omega)]
    by_cases hi : i / 32 = n
    · simp [hi]
    · have hlt : i / 32 < n + 1 ↔ i / 32 < n := by omega
      simp [hi, hlt]

theorem getLsbD_laneBits (m : W32) (i : Nat) : (laneBits m).getLsbD i = m.getLsbD (i / 32) := by
  unfold laneBits
  rw [getLsbD_laneBits_below m 32 i (Nat.le_refl 32)]
  by_cases hi : i / 32 < 32
  · simp [hi]
  · simp [hi, BitVec.getLsbD_of_ge m (i / 32) (by omega)]

/-- R86: a vector write takes the valid lanes of its token, and every other lane keeps its content. -/
theorem lane_merge (x y : V1024) (m : W32) (j : Nat) (hj : j < 32) :
    lane ((x &&& laneBits m) ||| (y &&& ~~~ laneBits m)) 32 j = if m.getLsbD j then lane x 32 j else lane y 32 j := by
  refine BitVec.eq_of_getLsbD_eq fun i hi => ?_
  have hlt : 32 * j + i < 1024 := by omega
  have hq : (32 * j + i) / 32 = j := by omega
  simp only [lane, BitVec.getLsbD_extractLsb', hi, BitVec.getLsbD_or, BitVec.getLsbD_and, BitVec.getLsbD_not, hlt, getLsbD_laneBits, hq]
  cases hm : m.getLsbD j <;> simp [hi]

/-! ### The registers after the WRs of a block -/

/-- The slot pushes no word, and its effect, if it has one, is a WR. -/
def AtMostWr (q : Slot) : Prop := q.push = [] ∧ (q.eff = .none ∨ ∃ f r k, q.eff = .wr f r k)

/-- The effects of the block's slots are WRs alone, and none of them pushes a word. -/
def WritesOnly (b : Block) : Prop := ∀ q ∈ b.slots, AtMostWr q

/-- The exits by which the thread goes on at the block that the exit names (R120). -/
def jumps : List ExitKind := [.br, .bri, .call, .calli, .ret]

/-- The context with the write that a slot has recorded. -/
def applyWr (t : Ctx) (q : Slot) : Ctx := match q.eff with
  | .wr f r k => t.writeTok f r k
  | _ => t

/-- The context with the WRs of a block, in slot order (R54, R86). -/
def written (t : Ctx) (b : Block) : Ctx := b.slots.foldl applyWr t

/-- The same with the link that the exit leaves in g1 (R120). -/
def linked (t : Ctx) (b : Block) (e : BlkExit) : Ctx :=
  if e.kind ∈ [.call, .calli] then (written t b).setG 1 (BitVec.ofNat 64 b.link) else written t b

theorem withoutRegs_applyWr (t : Ctx) (q : Slot) : withoutRegs (applyWr t q) = withoutRegs t := by
  unfold applyWr
  split
  · exact withoutRegs_writeTok ..
  · rfl

theorem withoutRegs_written (t : Ctx) (b : Block) : withoutRegs (written t b) = withoutRegs t := by
  unfold written
  induction b.slots generalizing t with
  | nil => rfl
  | cons q qs ih => exact (ih (applyWr t q)).trans (withoutRegs_applyWr t q)

theorem withoutRegs_linked (t : Ctx) (b : Block) (e : BlkExit) : withoutRegs (linked t b e) = withoutRegs t := by
  unfold linked
  split
  · exact (withoutRegs_setG ..).trans (withoutRegs_written t b)
  · exact withoutRegs_written t b

/-- The thread of a context stays as its registers are written. -/
theorem thread_linked (t : Ctx) (b : Block) (e : BlkExit) :
    (linked t b e).gtid = t.gtid ∧ (linked t b e).st = t.st ∧ (linked t b e).pair = t.pair := by
  have h := withoutRegs_linked t b e
  have hgtid := congrArg Ctx.gtid h
  have hst := congrArg Ctx.st h
  have hpair := congrArg Ctx.pair h
  exact ⟨hgtid, hst, hpair⟩

/-- A fold of steps that change nothing. -/
theorem foldl_eq_self {α β : Type} {f : β → α → β} {l : List α} (h : ∀ a ∈ l, ∀ b, f b a = b) (b : β) : l.foldl f b = b := by
  induction l with
  | nil => rfl
  | cons a l ih =>
    rw [List.foldl_cons, h a List.mem_cons_self]
    exact ih fun c hc => h c (List.mem_cons_of_mem a hc)

section WritesOnly

variable {b : Block} (hb : WritesOnly b)
include hb

/-- The effects of such a block, one by one. -/
theorem WritesOnly.eff {e : Eff} (he : e ∈ b.effs) : e = .none ∨ ∃ f r k, e = .wr f r k := by
  obtain ⟨q, hq, rfl⟩ := List.mem_map.1 he
  exact (hb q hq).2

theorem WritesOnly.dest?_eq_none {e : Eff} (he : e ∈ b.effs) : e.dest? = none := by
  rcases hb.eff he with rfl | ⟨f, r, k, rfl⟩ <;> rfl

theorem WritesOnly.cells_eq_nil (sp : Space) : b.cells sp = [] := by
  refine List.flatMap_eq_nil_iff.2 fun e he => ?_
  rcases hb.eff he with rfl | ⟨f, r, k, rfl⟩ <;> rfl

theorem WritesOnly.forks_eq_zero : b.forks = 0 := by
  refine List.countP_eq_zero.2 fun e he => ?_
  rcases hb.eff he with rfl | ⟨f, r, k, rfl⟩ <;> simp

/-- Step 1 of the commit of such a block (R54): its WRs in slot order, then the link. -/
theorem WritesOnly.commitRegs_eq (t : Ctx) {e : BlkExit} (he : b.exit = some e) : t.commitRegs b = linked t b e := by
  have hwr (f : Ctx → Eff → Ctx) (hf : ∀ u q, f u (Slot.eff q) = applyWr u q) : b.effs.foldl f t = written t b := by
    rw [Block.effs, List.foldl_map, funext fun u => funext (hf u)]
    rfl
  dsimp only [Ctx.commitRegs]
  rw [hwr, hb.forks_eq_zero, he]
  · refine (foldl_eq_self (fun a ha t => ?_) _).trans ?_
    · rw [hb.dest?_eq_none ha]
    · simp [linked]
  · exact fun _ _ => rfl

/-- Step 2 releases nothing (R54, R222). -/
theorem WritesOnly.release_eq (s : State) (c x c0 : Nat) :
    b.releaseOrder.foldl (fun s q => (s.releaseEff c x c0 q.1 b.addr q.2.eff).releasePushes c x c0 q.2.push) s = s := by
  refine foldl_eq_self (fun p hp s => ?_) s
  have hslot : AtMostWr p.2 := by
    have hmem : ∀ q ∈ (List.range b.slots.length).zip b.slots, AtMostWr q.2 := fun q hq => hb _ (List.of_mem_zip hq).2
    simp only [Block.releaseOrder, List.mem_append, List.mem_map, List.mem_filter] at hp
    rcases hp with ⟨q, ⟨hq, _⟩, rfl⟩ | ⟨q, hq, rfl⟩
    · exact ⟨rfl, (hmem q hq).2⟩
    · exact iteInduction (motive := AtMostWr) (fun _ => ⟨(hmem q hq).1, .inl rfl⟩) fun _ => hmem q hq
  obtain ⟨hpush, heff⟩ := hslot
  rw [hpush]
  rcases heff with h | ⟨f, r, k, h⟩ <;> rw [h] <;> rfl

end WritesOnly

/-! ### What the commit leaves as it was -/

/-- From `s` to `t` device memory, host memory and the local memory of the core `c` stay. -/
structure SameMemory (c : Nat) (s t : State) : Prop where
  readByte : ∀ pa, t.readByte pa = s.readByte pa
  lmem : (t.core c).lmem = (s.core c).lmem
  hostMem : t.hostMem = s.hostMem

/-- The same, and the context `x` of the core stays. -/
structure Keeps (c x : Nat) (s t : State) : Prop extends SameMemory c s t where
  ctx : t.ctx c x = s.ctx c x

section Keeps

variable {c x : Nat} {s t u : State}

theorem SameMemory.trans (h : SameMemory c s t) (g : SameMemory c t u) : SameMemory c s u :=
  ⟨fun pa => (g.readByte pa).trans (h.readByte pa), g.lmem.trans h.lmem, g.hostMem.trans h.hostMem⟩

theorem sameMemory_modCtx (f : Ctx → Ctx) : SameMemory c s (s.modCtx c x f) := ⟨fun _ => rfl, by simp [State.modCtx], rfl⟩

theorem sameMemory_enterBlock (addr at_ : Nat) : SameMemory c s (s.enterBlock c x addr at_) :=
  ⟨fun _ => rfl, by simp [State.enterBlock, State.modCtx], rfl⟩

theorem Keeps.refl (s : State) : Keeps c x s s := ⟨⟨fun _ => rfl, rfl, rfl⟩, rfl⟩

theorem Keeps.trans (h : Keeps c x s t) (g : Keeps c x t u) : Keeps c x s u :=
  ⟨h.toSameMemory.trans g.toSameMemory, g.ctx.trans h.ctx⟩

theorem Keeps.foldl {α : Type} {f : State → α → State} (hf : ∀ s a, Keeps c x s (f s a)) (l : List α) (s : State) :
    Keeps c x s (l.foldl f s) := by
  induction l generalizing s with
  | nil => exact .refl s
  | cons a l ih => exact (hf s a).trans (ih (f s a))

theorem keeps_modCore {f : Core → Core} (hctx : (f (s.core c)).ctxs = (s.core c).ctxs) (hlmem : (f (s.core c)).lmem = (s.core c).lmem) :
    Keeps c x s (s.modCore c f) where
  ctx := by simp [State.ctx, Core.ctx, hctx]
  readByte := fun _ => rfl
  lmem := by simp [hlmem]
  hostMem := rfl

/-- A package does not hold its cores: a core that the state does not list takes from it only its idle counters. -/
theorem keeps_modPkg (p : Nat) (f : Package → Package) : Keeps c x s (s.modPkg p f) := by
  have hcore : ((s.modPkg p f).core c).ctxs = (s.core c).ctxs ∧ ((s.modPkg p f).core c).lmem = (s.core c).lmem := by
    simp only [State.core, Tbl.get, modPkg_cores]
    cases s.cores.get? c <;> exact ⟨rfl, rfl⟩
  obtain ⟨hctxs, hlmem⟩ := hcore
  exact ⟨⟨fun _ => rfl, hlmem, rfl⟩, congrArg (fun m : Tbl Ctx => m.get {} x) hctxs⟩

theorem keeps_modRunOf (f : Run → Run) : Keeps c x s (s.modRunOf c x f) := by
  unfold State.modRunOf
  split
  · exact keeps_modPkg _ _
  · exact .refl s

theorem keeps_trace (y kind exit blk : Nat) (payload : Option Nat) : Keeps c x s (s.trace c y kind exit blk payload) := by
  unfold State.trace
  extract_lets tc on r
  split
  · exact .refl s
  · refine keeps_modCore ?_ ?_ <;> split <;> rfl

theorem keeps_countEx (ev : List (Nat × Nat)) : Keeps c x s (s.countEx c ev) := by
  refine Keeps.foldl (fun s e => ?_) ev s
  unfold State.count
  split
  · exact .refl s
  · exact keeps_modCore rfl rfl

end Keeps

/-! ### The commit -/

/-- The context when its block has committed and the next one is entered (R54, R55): its registers are those of `linked`. -/
def afterCommit (t : Ctx) (b : Block) (e : BlkExit) (now : Nat) : Ctx :=
  { linked t b e with
    blk := none, fetch := some { addr := e.target, begins := now + 16 }, commitAt := some now, mism := none, lvq := [], serial := t.serial + 2 }

theorem takeExit_of_jump (s : State) (c x c0 : Nat) (b : Block) {e : BlkExit} (he : e.kind ∈ jumps) :
    s.takeExit c x c0 b e = s.goOn c x c0 e.target := by
  simp only [jumps, List.mem_cons, List.not_mem_nil, or_false] at he
  rcases he with h | h | h | h | h <;> simp only [State.takeExit, h]

theorem team_of_single {s : State} {c x : Nat} (hp : (s.ctx c x).pair = false) : s.team c x = [x] := by simp [State.team, hp]

theorem goOn_of_single {s : State} {c x : Nat} (hx : x ≠ 0) (hp : (s.ctx c x).pair = false) (c0 target : Nat) :
    s.goOn c x c0 target = s.enterBlock c x target (c0 + 16) := by
  simp [State.goOn, hx, team_of_single hp]

theorem ctx_enterBlock (s : State) (c x addr at_ : Nat) : (s.enterBlock c x addr at_).ctx c x =
    { s.ctx c x with blk := none, fetch := some { addr := addr, begins := at_ }, serial := (s.ctx c x).serial + 1, lvq := [] } := by
  have hsched (s : State) (i : Event) : (s.sched at_ i).ctx c x = s.ctx c x := rfl
  rw [State.enterBlock, hsched, ctx_modCtx_self]

theorem active_of_mayCommit {s : State} {c x : Nat} {b : Block} (h : s.mayCommit c x b = true) : (s.ctx c x).st = .active := by
  simp only [State.mayCommit, Bool.and_eq_true, beq_iff_eq, and_assoc] at h
  exact h.1

/-- A block of a context in no pair, all of whose conditions hold, commits (R53). -/
theorem exec_blockCommit_of_single {s : State} {c x : Nat} {b : Block} {e : BlkExit} (hev : s.ev = .blockCommit c x)
    (hp : (s.ctx c x).pair = false) (hblk : (s.ctx c x).blk = some b) (hexit : b.exit = some e) (hmay : s.mayCommit c x b = true) :
    exec .blockCommit s = .next (s.commitBlock c x s.now b e) := by
  show execBlockCommit s = _
  simp [execBlockCommit, hev, hblk, hexit, hp, hmay]

/-- The commit of WRs alone through a jump (R54, R55, R86, R120): the registers are written, the next block is entered, and every memory stays. -/
theorem exec_blockCommit_of_writesOnly {s : State} {c x : Nat} {b : Block} {e : BlkExit} (hev : s.ev = .blockCommit c x) (hx : x ≠ 0)
    (hp : (s.ctx c x).pair = false) (hblk : (s.ctx c x).blk = some b) (hexit : b.exit = some e) (hmay : s.mayCommit c x b = true)
    (htaken : b.taken = []) (hb : WritesOnly b) (he : e.kind ∈ jumps) :
    ∃ t, exec .blockCommit s = .next t ∧ t.ctx c x = afterCommit (s.ctx c x) b e s.now ∧ SameMemory c s t := by
  refine ⟨_, exec_blockCommit_of_single hev hp hblk hexit hmay, ?_⟩
  unfold State.commitBlock
  rw [team_of_single hp, List.foldl_cons, List.foldl_nil]
  extract_lets s1 s2 s3 s4 s5 s6 s7
  have h1 : s1.ctx c x = { linked (s.ctx c x) b e with
      blk := none, commitAt := some s.now, mism := none, lvq := [], serial := (s.ctx c x).serial + 1 } := by
    simp [s1, hblk, hb.commitRegs_eq _ hexit]
  have h12 : Keeps c x s1 s2 := by
    unfold s2
    split
    · exact keeps_modRunOf _
    · exact .refl s1
  have h23 : Keeps c x s2 s3 := keeps_trace ..
  have h35 : s5 = s3 := by
    simp [s5, s4, hb.cells_eq_nil, htaken, State.commitLocal, State.privStores, State.commitPops]
  have h56 : Keeps c x s5 s6 := Keeps.foldl (fun s q => keeps_countEx q.ex) b.slots s5
  have h67 : s7 = s6 := hb.release_eq s6 c x s.now
  have h17 : Keeps c x s1 s7 := h67 ▸ (h12.trans h23).trans (h35 ▸ h56)
  obtain ⟨_, _, hpair⟩ := thread_linked (s.ctx c x) b e
  have hp7 : (s7.ctx c x).pair = false := by
    rw [h17.ctx, h1]
    exact hpair.trans hp
  rw [takeExit_of_jump s7 c x s.now b he, goOn_of_single hx hp7]
  refine ⟨?_, ((sameMemory_modCtx _).trans h17.toSameMemory).trans (sameMemory_enterBlock ..)⟩
  rw [ctx_enterBlock, h17.ctx, h1, afterCommit]

/-! ### The obligations -/

theorem sameReg_afterCommit (t : Ctx) (b : Block) (e : BlkExit) (now : Nat) (f : RegFile) (r : Nat) :
    SameReg (afterCommit t b e now) (linked t b e) f r := by
  cases f <;> exact ⟨rfl, rfl⟩

/-- R105: a WR fires on any token; a null one only fires, and another records what its commit writes. -/
theorem wr_fires (s : State) (f : RegFile) (r : BitVec 6) :
    if s.slot.l.tok.isNull then s.Does (.wr f r) { isNull := true } else s.Records (.wr f r) (.wr f r.toNat s.slot.l.tok) := by
  have hexec : exec (.wr f r) s =
      .next (if s.slot.l.tok.isNull then s.fired true else s.fired false (.wr f r.toNat s.slot.l.tok)) := rfl
  split
  · next h => exact ⟨_, hexec, by rw [if_pos h]; exact fires_fired s true .none⟩
  · next h => exact ⟨_, hexec, by rw [if_neg h]; exact fires_fired s false _⟩

/-- The slot writes no register but g0 and p0. -/
def HardwiredOnly (q : Slot) : Prop := q.eff = .none ∨ ∃ k, q.eff = .wr .gr 0 k ∨ q.eff = .wr .pr 0 k

theorem HardwiredOnly.wr {q : Slot} (h : HardwiredOnly q) : q.eff = .none ∨ ∃ f r k, q.eff = .wr f r k := by
  rcases h with h | ⟨k, h | h⟩
  · exact .inl h
  · exact .inr ⟨_, _, k, h⟩
  · exact .inr ⟨_, _, k, h⟩

/-- R81: WRs of g0 and p0 alone write nothing. -/
theorem written_hardwired (t : Ctx) {b : Block} (h : ∀ q ∈ b.slots, HardwiredOnly q) : written t b = t := by
  refine foldl_eq_self (fun q hq t => ?_) t
  rcases h q hq with h | ⟨k, h | h⟩ <;> simp [applyWr, h]

/-- R81: the g register of an asynchronous producer is encoded as a number other than 0. -/
theorem producers_name_no_g0 (pm : Pm) (ta : BitVec 4) (g : BitVec 6) (k : BitVec 8) :
    ((Instr.tckv pm ta g).wf = true → g ≠ 0) ∧ ((Instr.waitt pm g k).wf = true → g ≠ 0) ∧ ((Instr.faddb g).wf = true → g ≠ 0) ∧
      ((Instr.incw pm g).wf = true → g ≠ 0) ∧ ((Instr.dcall pm g).wf = true → g ≠ 0) ∧ ((Instr.merge pm g).wf = true → g ≠ 0) := by
  have last {a : Bool} (h : (a && g != 0) = true) : g ≠ 0 := bne_iff_ne.1 (Bool.and_eq_true_iff.1 h).2
  exact ⟨last, fun h => last (Bool.and_eq_true_iff.1 h).1, bne_iff_ne.1, last, last, last⟩

/-- Settles O5: no operation changes g0 or p0, and a commit of WRs of them alone is one whose WRs write nothing. -/
theorem hardwiredRegisters : Obligations.HardwiredRegisters := by
  unfold Obligations.HardwiredRegisters
  refine ⟨fun _ => ⟨rfl, rfl, rfl, rfl⟩, fun t k => ⟨writeTok_g0 t k, writeTok_p0 t k, rfl, rfl⟩, fun s f _ => wr_fires s f 0, ?_,
    producers_name_no_g0, fun s c m v ok hg => if_pos hg⟩
  intro s c x b e hev hx hp hblk hexit hmay htaken hslots he
  have hb : WritesOnly b := fun q hq => ⟨(hslots q hq).1, HardwiredOnly.wr (hslots q hq).2⟩
  have hkind : e.kind ∉ [.call, .calli] ∧ e.kind ∈ jumps := by
    simp only [List.mem_cons, List.not_mem_nil, or_false] at he
    rcases he with h | h | h <;> rw [h] <;> decide
  obtain ⟨hcall, hjump⟩ := hkind
  have hlinked : linked (s.ctx c x) b e = s.ctx c x := by
    rw [linked, if_neg hcall, written_hardwired _ fun q hq => (hslots q hq).2]
  obtain ⟨t, hexec, hctx, _⟩ := exec_blockCommit_of_writesOnly hev hx hp hblk hexit hmay htaken hb hjump
  refine ⟨t, hexec, by rw [hctx, afterCommit], fun f r => ?_⟩
  have hregs := sameReg_afterCommit (s.ctx c x) b e s.now f r
  rwa [hlinked, ← hctx] at hregs

/-- R86: what a token that a file takes makes of its register. -/
theorem writeTok_self (t : Ctx) (r : Nat) (v : W64) :
    (r ≠ 0 → (t.writeTok .gr r (.scalar v)).gReg r = ⟨.full, v⟩ ∧ (t.writeTok .pr r (.scalar v)).pReg r = ⟨.full, v.setWidth 32⟩) ∧
      (t.writeTok .ox r (.scalar v)).oxReg r = ⟨.full, v⟩ :=
  ⟨fun h => ⟨gReg_setG_self t r v h, pReg_setP_self t r v h⟩, (oxReg_setOx t r r v).trans (if_pos rfl)⟩

/-- R86: a vector write makes its register FULL, with the valid lanes of its token and its own content in the others. -/
theorem writeTok_vector (t : Ctx) (r : Nat) (x : V1024) (m : W32) (hm : m ≠ 0) :
    ((t.writeTok .vr r (.vector x m)).vReg r).st = .full ∧ ∀ j, j < 32 → lane ((t.writeTok .vr r (.vector x m)).vReg r).val 32 j =
      if m.getLsbD j then lane x 32 j else lane (t.vReg r).val 32 j := by
  have h : (t.writeTok .vr r (.vector x m)).vReg r = _ := vReg_setV_self t r x m hm
  rw [h]
  exact ⟨rfl, fun j hj => lane_merge x _ m j hj⟩

/-- Settles O7: a write reads back by its file's own rule and leaves the other registers; the commit is `linked`. -/
theorem registerWriteRule : Obligations.RegisterWriteRule := by
  unfold Obligations.RegisterWriteRule
  refine ⟨⟨fun t r v hr => (writeTok_self t r v).1 hr, fun t r v => (writeTok_self t r v).2, writeTok_vector, writeTok_null,
    fun t r x => setV_zero t r x, fun t r => ⟨rfl, get_put_self _ _ _ _⟩, fun t f f' r r' k h => sameReg_writeTok_ne t f r k h⟩, ?_⟩
  intro s c x b e hev hx hp hblk hexit hmay htaken hslots he
  obtain ⟨t, hexec, hctx, hmem⟩ := exec_blockCommit_of_writesOnly hev hx hp hblk hexit hmay htaken hslots he
  obtain ⟨hgtid, hst, _⟩ := thread_linked (s.ctx c x) b e
  refine ⟨t, hexec, ?_⟩
  rw [hctx]
  exact ⟨sameReg_afterCommit (s.ctx c x) b e s.now, rfl, hgtid, hst.trans (active_of_mayCommit hmay), hmem.readByte, hmem.lmem, hmem.hostMem⟩

end Sys2Proof.Registers

end
